-- ==== Sys2Proof/Word.lean ====
section
/-! DEFINITION. The machine's words (00 R9, 03 R84) and the list form of sparse storage. -/

namespace Sys2Proof

/-- A 64-bit register word. -/
abbrev Word := BitVec 64

/-- A 32-bit lane or counter. -/
abbrev W32 := BitVec 32

/-- A byte of memory. -/
abbrev Byte := BitVec 8

/-- Sparse data by number: a list of (key, value) with strictly rising keys in which no entry holds the value an
unlisted key reads as. -/
abbrev SMap (α : Type) := List (Nat × α)

end Sys2Proof
end

