-- ==== Sys2Proof/Syntax.lean ====
section
/-! DEFINITION. The instructions and events of spec/opcode_table.json, one constructor per row. Operand fields have the
exact ranges of the encodings (02 R54 to R60, 05, 06, 07, 04 R140, 12 R381 R382); what an entry forbids beyond a range
is in WellFormed. -/

namespace Sys2Proof

/-- A line operand: bit [11] of a vector operand is 0 (02 R58). DIR 0 h, 1 v, 2 d, 3 a. -/
structure Line where
  dir : Fin 4
  m : Fin 16
  line : Fin 32
  deriving DecidableEq, Repr, Inhabited

/-- A 12-bit vector operand (02 R58). -/
inductive VOp where
  | line (l : Line)
  | port (k : Fin 8)
  | xreg (r : Fin 64)
  | imm (v : Fin 256)
  | mask (k : Fin 8)
  | xdest (r : Fin 64)
  deriving DecidableEq, Repr, Inhabited

/-- The kinds of exchange messages (11 R340). -/
inductive MsgKind where
  | start | data | ack | paused
  deriving DecidableEq, Repr, Inhabited

/-- A message of the exchange engines: its header and, for DATA, one chunk's payload with the tag and the poison bit of the block that
each element came from (11 R334 R340). `info` holds what START announces: OP, DTYPE, ROP, FLAGS, PEER, TAG, element size and the
element counts. `lost`: the bridge fabric reports an error of the message where it would arrive (11 R344). `port` and `flits`: the link port of
this package that it arrived on and the flits that carried it (15 R448), port 18 and none for one of this package. -/
structure Message where
  kind : MsgKind
  comm : Word
  seq : Word
  src : Nat
  dst : Nat
  chunk : Nat
  step : Nat
  info : List Nat
  cdone : Nat
  cmap : Word
  payload : List Byte
  metas : List (BitVec 25)
  lost : Bool
  port : Fin 19
  flits : List (List (BitVec 8))
  deriving DecidableEq, Repr, Inhabited

/-- A link-control flit that acknowledges the flits up to one, with the receive credits that it returns (15 R448). -/
structure FlitAck where
  seq : Fin 4096
  cred : Fin 256
  deriving DecidableEq, Repr, Inhabited

/-- The ways of interleave of an HDM decoder (15 R444). -/
inductive Ways where
  | one | two | four
  deriving DecidableEq, Repr, Inhabited

def Ways.count : Ways → Nat
  | .one => 1
  | .two => 2
  | .four => 4

/-- An HDM decoder (15 R444 R445): the host range it decodes, its interleave (granule 2^(8+gran) bytes, the device's place `pos`) and the
device address where its range begins. -/
structure Decoder where
  enable : Bool
  base : Nat
  size : Nat
  ways : Ways
  gran : Fin 5
  pos : Fin 4
  dpa : Nat
  deriving DecidableEq, Repr, Inhabited

/-- One of the 64 vectors of the MSI-X function (15 R444). -/
structure MsixVector where
  addr : BitVec 64
  data : BitVec 32
  masked : Bool
  deriving DecidableEq, Repr, Inhabited

/-- A register of the device with no row of its own in the opcode table: one at an offset of BAR0 (15 R446), an HDM decoder or an MSI-X vector,
which the host sets whole (15 R444). -/
inductive HostReg where
  | bar0 (off : Nat)
  | decoder (k : Fin 4) (d : Decoder)
  | vector (k : Fin 64) (v : MsixVector)
  deriving DecidableEq, Repr, Inhabited

/-- Who waits for the reply to a resolvable fault (14 R436): the strand, an engine, a queue's fetcher, or the pickup of a record. -/
inductive Waiter where
  | strand
  | engine (q : Fin 6)
  | fetcher (part : Fin 8) (k : Fin 64)
  | pickup (part : Fin 8) (pipe : Nat) (at_ : Word)
  deriving DecidableEq, Repr, Inhabited

/-- An uncorrectable error on a read of a unit of work (08 R267): the number of the block request in the unit's order, whether the error
was in L2, and whether the second read fails too. -/
structure ReadError where
  request : Nat
  l2 : Bool
  again : Bool
  deriving DecidableEq, Repr, Inhabited

/-- Every row of the opcode table: instructions of the five slots, then the events. `g` is the guard (02 R52). -/
inductive Instr where
  -- A slot
  | nop -- NOP, R42
  | add (g : Fin 8) (d a b : Fin 64) -- ADD, R164
  | sub (g : Fin 8) (d a b : Fin 64) -- SUB, R164
  | mul (g : Fin 8) (d a b : Fin 64) -- MUL, R164
  | mulh (g : Fin 8) (d a b : Fin 64) -- MULH, R164
  | mulhn (g : Fin 8) (d a b : Fin 64) -- MULHN, R164
  | div (g : Fin 8) (d a b : Fin 64) -- DIV, R165
  | divn (g : Fin 8) (d a b : Fin 64) -- DIVN, R165
  | rem (g : Fin 8) (d a b : Fin 64) -- REM, R165
  | remn (g : Fin 8) (d a b : Fin 64) -- REMN, R165
  | andOp (g : Fin 8) (d a b : Fin 64) -- AND, R164
  | orOp (g : Fin 8) (d a b : Fin 64) -- OR, R164
  | xorOp (g : Fin 8) (d a b : Fin 64) -- XOR, R164
  | andn (g : Fin 8) (d a b : Fin 64) -- ANDN, R164
  | sll (g : Fin 8) (d a b : Fin 64) -- SLL, R164
  | srl (g : Fin 8) (d a b : Fin 64) -- SRL, R164
  | sra (g : Fin 8) (d a b : Fin 64) -- SRA, R164
  | rol (g : Fin 8) (d a b : Fin 64) -- ROL, R164
  | minOp (g : Fin 8) (d a b : Fin 64) -- MIN, R164
  | maxOp (g : Fin 8) (d a b : Fin 64) -- MAX, R164
  | minn (g : Fin 8) (d a b : Fin 64) -- MINN, R164
  | maxn (g : Fin 8) (d a b : Fin 64) -- MAXN, R164
  | absOp (g : Fin 8) (d a : Fin 64) -- ABS, R164
  | clz (g : Fin 8) (d a : Fin 64) -- CLZ, R164
  | ctz (g : Fin 8) (d a : Fin 64) -- CTZ, R164
  | popc (g : Fin 8) (d a : Fin 64) -- POPC, R164
  | sext (g : Fin 8) (d a : Fin 64) (w : Fin 3) -- SEXT, R164
  | zext (g : Fin 8) (d a : Fin 64) (w : Fin 3) -- ZEXT, R164
  | bfx (g : Fin 8) (d a b : Fin 64) (s : Fin 2) -- BFX, R166
  | bfi (g : Fin 8) (d a b : Fin 64) -- BFI, R166
  | sel (g : Fin 8) (d a b : Fin 64) (n : Fin 16) -- SEL, R166
  | addi (g : Fin 8) (d a : Fin 64) (i : Fin 1024) -- ADDI, R167
  | andi (g : Fin 8) (d a : Fin 64) (i : Fin 1024) -- ANDI, R167
  | ori (g : Fin 8) (d a : Fin 64) (i : Fin 1024) -- ORI, R167
  | xori (g : Fin 8) (d a : Fin 64) (i : Fin 1024) -- XORI, R167
  | slli (g : Fin 8) (d a : Fin 64) (i : Fin 64) -- SLLI, R167
  | srli (g : Fin 8) (d a : Fin 64) (i : Fin 64) -- SRLI, R167
  | srai (g : Fin 8) (d a : Fin 64) (i : Fin 64) -- SRAI, R167
  | muli (g : Fin 8) (d a : Fin 64) (i : Fin 1024) -- MULI, R167
  | limm (g : Fin 8) (d : Fin 64) (i : Fin 1024) -- LIMM, R168
  | limmPair (g : Fin 8) (d : Fin 64) (i : Fin 4398046511104) -- LIMM_PAIR, R168
  | lihi (g : Fin 8) (d a : Fin 64) (i : Fin 1024) -- LIHI, R168
  | lihiPair (g : Fin 8) (d a : Fin 64) (i : Fin 4398046511104) -- LIHI_PAIR, R168
  | pcadd (g : Fin 8) (d : Fin 64) (i : Fin 1024) -- PCADD, R167
  | cmpeq (g : Fin 8) (d : Fin 16) (a b : Fin 64) -- CMPEQ, R169
  | cmpne (g : Fin 8) (d : Fin 16) (a b : Fin 64) -- CMPNE, R169
  | cmplt (g : Fin 8) (d : Fin 16) (a b : Fin 64) -- CMPLT, R169
  | cmple (g : Fin 8) (d : Fin 16) (a b : Fin 64) -- CMPLE, R169
  | cmpltn (g : Fin 8) (d : Fin 16) (a b : Fin 64) -- CMPLTN, R169
  | cmplen (g : Fin 8) (d : Fin 16) (a b : Fin 64) -- CMPLEN, R169
  | cmpeqi (g : Fin 8) (d : Fin 16) (a : Fin 64) (i : Fin 1024) -- CMPEQI, R169
  | cmplti (g : Fin 8) (d : Fin 16) (a : Fin 64) (i : Fin 1024) -- CMPLTI, R169
  | cmpltni (g : Fin 8) (d : Fin 16) (a : Fin 64) (i : Fin 1024) -- CMPLTNI, R169
  | pand (g : Fin 8) (d a b : Fin 16) -- PAND, R169
  | por (g : Fin 8) (d a b : Fin 16) -- POR, R169
  | pxor (g : Fin 8) (d a b : Fin 16) -- PXOR, R169
  | pandn (g : Fin 8) (d a b : Fin 16) -- PANDN, R169
  | tstbit (g : Fin 8) (d : Fin 16) (a n : Fin 64) -- TSTBIT, R169
  | mfs (g : Fin 8) (d : Fin 64) (n : Fin 1024) -- MFS, R171
  | mts (g : Fin 8) (a : Fin 64) (n : Fin 1024) -- MTS, R171
  | shw (g : Fin 8) (k : Fin 4) (a : Fin 64) (n : Fin 8) -- SHW, R172
  | btmovToBt (g : Fin 8) (k : Fin 8) (a : Fin 64) -- BTMOV_TO_BT, R173
  | btmovFromBt (g : Fin 8) (d : Fin 64) (k : Fin 8) -- BTMOV_FROM_BT, R173
  | btset (g : Fin 8) (k : Fin 8) (i : Fin 1024) -- BTSET, R173
  | agw (g : Fin 8) (k : Fin 8) (a : Fin 64) (n : Fin 16) -- AGW, R172
  | xpw (g : Fin 8) (k : Fin 4) (a : Fin 64) (n : Fin 16) -- XPW, R172
  | chkerr (g : Fin 8) (d : Fin 64) (c : Fin 2) -- CHKERR, R174
  | segset (g : Fin 8) (i : Fin 4398046511104) -- SEGSET, R160
  | cvtaOff (g : Fin 8) (d a : Fin 64) -- CVTA_OFF, R175
  | cvtaOwn (g : Fin 8) (d a : Fin 64) -- CVTA_OWN, R175
  | cvtaCl (g : Fin 8) (d a b : Fin 64) -- CVTA_CL, R175
  | isap (g : Fin 8) (d : Fin 16) (a : Fin 64) (k : Fin 4) -- ISAP, R175
  | rdpw (g : Fin 8) (d a : Fin 64) (s : Fin 4) (k : Fin 8) -- RDPW, R163
  | rdtime (g : Fin 8) (d : Fin 64) -- RDTIME, R176
  | ecnt (g : Fin 8) (d : Fin 64) (e : Fin 5) -- ECNT, R176
  | rdwin (g : Fin 8) (d : Fin 64) -- RDWIN, R176
  | tlbinvPage (g : Fin 8) (a : Fin 64) (s : Fin 4) -- TLBINV_PAGE, R177
  | tlbinvAll (g : Fin 8) (s : Fin 4) -- TLBINV_ALL, R177
  | cinvWbinv (g : Fin 8) -- CINV_WBINV, R177
  | cinvInv (g : Fin 8) -- CINV_INV, R177
  | cinvWbpage (g : Fin 8) (a : Fin 64) -- CINV_WBPAGE, R177
  | ctxsave (g : Fin 8) (a : Fin 64) -- CTXSAVE, R431
  | ctxload (g : Fin 8) (a : Fin 64) -- CTXLOAD, R431
  | pswap (g : Fin 8) (a b : Fin 64) -- PSWAP, R435
  | quarantine (g : Fin 8) (a : Fin 64) -- QUARANTINE, R439
  | svc (g : Fin 8) (n : Fin 1024) -- SVC, R177
  | hackset (g : Fin 8) (a : Fin 64) (v : Fin 2) -- HACKSET, R177
  | dirtyclr (g : Fin 8) (a b : Fin 64) -- DIRTYCLR, R177
  -- X slot
  | tree (shape : Fin 8) (t1 t2 t3 t4 : Fin 32) (l1 l2 l3 l4 l5 : Fin 8) -- TREE, R50
  | br (g : Fin 8) (disp : Fin 4294967296) -- BR, R178
  | bri (g : Fin 8) (a : Fin 64) -- BRI, R178
  | call (g : Fin 8) (disp : Fin 4294967296) -- CALL, R178
  | calli (g : Fin 8) (a : Fin 64) -- CALLI, R178
  | ret (g : Fin 8) (k : Fin 8) -- RET, R178
  | loopOp (g : Fin 8) (n : Fin 64) (k : Fin 4) (len : Fin 1073741824) -- LOOP, R181
  | yield (g : Fin 8) -- YIELD, R183
  | suspend (g : Fin 8) -- SUSPEND, R183
  | fork (g : Fin 8) (a : Fin 64) (disp : Fin 4294967296) -- FORK, R184
  | exitOp (g : Fin 8) -- EXIT, R185
  | trapOp (g : Fin 8) (disp : Fin 4294967296) -- TRAP, R178
  | waitMem (g : Fin 8) (a b : Fin 64) -- WAIT_MEM, R186
  | waitEng (g : Fin 8) (mask : Fin 32) -- WAIT_ENG, R186
  | rftResume (g : Fin 8) -- RFT_RESUME, R425
  | rftYield (g : Fin 8) -- RFT_YIELD, R425
  | rftSuspend (g : Fin 8) -- RFT_SUSPEND, R425
  | rftFault (g : Fin 8) -- RFT_FAULT, R425
  | rftHold (g : Fin 8) -- RFT_HOLD, R425
  | idle (g : Fin 8) -- IDLE, R421
  -- L slot
  | ldB (g : Fin 8) (d b : Fin 64) (disp : Fin 4096) -- LD_B, R192
  | ldH (g : Fin 8) (d b : Fin 64) (disp : Fin 4096) -- LD_H, R192
  | ldW (g : Fin 8) (d b : Fin 64) (disp : Fin 4096) -- LD_W, R192
  | ldD (g : Fin 8) (d b : Fin 64) (disp : Fin 4096) -- LD_D, R192
  | ldnB (g : Fin 8) (d b : Fin 64) (disp : Fin 4096) -- LDN_B, R192
  | ldnH (g : Fin 8) (d b : Fin 64) (disp : Fin 4096) -- LDN_H, R192
  | ldnW (g : Fin 8) (d b : Fin 64) (disp : Fin 4096) -- LDN_W, R192
  | ldtag (g : Fin 8) (d b : Fin 64) (disp : Fin 4096) -- LDTAG, R193
  | stB (g : Fin 8) (d b : Fin 64) (disp : Fin 4096) -- ST_B, R192
  | stH (g : Fin 8) (d b : Fin 64) (disp : Fin 4096) -- ST_H, R192
  | stW (g : Fin 8) (d b : Fin 64) (disp : Fin 4096) -- ST_W, R192
  | stD (g : Fin 8) (d b : Fin 64) (disp : Fin 4096) -- ST_D, R192
  | sttag (g : Fin 8) (d b : Fin 64) (disp : Fin 4096) -- STTAG, R193
  | ldv (g : Fin 8) (m : Line) (b : Fin 64) (disp : Fin 4096) -- LDV, R194
  | stv (g : Fin 8) (m : Line) (b : Fin 64) (disp : Fin 4096) -- STV, R194
  | ldvs (g : Fin 8) (m : Line) (b st : Fin 64) -- LDVS, R194
  | stvs (g : Fin 8) (m : Line) (b st : Fin 64) -- STVS, R194
  | ldg (g : Fin 8) (m : Line) (b : Fin 64) (ix : Line) -- LDG, R194
  | stg (g : Fin 8) (m : Line) (b : Fin 64) (ix : Line) -- STG, R194
  | ldx (g : Fin 8) (m : Line) (b : Fin 64) (k : Fin 4) -- LDX, R196
  | aadd (g : Fin 8) (d b : Fin 64) (disp : Fin 4096) -- AADD, R197
  | aand (g : Fin 8) (d b : Fin 64) (disp : Fin 4096) -- AAND, R197
  | aor (g : Fin 8) (d b : Fin 64) (disp : Fin 4096) -- AOR, R197
  | axor (g : Fin 8) (d b : Fin 64) (disp : Fin 4096) -- AXOR, R197
  | amin (g : Fin 8) (d b : Fin 64) (disp : Fin 4096) -- AMIN, R197
  | amax (g : Fin 8) (d b : Fin 64) (disp : Fin 4096) -- AMAX, R197
  | aminn (g : Fin 8) (d b : Fin 64) (disp : Fin 4096) -- AMINN, R197
  | amaxn (g : Fin 8) (d b : Fin 64) (disp : Fin 4096) -- AMAXN, R197
  | axchg (g : Fin 8) (d b : Fin 64) (disp : Fin 4096) -- AXCHG, R197
  | acas (g : Fin 8) (d b : Fin 64) (disp : Fin 4096) -- ACAS, R198
  | afadd (g : Fin 8) (d b : Fin 64) (disp : Fin 4096) -- AFADD, R198
  | fenceOp (g : Fin 8) (sc : Fin 5) -- FENCE, R200
  | promote (g : Fin 8) (sc : Fin 4) (b : Fin 64) (disp : Fin 4096) -- PROMOTE, R201
  | prefetch (g : Fin 8) (l2 : Fin 2) (b : Fin 64) (disp : Fin 4096) -- PREFETCH, R202
  | cflushWb (g : Fin 8) (b : Fin 64) (disp : Fin 4096) -- CFLUSH_WB, R203
  | cflushInv (g : Fin 8) (b : Fin 64) (disp : Fin 4096) -- CFLUSH_INV, R203
  | cflushMem (g : Fin 8) (b : Fin 64) (disp : Fin 4096) -- CFLUSH_MEM, R203
  | barinit (g : Fin 8) (d b : Fin 64) (disp : Fin 4096) -- BARINIT, R204
  | bararr (g : Fin 8) (d b : Fin 64) (disp : Fin 4096) -- BARARR, R205
  | barwait (g : Fin 8) (d b : Fin 64) (disp : Fin 4096) -- BARWAIT, R206
  | qpush (g : Fin 8) (q : Fin 8) (b : Fin 64) -- QPUSH, R208
  | qpop (g : Fin 8) (d : Fin 64) (q : Fin 8) (b : Fin 64) -- QPOP, R209
  | qtry (g : Fin 8) (d : Fin 64) (q : Fin 8) (b : Fin 64) -- QTRY, R209
  | rsend (g : Fin 8) (d : Fin 64) (k : Fin 4) (b : Fin 64) -- RSEND, R212
  | rrecv (g : Fin 8) (d : Fin 64) (k : Fin 4) (b : Fin 64) -- RRECV, R213
  | ttdef (g : Fin 8) (d b : Fin 64) (disp : Fin 4096) -- TTDEF, R214
  | ttsetReady (g : Fin 8) (b : Fin 64) (disp : Fin 4096) -- TTSET_READY, R215
  | ttsetEmpty (g : Fin 8) (b : Fin 64) (disp : Fin 4096) -- TTSET_EMPTY, R215
  | ttrel (g : Fin 8) (b : Fin 64) (disp : Fin 4096) -- TTREL, R215
  | ttstat (g : Fin 8) (d b : Fin 64) (disp : Fin 4096) -- TTSTAT, R214
  | txbegin (g : Fin 8) (k : Fin 8) (sc : Fin 4) -- TXBEGIN, R383
  | txend (g : Fin 8) -- TXEND, R387
  | txabort (g : Fin 8) (c : Fin 256) -- TXABORT, R384
  | txstat (g : Fin 8) (d : Fin 64) -- TXSTAT, R382
  -- V slot
  | fadd (g : Fin 8) (d a b : VOp) -- FADD, R227
  | fsub (g : Fin 8) (d a b : VOp) -- FSUB, R227
  | fmul (g : Fin 8) (d a b : VOp) -- FMUL, R227
  | ffma (g : Fin 8) (d a b : VOp) -- FFMA, R227
  | ffms (g : Fin 8) (d a b : VOp) -- FFMS, R227
  | fmax (g : Fin 8) (d a b : VOp) -- FMAX, R228
  | fmin (g : Fin 8) (d a b : VOp) -- FMIN, R228
  | fabs (g : Fin 8) (d a : VOp) -- FABS, R227
  | fneg (g : Fin 8) (d a : VOp) -- FNEG, R227
  | fcpys (g : Fin 8) (d a b : VOp) -- FCPYS, R227
  | frcp (g : Fin 8) (d a : VOp) -- FRCP, R227
  | frsq (g : Fin 8) (d a : VOp) -- FRSQ, R227
  | fexp2 (g : Fin 8) (d a : VOp) -- FEXP2, R105
  | flog2 (g : Fin 8) (d a : VOp) -- FLOG2, R227
  | frint (g : Fin 8) (d a : VOp) (s : Fin 2) -- FRINT, R227
  | fcmpeq (g : Fin 8) (d a b : VOp) -- FCMPEQ, R228
  | fcmplt (g : Fin 8) (d a b : VOp) -- FCMPLT, R228
  | fcmple (g : Fin 8) (d a b : VOp) -- FCMPLE, R228
  | fcmpun (g : Fin 8) (d a b : VOp) -- FCMPUN, R228
  | hadd (g : Fin 8) (d a b : VOp) (s : Fin 2) -- HADD, R229
  | hmul (g : Fin 8) (d a b : VOp) (s : Fin 2) -- HMUL, R229
  | hfma (g : Fin 8) (d a b : VOp) (s : Fin 2) -- HFMA, R229
  | hmax (g : Fin 8) (d a b : VOp) (s : Fin 2) -- HMAX, R229
  | iadd (g : Fin 8) (d a b : VOp) (s : Fin 2) -- IADD, R230
  | isub (g : Fin 8) (d a b : VOp) (s : Fin 2) -- ISUB, R230
  | imul (g : Fin 8) (d a b : VOp) (s : Fin 2) -- IMUL, R230
  | imulh (g : Fin 8) (d a b : VOp) (s : Fin 2) -- IMULH, R230
  | imad (g : Fin 8) (d a b : VOp) (s : Fin 2) -- IMAD, R230
  | imax (g : Fin 8) (d a b : VOp) -- IMAX, R230
  | imin (g : Fin 8) (d a b : VOp) -- IMIN, R230
  | imaxn (g : Fin 8) (d a b : VOp) -- IMAXN, R230
  | iminn (g : Fin 8) (d a b : VOp) -- IMINN, R230
  | iand (g : Fin 8) (d a b : VOp) -- IAND, R230
  | ior (g : Fin 8) (d a b : VOp) -- IOR, R230
  | ixor (g : Fin 8) (d a b : VOp) -- IXOR, R230
  | ishl (g : Fin 8) (d a b : VOp) (s : Fin 2) -- ISHL, R230
  | ishr (g : Fin 8) (d a b : VOp) -- ISHR, R230
  | isra (g : Fin 8) (d a b : VOp) -- ISRA, R230
  | iabs (g : Fin 8) (d a : VOp) (s : Fin 2) -- IABS, R230
  | icmpeq (g : Fin 8) (d a b : VOp) -- ICMPEQ, R230
  | icmplt (g : Fin 8) (d a b : VOp) -- ICMPLT, R230
  | icmpltn (g : Fin 8) (d a b : VOp) -- ICMPLTN, R230
  | cvt (g : Fin 8) (d a : VOp) (dst src : Fin 16) (s : Fin 2) -- CVT, R231
  | qnt (g : Fin 8) (d a b : VOp) -- QNT, R232
  | dqnt (g : Fin 8) (d a b : VOp) -- DQNT, R232
  | bscale (g : Fin 8) (d a b : VOp) (s : Fin 2) -- BSCALE, R232
  | plpack (g : Fin 8) (d a : VOp) (f : Fin 256) -- PLPACK, R233
  | plunpk (g : Fin 8) (d a : VOp) (f : Fin 256) -- PLUNPK, R233
  | vmov (g : Fin 8) (d a : VOp) -- VMOV, R234
  | vbcast (g : Fin 8) (d a b : VOp) -- VBCAST, R234
  | vshuf (g : Fin 8) (d a b : VOp) -- VSHUF, R234
  | vrot (g : Fin 8) (d a b : VOp) -- VROT, R234
  | vsel (g : Fin 8) (d a b : VOp) -- VSEL, R234
  | vred (g : Fin 8) (d a : VOp) (f : Fin 256) -- VRED, R235
  | vscan (g : Fin 8) (d a : VOp) (f : Fin 256) (s : Fin 2) -- VSCAN, R235
  | viota (g : Fin 8) (d a b : VOp) -- VIOTA, R234
  | vmask (g : Fin 8) (d a b : VOp) (s : Fin 2) -- VMASK, R236
  | vpopc (g : Fin 8) (d a : VOp) -- VPOPC, R236
  | vext (g : Fin 8) (d a b : VOp) (s : Fin 2) -- VEXT, R236
  | mmr (g : Fin 8) (m : Fin 16) (a b : VOp) (s : Fin 2) -- MMR, R237
  | mzero (g : Fin 8) (m : Fin 16) -- MZERO, R238
  | mgate (g : Fin 8) (m : Fin 16) -- MGATE, R238
  | mdrowsy (g : Fin 8) (m : Fin 16) -- MDROWSY, R238
  | mwake (g : Fin 8) (m : Fin 16) -- MWAKE, R238
  | minval (g : Fin 8) (m : Fin 16) -- MINVAL, R238
  -- E slot
  | mgemm (g : Fin 8) (sa sb sc : Fin 4) (sw : Fin 16) (p : Fin 64) (r : Fin 2) (acc : Fin 2) -- MGEMM, R280
  | mgemms (g : Fin 8) (sa sb sc : Fin 4) (sw : Fin 16) (p : Fin 64) (r : Fin 2) (acc : Fin 2) -- MGEMMS, R282
  | mconv (g : Fin 8) (sa sb sc : Fin 4) (sw : Fin 16) (p : Fin 64) (r : Fin 2) (acc : Fin 2) -- MCONV, R284
  | mattn (g : Fin 8) (sa sb sc : Fin 4) (sw : Fin 16) (p : Fin 64) (r : Fin 2) (v : Fin 4) (fin : Fin 2) -- MATTN, R293
  | scout (g : Fin 8) (sa sb : Fin 4) (sw : Fin 16) (p : Fin 64) (r : Fin 2) -- SCOUT, R314
  | swin (g : Fin 8) (sw : Fin 16) (p : Fin 64) (r : Fin 2) -- SWIN, R319
  | smask (g : Fin 8) (sw : Fin 16) (p : Fin 64) (r : Fin 2) -- SMASK, R320
  | sscore (g : Fin 8) (sa sb sc : Fin 4) (sw : Fin 16) (p : Fin 64) (r : Fin 2) -- SSCORE, R318
  | ccopy (g : Fin 8) (sa sc : Fin 4) (sw : Fin 16) (p : Fin 64) (r : Fin 2) -- CCOPY, R253
  | cgather (g : Fin 8) (sa sb sc : Fin 4) (sw : Fin 16) (p : Fin 64) (r : Fin 2) -- CGATHER, R254
  | cscatter (g : Fin 8) (sa sb sc : Fin 4) (sw : Fin 16) (p : Fin 64) (r : Fin 2) -- CSCATTER, R254
  | cfill (g : Fin 8) (sc : Fin 4) (sw : Fin 16) (p : Fin 64) (r : Fin 2) -- CFILL, R255
  | ctrans (g : Fin 8) (sa sc : Fin 4) (sw : Fin 16) (p : Fin 64) (r : Fin 2) -- CTRANS, R253
  | cplane (g : Fin 8) (sa sc : Fin 4) (sw : Fin 16) (p : Fin 64) (r : Fin 2) -- CPLANE, R256
  | cflat (g : Fin 8) (sa sc : Fin 4) (sw : Fin 16) (p : Fin 64) (r : Fin 2) -- CFLAT, R257
  | cpagein (g : Fin 8) (sw : Fin 16) (p : Fin 64) (r : Fin 2) -- CPAGEIN, R258
  | cmigrate (g : Fin 8) (sw : Fin 16) (p : Fin 64) (r : Fin 2) -- CMIGRATE, R259
  | ctags (g : Fin 8) (sw : Fin 16) (p : Fin 64) (r : Fin 2) -- CTAGS, R261
  | vsort (g : Fin 8) (sa sb sc : Fin 4) (sw : Fin 16) (p : Fin 64) (r : Fin 2) -- VSORT, R242
  | vsoftmax (g : Fin 8) (sa sb sc : Fin 4) (sw : Fin 16) (p : Fin 64) (r : Fin 2) -- VSOFTMAX, R243
  | vnorm (g : Fin 8) (sa sb sc : Fin 4) (sw : Fin 16) (p : Fin 64) (r : Fin 2) -- VNORM, R243
  | vreduce (g : Fin 8) (sa sb sc : Fin 4) (sw : Fin 16) (p : Fin 64) (r : Fin 2) -- VREDUCE, R243
  | allred (g : Fin 8) (sa sc : Fin 4) (sw : Fin 16) (p : Fin 64) (r : Fin 2) -- ALLRED, R336
  | allgath (g : Fin 8) (sa sc : Fin 4) (sw : Fin 16) (p : Fin 64) (r : Fin 2) -- ALLGATH, R338
  | redscat (g : Fin 8) (sa sc : Fin 4) (sw : Fin 16) (p : Fin 64) (r : Fin 2) -- REDSCAT, R337
  | xbcast (g : Fin 8) (sa sc : Fin 4) (sw : Fin 16) (p : Fin 64) (r : Fin 2) -- XBCAST, R338
  | alltoall (g : Fin 8) (sa sc : Fin 4) (sw : Fin 16) (p : Fin 64) (r : Fin 2) -- ALLTOALL, R338
  | xsend (g : Fin 8) (sa : Fin 4) (sw : Fin 16) (p : Fin 64) (r : Fin 2) -- XSEND, R339
  | xrecv (g : Fin 8) (sc : Fin 4) (sw : Fin 16) (p : Fin 64) (r : Fin 2) -- XRECV, R339
  | logmark (g : Fin 8) (sw : Fin 16) (p : Fin 64) (code : Fin 256) (chk : Fin 2) -- LOGMARK, R381
  | logflush (g : Fin 8) (sw : Fin 16) (sc : Fin 5) -- LOGFLUSH, R381
  | qfence (g : Fin 8) (sw : Fin 16) (mask : Fin 32) -- QFENCE, R141
  | etrel (g : Fin 8) (sw : Fin 16) (t : Fin 64) (e : Fin 5) -- ETREL, R142
  | ecancel (g : Fin 8) (sw : Fin 16) (mask : Fin 32) -- ECANCEL, R143
  | esignal (g : Fin 8) (sw : Fin 16) (p : Fin 64) (mask : Fin 32) (sc : Fin 5) -- ESIGNAL, R144
  | esignalAdd (g : Fin 8) (sw : Fin 16) (p : Fin 64) (mask : Fin 32) (sc : Fin 5) -- ESIGNAL_ADD, R144
  -- events and device steps
  | resultLanding -- RESULT_LANDING, R44
  | interlockedResultArrival (k : Nat) -- INTERLOCKED_RESULT_ARRIVAL, R73
  | windowClose -- WINDOW_CLOSE, R134
  | forcedQuiescentPoint -- FORCED_QUIESCENT_POINT, R75
  | loopEndStep -- LOOP_END_STEP, R182
  | watchdog -- WATCHDOG, R158
  | timer -- TIMER, R423
  | waitConversion -- WAIT_CONVERSION, R187
  | waitSatisfied -- WAIT_SATISFIED, R186
  | commandStart (q : Fin 6) -- COMMAND_START, R33
  | commandComplete (q : Fin 6) -- COMMAND_COMPLETE, R24
  | engineStop (q : Fin 6) -- ENGINE_STOP, R287
  | etrelAtHead (q : Fin 6) -- ETREL_AT_HEAD, R142
  | qfenceRelease (k : Nat) -- QFENCE_RELEASE, R141
  | esignalPerform (k : Nat) -- ESIGNAL_PERFORM, R144
  | copyChunk (ue : Option ReadError) -- COPY_CHUNK, R262
  | cmigratePage -- CMIGRATE_PAGE, R260
  | phaseFetch (q : Fin 6) -- PHASE_FETCH, R268
  | phaseFetchDone (q : Fin 6) (ue : Option ReadError) -- PHASE_FETCH_DONE, R269
  | matrixTileStep (ue : Option Nat) -- MATRIX_TILE_STEP, R285
  | matrixRetirement -- MATRIX_RETIREMENT, R285
  | mattnKeyTileVisit -- MATTN_KEY_TILE_VISIT, R293
  | scoutSweep1Tile (ue : Option Nat) -- SCOUT_SWEEP1_TILE, R314
  | scoutSweep2 (ue : Bool) -- SCOUT_SWEEP2, R315
  | sscoreTile (ue : Option Nat) -- SSCORE_TILE, R318
  | maskRow -- MASK_ROW, R319
  | vsortRunSegment (ue : Option Nat) -- VSORT_RUN_SEGMENT, R242
  | rowOperation (ue : Option Nat) -- ROW_OPERATION, R243
  | exchangeStep (ue : Option ReadError) -- EXCHANGE_STEP, R342
  | startMsg (m : Message) -- START, R341
  | dataMsg (m : Message) -- DATA, R343
  | ackMsg (m : Message) -- ACK, R342
  | pausedMsg (m : Message) -- PAUSED, R345
  | exchangeTimeout (peer : Nat) -- EXCHANGE_TIMEOUT, R345
  | linkRetryRequest (port : Fin 18) (seq : Fin 4096) -- LINK_RETRY_REQUEST, R448
  | linkAcknowledgement (port : Fin 18) (seq : FlitAck) -- LINK_ACKNOWLEDGEMENT, R448
  | linkUe (port : Fin 18) -- LINK_UE, R344
  | linkTrainingStart (port : Fin 18) -- LINK_TRAINING_START, R449
  | linkTrainingComplete (port : Fin 18) -- LINK_TRAINING_COMPLETE, R449
  | linkTrainingTimeout (port : Fin 18) -- LINK_TRAINING_TIMEOUT, R449
  | faultReplyPoll (w : Waiter) -- FAULT_REPLY_POLL, R436
  | tfringPostRetry (w : Waiter) -- TFRING_POST_RETRY, R436
  | tlbShootdownComplete -- TLB_SHOOTDOWN_COMPLETE, R122
  | writeBlockRetry -- WRITE_BLOCK_RETRY, R118
  | tierNotify (die : Fin 4) (idx : Fin 4096) -- TIER_NOTIFY, R125
  | dirtyRingResume -- DIRTY_RING_RESUME, R128
  | configAreaWalkRetry (part : Fin 8) (area : Fin 6) -- CONFIG_AREA_WALK_RETRY, R458
  | dispatchDecision -- DISPATCH_DECISION, R411
  | blockedReevaluation (part : Fin 8) (pipe : Nat) -- BLOCKED_REEVALUATION, R415
  | suspendedPoll (part : Fin 8) (pipe : Nat) -- SUSPENDED_POLL, R415
  | remontoireRefill (part : Fin 8) (pipe q : Nat) -- REMONTOIRE_REFILL, R416
  | packetLine0Poll (part : Fin 8) (k : Fin 64) -- PACKET_LINE0_POLL, R393
  | packetNop (part : Fin 8) (k : Fin 64) -- PACKET_NOP, R396
  | launch (part : Fin 8) (k : Fin 64) -- LAUNCH, R405
  | launchComplete (part : Fin 8) (pipe : Nat) -- LAUNCH_COMPLETE, R406
  | waitv (part : Fin 8) (k : Fin 64) -- WAITV, R396
  | waitvSatisfied (part : Fin 8) (k : Fin 64) -- WAITV_SATISFIED, R396
  | signalPacket (part : Fin 8) (k : Fin 64) -- SIGNAL, R396
  | ibcall (part : Fin 8) (k : Fin 64) -- IBCALL, R400
  | ibjump (part : Fin 8) (k : Fin 64) -- IBJUMP, R400
  | ibSpinWatchdog (part : Fin 8) (k : Fin 64) -- IB_SPIN_WATCHDOG, R400
  | packetFence (part : Fin 8) (k : Fin 64) -- PACKET_FENCE, R396
  | capstart (part : Fin 8) (k : Fin 64) -- CAPSTART, R401
  | capstop (part : Fin 8) (k : Fin 64) -- CAPSTOP, R401
  | zeroPacket (part : Fin 8) (k : Fin 64) -- ZERO, R396
  | pswitch (part : Fin 8) (k : Fin 64) -- PSWITCH, R419
  | pswitchActivate (part : Fin 8) (pipe : Nat) -- PSWITCH_ACTIVATE, R419
  | ckpt (part : Fin 8) (k : Fin 64) -- CKPT, R442
  | db (part : Fin 8) (k : Fin 64) (v : BitVec 64) -- DB, R390
  | dbgdb (part : Fin 8) (v : BitVec 64) -- DBGDB, R446
  | hreq (part : Fin 8) (n : Nat) (v : BitVec 64) -- HREQ, R446
  | cfgreq (v : BitVec 64) -- CFGREQ, R446
  | deviceRegisterWrite (off : HostReg) (v : BitVec 64) -- DEVICE_REGISTER_WRITE, R446
  | partitionConfiguration -- PARTITION_CONFIGURATION, R433
  | pswapScratchpadRestore -- PSWAP_SCRATCHPAD_RESTORE, R435
  | hostCxlMemRead (hpa : Nat) -- HOST_CXL_MEM_READ, R445
  | hostCxlMemWrite (hpa : Nat) (bytes : List (BitVec 8)) -- HOST_CXL_MEM_WRITE, R146
  | hostSnoop (hpa : Nat) (bytes : List (BitVec 8)) -- HOST_SNOOP, R444
  | fwEventWake -- FW_EVENT_WAKE, R421
  | svcresWrite (v : BitVec 64) -- SVCRES_WRITE, R434
  | hackmWrite (k : Fin 2) (v : BitVec 64) -- HACKM_WRITE, R434
  | feliWrite -- FELI_WRITE, R149
  | logRingWrite (k : Fin 2) (v : BitVec 64) -- LOG_RING_WRITE, R353
  | logtailWrite (v : BitVec 64) -- LOGTAIL_WRITE, R354
  | trootWrite (v : BitVec 64) -- TROOT_WRITE, R423
  | traceSample -- TRACE_SAMPLE, R377
  | txAbort (reason : Fin 8) -- TX_ABORT, R387
  | dbgStop (part : Fin 8) -- STOP, R370
  | dbgRstep (part : Fin 8) -- RSTEP, R372
  | dbgRunback (part : Fin 8) -- RUNBACK, R372
  | dbgReplay (part : Fin 8) -- REPLAY, R374
  | dbgRead (part : Fin 8) -- READ, R376
  | dbgWrite (part : Fin 8) -- WRITE, R375
  | dbgResume (part : Fin 8) -- RESUME, R375
  | ceRate (die : Fin 4) (unit : Fin 65536) -- CE_RATE, R434
  | thermalTrip (die : Fin 4) -- THERMAL_TRIP, R454
  | powerGoodBoot -- POWER_GOOD_BOOT, R451
  | deviceReady -- DEVICE_READY, R451
  | mctpControlMessage (die : Fin 4) (bytes : List (BitVec 8)) -- MCTP_CONTROL_MESSAGE, R450
  | pldmMonitoring (die : Fin 4) (bytes : List (BitVec 8)) -- PLDM_MONITORING, R450
  | pldmFirmwareUpdate (die : Fin 4) (image : List (BitVec 8)) -- PLDM_FIRMWARE_UPDATE, R452
  | attestationRequest (nonce : List (BitVec 8)) -- ATTESTATION_REQUEST, R453
  | ueRegister -- UE_REGISTER, R441
  | granuleZeroingComplete (gran : Nat) -- GRANULE_ZEROING_COMPLETE, R129
  | drowsyWakeComplete (m : Fin 16) -- DROWSY_WAKE_COMPLETE, R222
  | flitCrcError (port : Fin 18) (seq : List (BitVec 8)) -- FLIT_CRC_ERROR, R448
  | thermalTripResume (die : Fin 4) -- THERMAL_TRIP_RESUME, R422
  | mainPowerRemoved -- MAIN_POWER_REMOVED, R450
  | deviceReset -- DEVICE_RESET, R452
  deriving DecidableEq, Repr

end Sys2Proof
end

