-- ==== Sys2Proof/WellFormed.lean ====
section
/-! DEFINITION. Which instructions are well formed: what an entry forbids beyond the ranges of its fields. `reservedOk`
holds the checks that raise BUNDLE_RESERVED and `formOk` those that raise OPCODE_UNDEF (02 R42). -/

namespace Sys2Proof

/-- The kinds of vector operands (07 R218). -/
inductive VKind where
  | L | P | X | I | M | D
  deriving DecidableEq, Repr

def VOp.kind : VOp → VKind
  | .line _ => .L
  | .port _ => .P
  | .xreg _ => .X
  | .imm _ => .I
  | .mask _ => .M
  | .xdest _ => .D

/-- The operand is of one of the kinds an entry lists. -/
def VOp.within (o : VOp) (ks : List VKind) : Bool := ks.contains o.kind

/-- A destination in a line or port, and sources of the common kinds (07 R227). -/
def lanesOk (d a b : VOp) : Bool := d.within [.L, .P] && a.within [.L, .P, .X, .I] && b.within [.L, .P, .X, .I]

/-- As `lanesOk`, with the third source read from the destination line (02 R59). -/
def fusedOk (d a b : VOp) : Bool := d.within [.L] && a.within [.L, .P, .X, .I] && b.within [.L, .P, .X, .I]

/-- A compare: its destination may also be a lane mask (07 R228). -/
def compareOk (d a b : VOp) : Bool := d.within [.M, .L, .P] && a.within [.L, .P, .X, .I] && b.within [.L, .P, .X, .I]

/-- One source of the common kinds. -/
def unaryOk (d a : VOp) : Bool := d.within [.L, .P] && a.within [.L, .P, .X, .I]

/-- The unused operand field 0x000 (07 R218). -/
def VOp.unused : VOp := .line ⟨0, 0, 0⟩

/-- How many tests and leaves a tree shape uses (02 R50). -/
def treeTests (shape : Nat) : Nat := match shape with | 0 => 0 | 1 => 1 | 2 => 2 | 3 => 3 | 4 => 4 | 5 => 3 | _ => 4
def treeLeaves (shape : Nat) : Nat := match shape with | 0 => 1 | 1 => 2 | 2 => 3 | 3 => 4 | 4 => 5 | 5 => 4 | _ => 5

/-- A type code of CVT names a floating-point type (07 R231). -/
def isFloatCode (c : Nat) : Bool := c == 0 || c == 3 || c == 4

/-- The checks of an instruction's fields that raise BUNDLE_RESERVED (02 R42 R49, 07 R231 R236). -/
def Instr.reservedOk : Instr → Bool
  | .tree shape t1 t2 t3 t4 _ l2 l3 l4 l5 =>
    (treeTests shape.val ≥ 1 || t1 = 0) && (treeTests shape.val ≥ 2 || t2 = 0) && (treeTests shape.val ≥ 3 || t3 = 0) &&
    (treeTests shape.val ≥ 4 || t4 = 0) && (treeLeaves shape.val ≥ 2 || l2 = 0) && (treeLeaves shape.val ≥ 3 || l3 = 0) &&
    (treeLeaves shape.val ≥ 4 || l4 = 0) && (treeLeaves shape.val ≥ 5 || l5 = 0)
  | .cvt _ _ _ dst src s => s = 0 || 9 ≤ dst.val || 9 ≤ src.val || (isFloatCode src.val && !isFloatCode dst.val)
  | .vmask _ d a b s =>
    if d.within [.M] && a.within [.M] then true else decide (s = 0) && decide (b = VOp.unused)
  | _ => true

/-- The checks of an instruction's operand forms that raise OPCODE_UNDEF (02 R42, and each entry). -/
def Instr.formOk : Instr → Bool
  | .segset _ i => i.val % 1024 ≠ 0
  | .loopOp _ _ _ len => len.val ≠ 0
  | .waitEng _ mask => mask.val ≠ 0
  | .qfence _ _ mask => mask.val ≠ 0
  | .ecancel _ _ mask => mask.val ≠ 0
  | .acas _ d _ _ => d.val % 2 = 0 && 2 ≤ d.val && d.val ≤ 58
  | .promote _ sc _ _ => sc.val ≠ 0
  | .txbegin _ k sc => k.val ≠ 0 && (sc.val = 1 || sc.val = 2)
  | .fadd _ d a b | .fsub _ d a b | .fmul _ d a b | .fmax _ d a b | .fmin _ d a b | .fcpys _ d a b => lanesOk d a b
  | .ffma _ d a b | .ffms _ d a b => fusedOk d a b
  | .fabs _ d a | .fneg _ d a | .frcp _ d a | .frsq _ d a | .fexp2 _ d a | .flog2 _ d a => unaryOk d a
  | .frint _ d a _ | .iabs _ d a _ => unaryOk d a
  | .fcmpeq _ d a b | .fcmplt _ d a b | .fcmple _ d a b | .fcmpun _ d a b => compareOk d a b
  | .icmpeq _ d a b | .icmplt _ d a b | .icmpltn _ d a b => compareOk d a b
  | .hadd _ d a b _ | .hmul _ d a b _ | .hmax _ d a b _ => lanesOk d a b
  | .hfma _ d a b _ | .imad _ d a b _ => fusedOk d a b
  | .iadd _ d a b _ | .isub _ d a b _ | .imul _ d a b _ | .imulh _ d a b _ | .ishl _ d a b _ => lanesOk d a b
  | .imax _ d a b | .imin _ d a b | .imaxn _ d a b | .iminn _ d a b => lanesOk d a b
  | .iand _ d a b | .ior _ d a b | .ixor _ d a b | .ishr _ d a b | .isra _ d a b => lanesOk d a b
  | .cvt _ d a dst src _ => unaryOk d a && dst.val < 9 && src.val < 9 && dst != src
  | .qnt _ d a b | .dqnt _ d a b => d.within [.L, .P] && a.within [.L, .P] && b.within [.X]
  | .bscale _ d a b s => d.within [.L, .P, .D] && a.within [.L, .P] && b.within [.X] && (s = 0 || d.within [.L, .D])
  | .plpack _ d a f => d.within [.L, .P] && a.within [.L, .P] && 1 ≤ f.val && f.val ≤ 8
  | .plunpk _ d a f => d.within [.L, .P] && a.within [.L, .P] && 1 ≤ f.val % 16 && f.val % 16 ≤ 8 && f.val < 32
  | .vmov _ d a => unaryOk d a
  | .vbcast _ d a b | .vrot _ d a b => d.within [.L, .P] && a.within [.L, .P] && b.within [.I, .X]
  | .vshuf _ d a b => d.within [.L, .P] && a.within [.L, .P] && b.within [.L, .P]
  | .vsel _ d a b => lanesOk d a b
  | .vred _ d a f => d.within [.L, .P, .D] && a.within [.L, .P] && f.val ≤ 10
  | .vscan _ d a f _ => d.within [.L, .P] && a.within [.L, .P] && f.val ≤ 10
  | .viota _ d a b => d.within [.L, .P] && a.within [.X, .I] && b.within [.X, .I]
  | .vmask _ d a b _ =>
    match d.kind, a.kind with
    | .M, .L | .M, .P | .L, .M | .P, .M | .M, .X | .D, .M => true
    | .M, .M => b.within [.M]
    | _, _ => false
  | .vpopc _ d a => (d.within [.L, .P] && a.within [.L, .P]) || (d.within [.D] && a.within [.M])
  | .vext _ d a b _ => d.within [.D] && a.within [.L, .P] && b.within [.I, .X]
  | .mmr _ _ a b _ => a.within [.L, .P, .X, .I] && b.within [.L, .P, .X, .I]
  | _ => true

/-- The instruction is well formed. -/
def Instr.wf (i : Instr) : Bool := i.reservedOk && i.formOk

end Sys2Proof
end

