-- ==== Sys2Proof/Decode.lean ====
section
/-! DEFINITION. The decoder of bundles and syllables (02 R39 to R60 R66 to R71; 04 R140; 05; 06; 07; 12 R381 R382), total on
every word and rejecting by name, and after it the encoder of well-formed instructions. -/

namespace Sys2Proof

/-- Why a word is no instruction (02 R42 R55). -/
inductive DecodeError where
  | bundleReserved | opcodeUndef | pairMisuse
  deriving DecidableEq, Repr

/-- A reserved or unused field is not zero (02 R42). -/
def reserved : Except DecodeError Instr := .error .bundleReserved

/-- No instruction of the slot, or an operand form the entry does not accept (02 R42). -/
def undef : Except DecodeError Instr := .error .opcodeUndef

/-- An instruction whose unused fields are `zero`: its reserved fields are checked first, then its operand forms
(log 9). -/
def need (zero : Bool) (i : Instr) : Except DecodeError Instr :=
  if zero && i.reservedOk then if i.formOk then .ok i else undef else reserved

/-- A line operand from its 12 bits (02 R58). -/
def lineOf (v : Nat) : Line := ⟨Fin.ofNat 4 (v / 512), Fin.ofNat 16 (v / 32), Fin.ofNat 32 v⟩

/-- A 12-bit vector operand (02 R58). -/
def voperand (v : Nat) : Except DecodeError VOp :=
  if v < 2048 then .ok (.line (lineOf v)) else
  let p := v % 256
  match v / 256 % 8 with
  | 0 => if p < 8 then .ok (.port (Fin.ofNat 8 p)) else .error .bundleReserved
  | 1 => if p < 64 then .ok (.xreg (Fin.ofNat 64 p)) else .error .bundleReserved
  | 2 => .ok (.imm (Fin.ofNat 256 p))
  | 3 => if p < 8 then .ok (.mask (Fin.ofNat 8 p)) else .error .bundleReserved
  | 4 => if p < 64 then .ok (.xdest (Fin.ofNat 64 p)) else .error .bundleReserved
  | _ => .error .opcodeUndef

/-- An A syllable by its fields; `lo` is [9:0], `b` and `f` its parts (02 R54 R66). -/
def decodeAFields (g : Fin 8) (op d a lo : Nat) : Except DecodeError Instr :=
  let b := lo / 16
  let f := lo % 16
  match op with
  | 1 => need (decide (f = 0)) (.add g (Fin.ofNat 64 d) (Fin.ofNat 64 a) (Fin.ofNat 64 b))
  | 2 => need (decide (f = 0)) (.sub g (Fin.ofNat 64 d) (Fin.ofNat 64 a) (Fin.ofNat 64 b))
  | 3 => need (decide (f = 0)) (.mul g (Fin.ofNat 64 d) (Fin.ofNat 64 a) (Fin.ofNat 64 b))
  | 4 => need (decide (f = 0)) (.mulh g (Fin.ofNat 64 d) (Fin.ofNat 64 a) (Fin.ofNat 64 b))
  | 5 => need (decide (f = 0)) (.mulhn g (Fin.ofNat 64 d) (Fin.ofNat 64 a) (Fin.ofNat 64 b))
  | 6 => need (decide (f = 0)) (.div g (Fin.ofNat 64 d) (Fin.ofNat 64 a) (Fin.ofNat 64 b))
  | 7 => need (decide (f = 0)) (.divn g (Fin.ofNat 64 d) (Fin.ofNat 64 a) (Fin.ofNat 64 b))
  | 8 => need (decide (f = 0)) (.rem g (Fin.ofNat 64 d) (Fin.ofNat 64 a) (Fin.ofNat 64 b))
  | 9 => need (decide (f = 0)) (.remn g (Fin.ofNat 64 d) (Fin.ofNat 64 a) (Fin.ofNat 64 b))
  | 10 => need (decide (f = 0)) (.andOp g (Fin.ofNat 64 d) (Fin.ofNat 64 a) (Fin.ofNat 64 b))
  | 11 => need (decide (f = 0)) (.orOp g (Fin.ofNat 64 d) (Fin.ofNat 64 a) (Fin.ofNat 64 b))
  | 12 => need (decide (f = 0)) (.xorOp g (Fin.ofNat 64 d) (Fin.ofNat 64 a) (Fin.ofNat 64 b))
  | 13 => need (decide (f = 0)) (.andn g (Fin.ofNat 64 d) (Fin.ofNat 64 a) (Fin.ofNat 64 b))
  | 14 => need (decide (f = 0)) (.sll g (Fin.ofNat 64 d) (Fin.ofNat 64 a) (Fin.ofNat 64 b))
  | 15 => need (decide (f = 0)) (.srl g (Fin.ofNat 64 d) (Fin.ofNat 64 a) (Fin.ofNat 64 b))
  | 16 => need (decide (f = 0)) (.sra g (Fin.ofNat 64 d) (Fin.ofNat 64 a) (Fin.ofNat 64 b))
  | 17 => need (decide (f = 0)) (.rol g (Fin.ofNat 64 d) (Fin.ofNat 64 a) (Fin.ofNat 64 b))
  | 18 => need (decide (f = 0)) (.minOp g (Fin.ofNat 64 d) (Fin.ofNat 64 a) (Fin.ofNat 64 b))
  | 19 => need (decide (f = 0)) (.maxOp g (Fin.ofNat 64 d) (Fin.ofNat 64 a) (Fin.ofNat 64 b))
  | 20 => need (decide (f = 0)) (.minn g (Fin.ofNat 64 d) (Fin.ofNat 64 a) (Fin.ofNat 64 b))
  | 21 => need (decide (f = 0)) (.maxn g (Fin.ofNat 64 d) (Fin.ofNat 64 a) (Fin.ofNat 64 b))
  | 22 => need (decide (b = 0) && decide (f = 0)) (.absOp g (Fin.ofNat 64 d) (Fin.ofNat 64 a))
  | 23 => need (decide (b = 0) && decide (f = 0)) (.clz g (Fin.ofNat 64 d) (Fin.ofNat 64 a))
  | 24 => need (decide (b = 0) && decide (f = 0)) (.ctz g (Fin.ofNat 64 d) (Fin.ofNat 64 a))
  | 25 => need (decide (b = 0) && decide (f = 0)) (.popc g (Fin.ofNat 64 d) (Fin.ofNat 64 a))
  | 26 => if 3 ≤ f then undef else need (decide (b = 0)) (.sext g (Fin.ofNat 64 d) (Fin.ofNat 64 a) (Fin.ofNat 3 f))
  | 27 => if 3 ≤ f then undef else need (decide (b = 0)) (.zext g (Fin.ofNat 64 d) (Fin.ofNat 64 a) (Fin.ofNat 3 f))
  | 28 => need (decide (f < 2)) (.bfx g (Fin.ofNat 64 d) (Fin.ofNat 64 a) (Fin.ofNat 64 b) (Fin.ofNat 2 f))
  | 29 => need (decide (f = 0)) (.bfi g (Fin.ofNat 64 d) (Fin.ofNat 64 a) (Fin.ofNat 64 b))
  | 30 => need (true) (.sel g (Fin.ofNat 64 d) (Fin.ofNat 64 a) (Fin.ofNat 64 b) (Fin.ofNat 16 f))
  | 32 => need (true) (.addi g (Fin.ofNat 64 d) (Fin.ofNat 64 a) (Fin.ofNat 1024 lo))
  | 33 => need (true) (.andi g (Fin.ofNat 64 d) (Fin.ofNat 64 a) (Fin.ofNat 1024 lo))
  | 34 => need (true) (.ori g (Fin.ofNat 64 d) (Fin.ofNat 64 a) (Fin.ofNat 1024 lo))
  | 35 => need (true) (.xori g (Fin.ofNat 64 d) (Fin.ofNat 64 a) (Fin.ofNat 1024 lo))
  | 36 => need (decide (lo < 64)) (.slli g (Fin.ofNat 64 d) (Fin.ofNat 64 a) (Fin.ofNat 64 lo))
  | 37 => need (decide (lo < 64)) (.srli g (Fin.ofNat 64 d) (Fin.ofNat 64 a) (Fin.ofNat 64 lo))
  | 38 => need (decide (lo < 64)) (.srai g (Fin.ofNat 64 d) (Fin.ofNat 64 a) (Fin.ofNat 64 lo))
  | 39 => need (true) (.muli g (Fin.ofNat 64 d) (Fin.ofNat 64 a) (Fin.ofNat 1024 lo))
  | 40 => need (decide (a = 0)) (.limm g (Fin.ofNat 64 d) (Fin.ofNat 1024 lo))
  | 41 => need (true) (.lihi g (Fin.ofNat 64 d) (Fin.ofNat 64 a) (Fin.ofNat 1024 lo))
  | 42 => need (decide (a = 0)) (.pcadd g (Fin.ofNat 64 d) (Fin.ofNat 1024 lo))
  | 48 => need (decide (d < 16) && decide (f = 0)) (.cmpeq g (Fin.ofNat 16 d) (Fin.ofNat 64 a) (Fin.ofNat 64 b))
  | 49 => need (decide (d < 16) && decide (f = 0)) (.cmpne g (Fin.ofNat 16 d) (Fin.ofNat 64 a) (Fin.ofNat 64 b))
  | 50 => need (decide (d < 16) && decide (f = 0)) (.cmplt g (Fin.ofNat 16 d) (Fin.ofNat 64 a) (Fin.ofNat 64 b))
  | 51 => need (decide (d < 16) && decide (f = 0)) (.cmple g (Fin.ofNat 16 d) (Fin.ofNat 64 a) (Fin.ofNat 64 b))
  | 52 => need (decide (d < 16) && decide (f = 0)) (.cmpltn g (Fin.ofNat 16 d) (Fin.ofNat 64 a) (Fin.ofNat 64 b))
  | 53 => need (decide (d < 16) && decide (f = 0)) (.cmplen g (Fin.ofNat 16 d) (Fin.ofNat 64 a) (Fin.ofNat 64 b))
  | 54 => need (decide (d < 16)) (.cmpeqi g (Fin.ofNat 16 d) (Fin.ofNat 64 a) (Fin.ofNat 1024 lo))
  | 55 => need (decide (d < 16)) (.cmplti g (Fin.ofNat 16 d) (Fin.ofNat 64 a) (Fin.ofNat 1024 lo))
  | 56 => need (decide (d < 16)) (.cmpltni g (Fin.ofNat 16 d) (Fin.ofNat 64 a) (Fin.ofNat 1024 lo))
  | 57 => need (decide (d < 16) && decide (a < 16) && decide (b < 16) && decide (f = 0)) (.pand g (Fin.ofNat 16 d) (Fin.ofNat 16 a) (Fin.ofNat 16 b))
  | 58 => need (decide (d < 16) && decide (a < 16) && decide (b < 16) && decide (f = 0)) (.por g (Fin.ofNat 16 d) (Fin.ofNat 16 a) (Fin.ofNat 16 b))
  | 59 => need (decide (d < 16) && decide (a < 16) && decide (b < 16) && decide (f = 0)) (.pxor g (Fin.ofNat 16 d) (Fin.ofNat 16 a) (Fin.ofNat 16 b))
  | 60 => need (decide (d < 16) && decide (a < 16) && decide (b < 16) && decide (f = 0)) (.pandn g (Fin.ofNat 16 d) (Fin.ofNat 16 a) (Fin.ofNat 16 b))
  | 61 => need (decide (d < 16) && decide (f = 0)) (.tstbit g (Fin.ofNat 16 d) (Fin.ofNat 64 a) (Fin.ofNat 64 b))
  | 64 => need (decide (a = 0)) (.mfs g (Fin.ofNat 64 d) (Fin.ofNat 1024 lo))
  | 65 => need (decide (d = 0)) (.mts g (Fin.ofNat 64 a) (Fin.ofNat 1024 lo))
  | 66 => need (decide (d < 4) && decide (b < 8) && decide (f = 0)) (.shw g (Fin.ofNat 4 d) (Fin.ofNat 64 a) (Fin.ofNat 8 b))
  | 67 => if f = 0 then need (decide (d < 8) && decide (b = 0)) (.btmovToBt g (Fin.ofNat 8 d) (Fin.ofNat 64 a)) else if f = 1 then need (decide (a < 8) && decide (b = 0)) (.btmovFromBt g (Fin.ofNat 64 d) (Fin.ofNat 8 a)) else undef
  | 68 => need (decide (d < 8) && decide (a = 0)) (.btset g (Fin.ofNat 8 d) (Fin.ofNat 1024 lo))
  | 69 => need (decide (d < 8) && decide (b < 16) && decide (f = 0)) (.agw g (Fin.ofNat 8 d) (Fin.ofNat 64 a) (Fin.ofNat 16 b))
  | 70 => need (decide (d < 4) && decide (b < 16) && decide (f = 0)) (.xpw g (Fin.ofNat 4 d) (Fin.ofNat 64 a) (Fin.ofNat 16 b))
  | 71 => need (decide (a = 0) && decide (b = 0) && decide (f < 2)) (.chkerr g (Fin.ofNat 64 d) (Fin.ofNat 2 f))
  | 73 => if f = 0 then need (decide (b = 0)) (.cvtaOff g (Fin.ofNat 64 d) (Fin.ofNat 64 a)) else if f = 1 then need (decide (b = 0)) (.cvtaOwn g (Fin.ofNat 64 d) (Fin.ofNat 64 a)) else if f = 2 then need (true) (.cvtaCl g (Fin.ofNat 64 d) (Fin.ofNat 64 a) (Fin.ofNat 64 b)) else undef
  | 74 => if 4 ≤ f then undef else need (decide (d < 16) && decide (b = 0)) (.isap g (Fin.ofNat 16 d) (Fin.ofNat 64 a) (Fin.ofNat 4 f))
  | 75 => need (decide (b < 32) && decide (f = 0)) (.rdpw g (Fin.ofNat 64 d) (Fin.ofNat 64 a) (Fin.ofNat 4 (b / 8)) (Fin.ofNat 8 b))
  | 76 => need (decide (a = 0) && decide (b = 0) && decide (f = 0)) (.rdtime g (Fin.ofNat 64 d))
  | 77 => if !(decide (a = 0) && decide (b < 8) && decide (f = 0)) then reserved else if 5 ≤ b then undef else .ok (.ecnt g (Fin.ofNat 64 d) (Fin.ofNat 5 b))
  | 78 => need (decide (a = 0) && decide (b = 0) && decide (f = 0)) (.rdwin g (Fin.ofNat 64 d))
  | 80 => if f < 4 then need (decide (d = 0) && decide (b = 0)) (.tlbinvPage g (Fin.ofNat 64 a) (Fin.ofNat 4 f)) else if 8 ≤ f && decide (f < 12) then need (decide (d = 0) && decide (a = 0) && decide (b = 0)) (.tlbinvAll g (Fin.ofNat 4 f)) else reserved
  | 81 => if f = 0 then need (decide (d = 0) && decide (a = 0) && decide (b = 0)) (.cinvWbinv g ) else if f = 1 then need (decide (d = 0) && decide (a = 0) && decide (b = 0)) (.cinvInv g ) else if f = 2 then need (decide (d = 0) && decide (b = 0)) (.cinvWbpage g (Fin.ofNat 64 a)) else undef
  | 82 => need (decide (d = 0) && decide (b = 0) && decide (f = 0)) (.ctxsave g (Fin.ofNat 64 a))
  | 83 => need (decide (d = 0) && decide (b = 0) && decide (f = 0)) (.ctxload g (Fin.ofNat 64 a))
  | 84 => need (decide (d = 0) && decide (f = 0)) (.pswap g (Fin.ofNat 64 a) (Fin.ofNat 64 b))
  | 85 => need (decide (d = 0) && decide (b = 0) && decide (f = 0)) (.quarantine g (Fin.ofNat 64 a))
  | 86 => need (decide (d = 0) && decide (a = 0)) (.svc g (Fin.ofNat 1024 lo))
  | 87 => need (decide (d = 0) && decide (b = 0) && decide (f < 2)) (.hackset g (Fin.ofNat 64 a) (Fin.ofNat 2 f))
  | 88 => need (decide (d = 0) && decide (f = 0)) (.dirtyclr g (Fin.ofNat 64 a) (Fin.ofNat 64 b))
  | _ => undef

/-- An A syllable (02 R42 R54). -/
def decodeA (w : Nat) : Except DecodeError Instr :=
  if w = 0 then .ok .nop else
  if w / 4194304 % 128 = 0 then reserved else
  decodeAFields (Fin.ofNat 8 (w / 536870912)) (w / 4194304 % 128) (w / 65536 % 64) (w / 1024 % 64) (w % 1024)

/-- A0 and A1 under H.P (02 R55): a non-pairable A0 is PAIR_MISUSE, after its own encoding faults (02 R76). -/
def decodePair (w0 w1 : Nat) : Except DecodeError Instr :=
  let g : Fin 8 := Fin.ofNat 8 (w0 / 536870912)
  let d := w0 / 65536 % 64
  let a := w0 / 1024 % 64
  let i : Fin 4398046511104 := Fin.ofNat _ (w1 * 1024 + w0 % 1024)
  match w0 / 4194304 % 128 with
  | 40 => need (decide (a = 0)) (.limmPair g (Fin.ofNat 64 d) i)
  | 41 => need true (.lihiPair g (Fin.ofNat 64 d) (Fin.ofNat 64 a) i)
  | 72 => need (decide (d = 0) && decide (a = 0)) (.segset g i)
  | _ => match decodeA w0 with
    | .error e => .error e
    | .ok _ => .error .pairMisuse

/-- An X-op by its fields (02 R53 R68, 05 R178). -/
def decodeXFields (g : Fin 8) (op r disp : Nat) : Except DecodeError Instr :=
  match op with
  | 1 => need (decide (r = 0)) (.br g (Fin.ofNat 4294967296 disp))
  | 2 => need (decide (disp = 0)) (.bri g (Fin.ofNat 64 r))
  | 3 => need (decide (r = 0)) (.call g (Fin.ofNat 4294967296 disp))
  | 4 => need (decide (disp = 0)) (.calli g (Fin.ofNat 64 r))
  | 5 => need (decide (r < 8) && decide (disp = 0)) (.ret g (Fin.ofNat 8 r))
  | 6 => need true (.loopOp g (Fin.ofNat 64 r) (Fin.ofNat 4 (disp / 1073741824)) (Fin.ofNat 1073741824 disp))
  | 7 => need (decide (r = 0) && decide (disp = 0)) (.yield g)
  | 8 => need (decide (r = 0) && decide (disp = 0)) (.suspend g)
  | 9 => need true (.fork g (Fin.ofNat 64 r) (Fin.ofNat 4294967296 disp))
  | 10 => need (decide (r = 0) && decide (disp = 0)) (.exitOp g)
  | 11 => need (decide (r = 0)) (.trapOp g (Fin.ofNat 4294967296 disp))
  | 12 => if disp / 1073741824 = 0 then need (decide (disp < 64)) (.waitMem g (Fin.ofNat 64 r) (Fin.ofNat 64 disp)) else if disp / 1073741824 = 1 then need (decide (r = 0) && decide (disp - 1073741824 < 32)) (.waitEng g (Fin.ofNat 32 disp)) else undef
  | 13 => need (decide (r = 0) && decide (disp = 0)) (.rftResume g)
  | 14 => need (decide (r = 0) && decide (disp = 0)) (.idle g)
  | _ => undef

/-- An X syllable: the tree form or the X-op form (02 R49 R53). -/
def decodeX (w : Nat) : Except DecodeError Instr :=
  if w / 140737488355328 = 0 then
    need (decide (w % 512 = 0)) (.tree (Fin.ofNat 8 (w / 17592186044416)) (Fin.ofNat 32 (w / 549755813888))
      (Fin.ofNat 32 (w / 17179869184)) (Fin.ofNat 32 (w / 536870912)) (Fin.ofNat 32 (w / 16777216))
      (Fin.ofNat 8 (w / 2097152)) (Fin.ofNat 8 (w / 262144)) (Fin.ofNat 8 (w / 32768)) (Fin.ofNat 8 (w / 4096))
      (Fin.ofNat 8 (w / 512)))
  else decodeXFields (Fin.ofNat 8 (w / 274877906944)) (w / 2199023255552 % 64) (w / 4294967296 % 64) (w % 4294967296)

/-- An L syllable by its fields (02 R56 R69, 06, 12 R382). -/
def decodeLFields (g : Fin 8) (op dt b disp : Nat) : Except DecodeError Instr :=
  match op with
  | 1 => need (decide (dt < 64)) (.ldB g (Fin.ofNat 64 dt) (Fin.ofNat 64 b) (Fin.ofNat 4096 disp))
  | 2 => need (decide (dt < 64)) (.ldH g (Fin.ofNat 64 dt) (Fin.ofNat 64 b) (Fin.ofNat 4096 disp))
  | 3 => need (decide (dt < 64)) (.ldW g (Fin.ofNat 64 dt) (Fin.ofNat 64 b) (Fin.ofNat 4096 disp))
  | 4 => need (decide (dt < 64)) (.ldD g (Fin.ofNat 64 dt) (Fin.ofNat 64 b) (Fin.ofNat 4096 disp))
  | 5 => need (decide (dt < 64)) (.ldnB g (Fin.ofNat 64 dt) (Fin.ofNat 64 b) (Fin.ofNat 4096 disp))
  | 6 => need (decide (dt < 64)) (.ldnH g (Fin.ofNat 64 dt) (Fin.ofNat 64 b) (Fin.ofNat 4096 disp))
  | 7 => need (decide (dt < 64)) (.ldnW g (Fin.ofNat 64 dt) (Fin.ofNat 64 b) (Fin.ofNat 4096 disp))
  | 8 => need (decide (dt < 64)) (.ldtag g (Fin.ofNat 64 dt) (Fin.ofNat 64 b) (Fin.ofNat 4096 disp))
  | 9 => need (decide (dt < 64)) (.stB g (Fin.ofNat 64 dt) (Fin.ofNat 64 b) (Fin.ofNat 4096 disp))
  | 10 => need (decide (dt < 64)) (.stH g (Fin.ofNat 64 dt) (Fin.ofNat 64 b) (Fin.ofNat 4096 disp))
  | 11 => need (decide (dt < 64)) (.stW g (Fin.ofNat 64 dt) (Fin.ofNat 64 b) (Fin.ofNat 4096 disp))
  | 12 => need (decide (dt < 64)) (.stD g (Fin.ofNat 64 dt) (Fin.ofNat 64 b) (Fin.ofNat 4096 disp))
  | 13 => need (decide (dt < 64)) (.sttag g (Fin.ofNat 64 dt) (Fin.ofNat 64 b) (Fin.ofNat 4096 disp))
  | 16 => if 2048 ≤ dt then undef else need (true) (.ldv g (lineOf dt) (Fin.ofNat 64 b) (Fin.ofNat 4096 disp))
  | 17 => if 2048 ≤ dt then undef else need (true) (.stv g (lineOf dt) (Fin.ofNat 64 b) (Fin.ofNat 4096 disp))
  | 18 => if 2048 ≤ dt then undef else need (decide (disp < 64)) (.ldvs g (lineOf dt) (Fin.ofNat 64 b) (Fin.ofNat 64 disp))
  | 19 => if 2048 ≤ dt then undef else need (decide (disp < 64)) (.stvs g (lineOf dt) (Fin.ofNat 64 b) (Fin.ofNat 64 disp))
  | 20 => if 2048 ≤ dt || decide (2048 ≤ disp) then undef else need (true) (.ldg g (lineOf dt) (Fin.ofNat 64 b) (lineOf disp))
  | 21 => if 2048 ≤ dt || decide (2048 ≤ disp) then undef else need (true) (.stg g (lineOf dt) (Fin.ofNat 64 b) (lineOf disp))
  | 22 => if 2048 ≤ dt then undef else need (decide (disp < 4)) (.ldx g (lineOf dt) (Fin.ofNat 64 b) (Fin.ofNat 4 disp))
  | 32 => need (decide (dt < 64)) (.aadd g (Fin.ofNat 64 dt) (Fin.ofNat 64 b) (Fin.ofNat 4096 disp))
  | 33 => need (decide (dt < 64)) (.aand g (Fin.ofNat 64 dt) (Fin.ofNat 64 b) (Fin.ofNat 4096 disp))
  | 34 => need (decide (dt < 64)) (.aor g (Fin.ofNat 64 dt) (Fin.ofNat 64 b) (Fin.ofNat 4096 disp))
  | 35 => need (decide (dt < 64)) (.axor g (Fin.ofNat 64 dt) (Fin.ofNat 64 b) (Fin.ofNat 4096 disp))
  | 36 => need (decide (dt < 64)) (.amin g (Fin.ofNat 64 dt) (Fin.ofNat 64 b) (Fin.ofNat 4096 disp))
  | 37 => need (decide (dt < 64)) (.amax g (Fin.ofNat 64 dt) (Fin.ofNat 64 b) (Fin.ofNat 4096 disp))
  | 38 => need (decide (dt < 64)) (.aminn g (Fin.ofNat 64 dt) (Fin.ofNat 64 b) (Fin.ofNat 4096 disp))
  | 39 => need (decide (dt < 64)) (.amaxn g (Fin.ofNat 64 dt) (Fin.ofNat 64 b) (Fin.ofNat 4096 disp))
  | 40 => need (decide (dt < 64)) (.axchg g (Fin.ofNat 64 dt) (Fin.ofNat 64 b) (Fin.ofNat 4096 disp))
  | 41 => need (decide (dt < 64)) (.acas g (Fin.ofNat 64 dt) (Fin.ofNat 64 b) (Fin.ofNat 4096 disp))
  | 42 => need (decide (dt < 64)) (.afadd g (Fin.ofNat 64 dt) (Fin.ofNat 64 b) (Fin.ofNat 4096 disp))
  | 48 => if !(decide (dt < 8) && decide (b = 0) && decide (disp = 0)) then reserved else if 5 ≤ dt then undef else .ok (.fenceOp g (Fin.ofNat 5 dt))
  | 49 => if 8 ≤ dt then reserved else if 4 ≤ dt then undef else need true (.promote g (Fin.ofNat 4 dt) (Fin.ofNat 64 b) (Fin.ofNat 4096 disp))
  | 50 => need (decide (dt < 2)) (.prefetch g (Fin.ofNat 2 dt) (Fin.ofNat 64 b) (Fin.ofNat 4096 disp))
  | 51 => if 4 ≤ dt then reserved else if dt = 0 then .ok (.cflushWb g (Fin.ofNat 64 b) (Fin.ofNat 4096 disp)) else if dt = 1 then .ok (.cflushInv g (Fin.ofNat 64 b) (Fin.ofNat 4096 disp)) else if dt = 2 then .ok (.cflushMem g (Fin.ofNat 64 b) (Fin.ofNat 4096 disp)) else undef
  | 52 => need (decide (dt < 64)) (.barinit g (Fin.ofNat 64 dt) (Fin.ofNat 64 b) (Fin.ofNat 4096 disp))
  | 53 => need (decide (dt < 64)) (.bararr g (Fin.ofNat 64 dt) (Fin.ofNat 64 b) (Fin.ofNat 4096 disp))
  | 54 => need (decide (dt < 64)) (.barwait g (Fin.ofNat 64 dt) (Fin.ofNat 64 b) (Fin.ofNat 4096 disp))
  | 55 => need (decide (dt = 0) && decide (disp < 8)) (.qpush g (Fin.ofNat 8 disp) (Fin.ofNat 64 b))
  | 56 => need (decide (dt < 64) && decide (disp < 8)) (.qpop g (Fin.ofNat 64 dt) (Fin.ofNat 8 disp) (Fin.ofNat 64 b))
  | 57 => need (decide (dt < 64) && decide (disp < 8)) (.qtry g (Fin.ofNat 64 dt) (Fin.ofNat 8 disp) (Fin.ofNat 64 b))
  | 58 => need (decide (dt < 64) && decide (disp < 4)) (.rsend g (Fin.ofNat 64 dt) (Fin.ofNat 4 disp) (Fin.ofNat 64 b))
  | 59 => need (decide (dt < 64) && decide (disp < 4)) (.rrecv g (Fin.ofNat 64 dt) (Fin.ofNat 4 disp) (Fin.ofNat 64 b))
  | 60 => need (decide (dt < 64)) (.ttdef g (Fin.ofNat 64 dt) (Fin.ofNat 64 b) (Fin.ofNat 4096 disp))
  | 61 => if 4 ≤ dt then reserved else if dt = 2 then .ok (.ttsetReady g (Fin.ofNat 64 b) (Fin.ofNat 4096 disp)) else if dt = 0 then .ok (.ttsetEmpty g (Fin.ofNat 64 b) (Fin.ofNat 4096 disp)) else undef
  | 62 => need (decide (dt = 0)) (.ttrel g (Fin.ofNat 64 b) (Fin.ofNat 4096 disp))
  | 63 => need (decide (dt < 64)) (.ttstat g (Fin.ofNat 64 dt) (Fin.ofNat 64 b) (Fin.ofNat 4096 disp))
  | 64 => need (decide (dt < 32) && decide (b = 0) && decide (disp = 0)) (.txbegin g (Fin.ofNat 8 dt) (Fin.ofNat 4 (dt / 8)))
  | 65 => need (decide (dt = 0) && decide (b = 0) && decide (disp = 0)) (.txend g)
  | 66 => need (decide (dt < 256) && decide (b = 0) && decide (disp = 0)) (.txabort g (Fin.ofNat 256 dt))
  | 67 => need (decide (dt < 64) && decide (b = 0) && decide (disp = 0)) (.txstat g (Fin.ofNat 64 dt))
  | _ => undef

/-- An L syllable; the all-zero syllable is the slot's NOP and decodes to `nop` (02 R42). -/
def decodeL (w : Nat) : Except DecodeError Instr :=
  if w = 0 then .ok .nop else
  if w / 1073741824 % 128 = 0 then reserved else
  decodeLFields (Fin.ofNat 8 (w / 137438953472)) (w / 1073741824 % 128) (w / 262144 % 4096) (w / 4096 % 64) (w % 4096)

/-- A V syllable by its fields (02 R57 R70, 07). -/
def decodeVFields (g : Fin 8) (op df af bf s : Nat) : Except DecodeError Instr :=
  match op with
  | 1 => (voperand df).bind fun d => (voperand af).bind fun a => (voperand bf).bind fun b => need (s = 0) (.fadd g d a b)
  | 2 => (voperand df).bind fun d => (voperand af).bind fun a => (voperand bf).bind fun b => need (s = 0) (.fsub g d a b)
  | 3 => (voperand df).bind fun d => (voperand af).bind fun a => (voperand bf).bind fun b => need (s = 0) (.fmul g d a b)
  | 4 => (voperand df).bind fun d => (voperand af).bind fun a => (voperand bf).bind fun b => need (s = 0) (.ffma g d a b)
  | 5 => (voperand df).bind fun d => (voperand af).bind fun a => (voperand bf).bind fun b => need (s = 0) (.ffms g d a b)
  | 6 => (voperand df).bind fun d => (voperand af).bind fun a => (voperand bf).bind fun b => need (s = 0) (.fmax g d a b)
  | 7 => (voperand df).bind fun d => (voperand af).bind fun a => (voperand bf).bind fun b => need (s = 0) (.fmin g d a b)
  | 8 => (voperand df).bind fun d => (voperand af).bind fun a => need (decide (bf = 0) && decide (s = 0)) (.fabs g d a)
  | 9 => (voperand df).bind fun d => (voperand af).bind fun a => need (decide (bf = 0) && decide (s = 0)) (.fneg g d a)
  | 10 => (voperand df).bind fun d => (voperand af).bind fun a => (voperand bf).bind fun b => need (s = 0) (.fcpys g d a b)
  | 11 => (voperand df).bind fun d => (voperand af).bind fun a => need (decide (bf = 0) && decide (s = 0)) (.frcp g d a)
  | 12 => (voperand df).bind fun d => (voperand af).bind fun a => need (decide (bf = 0) && decide (s = 0)) (.frsq g d a)
  | 13 => (voperand df).bind fun d => (voperand af).bind fun a => need (decide (bf = 0) && decide (s = 0)) (.fexp2 g d a)
  | 14 => (voperand df).bind fun d => (voperand af).bind fun a => need (decide (bf = 0) && decide (s = 0)) (.flog2 g d a)
  | 15 => (voperand df).bind fun d => (voperand af).bind fun a => need (decide (bf = 0)) (.frint g d a (Fin.ofNat 2 s))
  | 16 => (voperand df).bind fun d => (voperand af).bind fun a => (voperand bf).bind fun b => need (s = 0) (.fcmpeq g d a b)
  | 17 => (voperand df).bind fun d => (voperand af).bind fun a => (voperand bf).bind fun b => need (s = 0) (.fcmplt g d a b)
  | 18 => (voperand df).bind fun d => (voperand af).bind fun a => (voperand bf).bind fun b => need (s = 0) (.fcmple g d a b)
  | 19 => (voperand df).bind fun d => (voperand af).bind fun a => (voperand bf).bind fun b => need (s = 0) (.fcmpun g d a b)
  | 24 => (voperand df).bind fun d => (voperand af).bind fun a => (voperand bf).bind fun b => need true (.hadd g d a b (Fin.ofNat 2 s))
  | 25 => (voperand df).bind fun d => (voperand af).bind fun a => (voperand bf).bind fun b => need true (.hmul g d a b (Fin.ofNat 2 s))
  | 26 => (voperand df).bind fun d => (voperand af).bind fun a => (voperand bf).bind fun b => need true (.hfma g d a b (Fin.ofNat 2 s))
  | 27 => (voperand df).bind fun d => (voperand af).bind fun a => (voperand bf).bind fun b => need true (.hmax g d a b (Fin.ofNat 2 s))
  | 32 => (voperand df).bind fun d => (voperand af).bind fun a => (voperand bf).bind fun b => need true (.iadd g d a b (Fin.ofNat 2 s))
  | 33 => (voperand df).bind fun d => (voperand af).bind fun a => (voperand bf).bind fun b => need true (.isub g d a b (Fin.ofNat 2 s))
  | 34 => (voperand df).bind fun d => (voperand af).bind fun a => (voperand bf).bind fun b => need true (.imul g d a b (Fin.ofNat 2 s))
  | 35 => (voperand df).bind fun d => (voperand af).bind fun a => (voperand bf).bind fun b => need true (.imulh g d a b (Fin.ofNat 2 s))
  | 36 => (voperand df).bind fun d => (voperand af).bind fun a => (voperand bf).bind fun b => need true (.imad g d a b (Fin.ofNat 2 s))
  | 37 => (voperand df).bind fun d => (voperand af).bind fun a => (voperand bf).bind fun b => need (s = 0) (.imax g d a b)
  | 38 => (voperand df).bind fun d => (voperand af).bind fun a => (voperand bf).bind fun b => need (s = 0) (.imin g d a b)
  | 39 => (voperand df).bind fun d => (voperand af).bind fun a => (voperand bf).bind fun b => need (s = 0) (.imaxn g d a b)
  | 40 => (voperand df).bind fun d => (voperand af).bind fun a => (voperand bf).bind fun b => need (s = 0) (.iminn g d a b)
  | 41 => (voperand df).bind fun d => (voperand af).bind fun a => (voperand bf).bind fun b => need (s = 0) (.iand g d a b)
  | 42 => (voperand df).bind fun d => (voperand af).bind fun a => (voperand bf).bind fun b => need (s = 0) (.ior g d a b)
  | 43 => (voperand df).bind fun d => (voperand af).bind fun a => (voperand bf).bind fun b => need (s = 0) (.ixor g d a b)
  | 44 => (voperand df).bind fun d => (voperand af).bind fun a => (voperand bf).bind fun b => need true (.ishl g d a b (Fin.ofNat 2 s))
  | 45 => (voperand df).bind fun d => (voperand af).bind fun a => (voperand bf).bind fun b => need (s = 0) (.ishr g d a b)
  | 46 => (voperand df).bind fun d => (voperand af).bind fun a => (voperand bf).bind fun b => need (s = 0) (.isra g d a b)
  | 47 => (voperand df).bind fun d => (voperand af).bind fun a => need (decide (bf = 0)) (.iabs g d a (Fin.ofNat 2 s))
  | 48 => (voperand df).bind fun d => (voperand af).bind fun a => (voperand bf).bind fun b => need (s = 0) (.icmpeq g d a b)
  | 49 => (voperand df).bind fun d => (voperand af).bind fun a => (voperand bf).bind fun b => need (s = 0) (.icmplt g d a b)
  | 50 => (voperand df).bind fun d => (voperand af).bind fun a => (voperand bf).bind fun b => need (s = 0) (.icmpltn g d a b)
  | 56 => (voperand df).bind fun d => (voperand af).bind fun a => need (decide (bf < 256)) (.cvt g d a (Fin.ofNat 16 (bf / 16)) (Fin.ofNat 16 bf) (Fin.ofNat 2 s))
  | 57 => (voperand df).bind fun d => (voperand af).bind fun a => (voperand bf).bind fun b => need (s = 0) (.qnt g d a b)
  | 58 => (voperand df).bind fun d => (voperand af).bind fun a => (voperand bf).bind fun b => need (s = 0) (.dqnt g d a b)
  | 59 => (voperand df).bind fun d => (voperand af).bind fun a => (voperand bf).bind fun b => need true (.bscale g d a b (Fin.ofNat 2 s))
  | 60 => (voperand df).bind fun d => (voperand af).bind fun a => if !(decide (2560 ≤ bf) && decide (bf < 2816)) then undef else need (decide (s = 0)) (.plpack g d a (Fin.ofNat 256 bf))
  | 61 => (voperand df).bind fun d => (voperand af).bind fun a => if !(decide (2560 ≤ bf) && decide (bf < 2816)) then undef else need (decide (s = 0)) (.plunpk g d a (Fin.ofNat 256 bf))
  | 64 => (voperand df).bind fun d => (voperand af).bind fun a => need (decide (bf = 0) && decide (s = 0)) (.vmov g d a)
  | 65 => (voperand df).bind fun d => (voperand af).bind fun a => (voperand bf).bind fun b => need (s = 0) (.vbcast g d a b)
  | 66 => (voperand df).bind fun d => (voperand af).bind fun a => (voperand bf).bind fun b => need (s = 0) (.vshuf g d a b)
  | 67 => (voperand df).bind fun d => (voperand af).bind fun a => (voperand bf).bind fun b => need (s = 0) (.vrot g d a b)
  | 68 => (voperand df).bind fun d => (voperand af).bind fun a => (voperand bf).bind fun b => need (s = 0) (.vsel g d a b)
  | 69 => (voperand df).bind fun d => (voperand af).bind fun a => if !(decide (2560 ≤ bf) && decide (bf < 2816)) then undef else need (decide (s = 0)) (.vred g d a (Fin.ofNat 256 bf))
  | 70 => (voperand df).bind fun d => (voperand af).bind fun a => if !(decide (2560 ≤ bf) && decide (bf < 2816)) then undef else need true (.vscan g d a (Fin.ofNat 256 bf) (Fin.ofNat 2 s))
  | 71 => (voperand df).bind fun d => (voperand af).bind fun a => (voperand bf).bind fun b => need (s = 0) (.viota g d a b)
  | 72 => (voperand df).bind fun d => (voperand af).bind fun a => (voperand bf).bind fun b => need true (.vmask g d a b (Fin.ofNat 2 s))
  | 73 => (voperand df).bind fun d => (voperand af).bind fun a => need (decide (bf = 0) && decide (s = 0)) (.vpopc g d a)
  | 74 => (voperand df).bind fun d => (voperand af).bind fun a => (voperand bf).bind fun b => need true (.vext g d a b (Fin.ofNat 2 s))
  | 80 => (voperand af).bind fun a => (voperand bf).bind fun b => if 2048 ≤ df then undef else need (decide (df / 512 = 0) && decide (df % 32 = 0)) (.mmr g (Fin.ofNat 16 (df / 32)) a b (Fin.ofNat 2 s))
  | 81 => if 2048 ≤ df then undef else need (decide (df / 512 = 0) && decide (df % 32 = 0) && decide (af = 0) && decide (bf = 0) && decide (s = 0)) (.mzero g (Fin.ofNat 16 (df / 32)))
  | 82 => if 2048 ≤ df then undef else need (decide (df / 512 = 0) && decide (df % 32 = 0) && decide (af = 0) && decide (bf = 0) && decide (s = 0)) (.mgate g (Fin.ofNat 16 (df / 32)))
  | 83 => if 2048 ≤ df then undef else need (decide (df / 512 = 0) && decide (df % 32 = 0) && decide (af = 0) && decide (bf = 0) && decide (s = 0)) (.mdrowsy g (Fin.ofNat 16 (df / 32)))
  | 84 => if 2048 ≤ df then undef else need (decide (df / 512 = 0) && decide (df % 32 = 0) && decide (af = 0) && decide (bf = 0) && decide (s = 0)) (.mwake g (Fin.ofNat 16 (df / 32)))
  | 85 => if 2048 ≤ df then undef else need (decide (df / 512 = 0) && decide (df % 32 = 0) && decide (af = 0) && decide (bf = 0) && decide (s = 0)) (.minval g (Fin.ofNat 16 (df / 32)))
  | _ => undef

/-- A V syllable. -/
def decodeV (w : Nat) : Except DecodeError Instr :=
  if w = 0 then .ok .nop else
  if w / 137438953472 % 256 = 0 then reserved else
  decodeVFields (Fin.ofNat 8 (w / 35184372088832)) (w / 137438953472 % 256) (w / 33554432 % 4096) (w / 8192 % 4096)
    (w / 2 % 4096) (w % 2)

/-! A word of an E instruction is built as a value of one of the last slot constructors; Lean's compiler has no object tag
for so many constructors, so what builds one has no compiled code. The kernel evaluates it like any other definition. -/

noncomputable section

/-- An E syllable by its fields; `key` is 128 ENG + op (02 R60 R71). -/
def decodeEFields (g : Fin 8) (key sa sb sc sw p r imm : Nat) : Except DecodeError Instr :=
  match key with
  | 1 => need (decide (imm < 2)) (.mgemm g (Fin.ofNat 4 sa) (Fin.ofNat 4 sb) (Fin.ofNat 4 sc) (Fin.ofNat 16 sw) (Fin.ofNat 64 p) (Fin.ofNat 2 r) (Fin.ofNat 2 imm))
  | 2 => need (decide (imm < 2)) (.mgemms g (Fin.ofNat 4 sa) (Fin.ofNat 4 sb) (Fin.ofNat 4 sc) (Fin.ofNat 16 sw) (Fin.ofNat 64 p) (Fin.ofNat 2 r) (Fin.ofNat 2 imm))
  | 3 => need (decide (imm < 2)) (.mconv g (Fin.ofNat 4 sa) (Fin.ofNat 4 sb) (Fin.ofNat 4 sc) (Fin.ofNat 16 sw) (Fin.ofNat 64 p) (Fin.ofNat 2 r) (Fin.ofNat 2 imm))
  | 4 => need (decide (imm < 8)) (.mattn g (Fin.ofNat 4 sa) (Fin.ofNat 4 sb) (Fin.ofNat 4 sc) (Fin.ofNat 16 sw) (Fin.ofNat 64 p) (Fin.ofNat 2 r) (Fin.ofNat 4 (imm / 2)) (Fin.ofNat 2 imm))
  | 129 => need (decide (sc = 0) && decide (imm = 0)) (.scout g (Fin.ofNat 4 sa) (Fin.ofNat 4 sb) (Fin.ofNat 16 sw) (Fin.ofNat 64 p) (Fin.ofNat 2 r))
  | 130 => need (decide (sa = 0) && decide (sb = 0) && decide (sc = 0) && decide (imm = 0)) (.swin g (Fin.ofNat 16 sw) (Fin.ofNat 64 p) (Fin.ofNat 2 r))
  | 131 => need (decide (sa = 0) && decide (sb = 0) && decide (sc = 0) && decide (imm = 0)) (.smask g (Fin.ofNat 16 sw) (Fin.ofNat 64 p) (Fin.ofNat 2 r))
  | 132 => need (decide (imm = 0)) (.sscore g (Fin.ofNat 4 sa) (Fin.ofNat 4 sb) (Fin.ofNat 4 sc) (Fin.ofNat 16 sw) (Fin.ofNat 64 p) (Fin.ofNat 2 r))
  | 257 => need (decide (sb = 0) && decide (imm = 0)) (.ccopy g (Fin.ofNat 4 sa) (Fin.ofNat 4 sc) (Fin.ofNat 16 sw) (Fin.ofNat 64 p) (Fin.ofNat 2 r))
  | 258 => need (decide (imm = 0)) (.cgather g (Fin.ofNat 4 sa) (Fin.ofNat 4 sb) (Fin.ofNat 4 sc) (Fin.ofNat 16 sw) (Fin.ofNat 64 p) (Fin.ofNat 2 r))
  | 259 => need (decide (imm = 0)) (.cscatter g (Fin.ofNat 4 sa) (Fin.ofNat 4 sb) (Fin.ofNat 4 sc) (Fin.ofNat 16 sw) (Fin.ofNat 64 p) (Fin.ofNat 2 r))
  | 260 => need (decide (sa = 0) && decide (sb = 0) && decide (imm = 0)) (.cfill g (Fin.ofNat 4 sc) (Fin.ofNat 16 sw) (Fin.ofNat 64 p) (Fin.ofNat 2 r))
  | 261 => need (decide (sb = 0) && decide (imm = 0)) (.ctrans g (Fin.ofNat 4 sa) (Fin.ofNat 4 sc) (Fin.ofNat 16 sw) (Fin.ofNat 64 p) (Fin.ofNat 2 r))
  | 262 => need (decide (sb = 0) && decide (imm = 0)) (.cplane g (Fin.ofNat 4 sa) (Fin.ofNat 4 sc) (Fin.ofNat 16 sw) (Fin.ofNat 64 p) (Fin.ofNat 2 r))
  | 263 => need (decide (sb = 0) && decide (imm = 0)) (.cflat g (Fin.ofNat 4 sa) (Fin.ofNat 4 sc) (Fin.ofNat 16 sw) (Fin.ofNat 64 p) (Fin.ofNat 2 r))
  | 264 => need (decide (sa = 0) && decide (sb = 0) && decide (sc = 0) && decide (imm = 0)) (.cpagein g (Fin.ofNat 16 sw) (Fin.ofNat 64 p) (Fin.ofNat 2 r))
  | 265 => need (decide (sa = 0) && decide (sb = 0) && decide (sc = 0) && decide (imm = 0)) (.cmigrate g (Fin.ofNat 16 sw) (Fin.ofNat 64 p) (Fin.ofNat 2 r))
  | 266 => need (decide (sa = 0) && decide (sb = 0) && decide (sc = 0) && decide (imm = 0)) (.ctags g (Fin.ofNat 16 sw) (Fin.ofNat 64 p) (Fin.ofNat 2 r))
  | 385 => need (decide (imm = 0)) (.vsort g (Fin.ofNat 4 sa) (Fin.ofNat 4 sb) (Fin.ofNat 4 sc) (Fin.ofNat 16 sw) (Fin.ofNat 64 p) (Fin.ofNat 2 r))
  | 386 => need (decide (imm = 0)) (.vsoftmax g (Fin.ofNat 4 sa) (Fin.ofNat 4 sb) (Fin.ofNat 4 sc) (Fin.ofNat 16 sw) (Fin.ofNat 64 p) (Fin.ofNat 2 r))
  | 387 => need (decide (imm = 0)) (.vnorm g (Fin.ofNat 4 sa) (Fin.ofNat 4 sb) (Fin.ofNat 4 sc) (Fin.ofNat 16 sw) (Fin.ofNat 64 p) (Fin.ofNat 2 r))
  | 388 => need (decide (imm = 0)) (.vreduce g (Fin.ofNat 4 sa) (Fin.ofNat 4 sb) (Fin.ofNat 4 sc) (Fin.ofNat 16 sw) (Fin.ofNat 64 p) (Fin.ofNat 2 r))
  | 513 => need (decide (sb = 0) && decide (imm = 0)) (.allred g (Fin.ofNat 4 sa) (Fin.ofNat 4 sc) (Fin.ofNat 16 sw) (Fin.ofNat 64 p) (Fin.ofNat 2 r))
  | 514 => need (decide (sb = 0) && decide (imm = 0)) (.allgath g (Fin.ofNat 4 sa) (Fin.ofNat 4 sc) (Fin.ofNat 16 sw) (Fin.ofNat 64 p) (Fin.ofNat 2 r))
  | 515 => need (decide (sb = 0) && decide (imm = 0)) (.redscat g (Fin.ofNat 4 sa) (Fin.ofNat 4 sc) (Fin.ofNat 16 sw) (Fin.ofNat 64 p) (Fin.ofNat 2 r))
  | 516 => need (decide (sb = 0) && decide (imm = 0)) (.xbcast g (Fin.ofNat 4 sa) (Fin.ofNat 4 sc) (Fin.ofNat 16 sw) (Fin.ofNat 64 p) (Fin.ofNat 2 r))
  | 517 => need (decide (sb = 0) && decide (imm = 0)) (.alltoall g (Fin.ofNat 4 sa) (Fin.ofNat 4 sc) (Fin.ofNat 16 sw) (Fin.ofNat 64 p) (Fin.ofNat 2 r))
  | 518 => need (decide (sb = 0) && decide (sc = 0) && decide (imm = 0)) (.xsend g (Fin.ofNat 4 sa) (Fin.ofNat 16 sw) (Fin.ofNat 64 p) (Fin.ofNat 2 r))
  | 519 => need (decide (sa = 0) && decide (sb = 0) && decide (imm = 0)) (.xrecv g (Fin.ofNat 4 sc) (Fin.ofNat 16 sw) (Fin.ofNat 64 p) (Fin.ofNat 2 r))
  | 641 => if r = 1 then undef else need (decide (sa = 0) && decide (sb = 0) && decide (sc = 0) && decide (imm < 512)) (.logmark g (Fin.ofNat 16 sw) (Fin.ofNat 64 p) (Fin.ofNat 256 imm) (Fin.ofNat 2 (imm / 256)))
  | 642 => if r = 1 then undef else if decide (imm < 8) && decide (5 ≤ imm) then undef else need (decide (sa = 0) && decide (sb = 0) && decide (sc = 0) && decide (p = 0) && decide (imm < 8)) (.logflush g (Fin.ofNat 16 sw) (Fin.ofNat 5 imm))
  | 769 => if r = 1 then undef else need (decide (sa = 0) && decide (sb = 0) && decide (sc = 0) && decide (p = 0) && decide (imm < 32)) (.qfence g (Fin.ofNat 16 sw) (Fin.ofNat 32 imm))
  | 770 => if r = 1 then undef else if decide (imm < 512) && decide (320 ≤ imm) then undef else need (decide (sa = 0) && decide (sb = 0) && decide (sc = 0) && decide (p = 0) && decide (imm < 512)) (.etrel g (Fin.ofNat 16 sw) (Fin.ofNat 64 imm) (Fin.ofNat 5 (imm / 64)))
  | 771 => if r = 1 then undef else need (decide (sa = 0) && decide (sb = 0) && decide (sc = 0) && decide (p = 0) && decide (imm < 32)) (.ecancel g (Fin.ofNat 16 sw) (Fin.ofNat 32 imm))
  | 772 => if r = 1 then undef else if !(decide (sa = 0) && decide (sb = 0) && decide (sc = 0)) then reserved else if 512 ≤ imm || decide (5 ≤ imm / 32 % 8) then undef else if imm < 256 then .ok (.esignal g (Fin.ofNat 16 sw) (Fin.ofNat 64 p) (Fin.ofNat 32 imm) (Fin.ofNat 5 (imm / 32 % 8))) else .ok (.esignalAdd g (Fin.ofNat 16 sw) (Fin.ofNat 64 p) (Fin.ofNat 32 imm) (Fin.ofNat 5 (imm / 32 % 8)))
  | _ => undef

/-- An E syllable. -/
def decodeE (w : Nat) : Except DecodeError Instr :=
  if w = 0 then .ok .nop else
  if w / 134217728 % 128 = 0 then reserved else
  decodeEFields (Fin.ofNat 8 (w / 137438953472)) (w / 134217728 % 1024) (w / 33554432 % 4) (w / 8388608 % 4)
    (w / 2097152 % 4) (w / 131072 % 16) (w / 2048 % 64) (w / 1024 % 2) (w % 1024)

/-- A syllable of a bundle, by its slot; `pair` is A0 with A1 (02 R39 R55). -/
inductive Syllable where
  | a (w : Nat) | pair (w0 w1 : Nat) | x (w : Nat) | l (w : Nat) | v (w : Nat) | e (w : Nat)
  deriving DecidableEq, Repr

/-- The instruction a syllable holds. -/
def decodeSyllable : Syllable → Except DecodeError Instr
  | .a w => decodeA w
  | .pair w0 w1 => decodePair w0 w1
  | .x w => decodeX w
  | .l w => decodeL w
  | .v w => decodeV w
  | .e w => decodeE w

/-- The header of a bundle (02 R40). -/
structure Header where
  pairBit : Bool
  scope : Fin 8
  g : Bool
  q : Bool
  s : Bool
  deriving DecidableEq, Repr, Inhabited

/-- The header from its 16 bits: H[6] and H[15:8] must be zero and SCOPE below 0b110 (02 R40 R41 R42). -/
def decodeHeader (h : Nat) : Except DecodeError Header :=
  if h / 256 = 0 ∧ h / 64 % 2 = 0 ∧ h / 8 % 8 < 6 then
    .ok ⟨decide (h / 128 % 2 = 1), Fin.ofNat 8 (h / 8), decide (h / 4 % 2 = 1), decide (h / 2 % 2 = 1), decide (h % 2 = 1)⟩
  else .error .bundleReserved

/-- A bundle taken apart: its header and what each syllable decodes to, slots 0 to 5 in order (02 R39). Under H.P slot 2
holds no syllable. -/
structure Bundle where
  header : Header
  slots : List (Fin 8 × Except DecodeError Instr)

/-- The bits [hi:lo] of a bundle word. -/
def bundleField (w lo width : Nat) : Nat := w / 2 ^ lo % 2 ^ width

/-- A bundle from its 256 bits (02 R39). -/
def decodeBundle (w : Nat) : Except DecodeError Bundle :=
  match decodeHeader (bundleField w 0 16) with
  | .error e => .error e
  | .ok h =>
    let x := decodeX (bundleField w 16 48)
    let a0 := bundleField w 64 32
    let a1 := bundleField w 96 32
    let l := decodeL (bundleField w 128 40)
    let v := decodeV (bundleField w 168 48)
    let e := decodeE (bundleField w 216 40)
    .ok ⟨h, if h.pairBit then [(0, x), (1, decodePair a0 a1), (3, l), (4, v), (5, e)]
      else [(0, x), (1, decodeA a0), (2, decodeA a1), (3, l), (4, v), (5, e)]⟩

end

/-! The encoder. -/

def packA (g op d a lo : Nat) : Nat := g * 536870912 + op * 4194304 + d * 65536 + a * 1024 + lo
def packX (g op r disp : Nat) : Nat := 140737488355328 + op * 2199023255552 + g * 274877906944 + r * 4294967296 + disp
def packTree (sh t1 t2 t3 t4 l1 l2 l3 l4 l5 : Nat) : Nat :=
  sh * 17592186044416 + t1 * 549755813888 + t2 * 17179869184 + t3 * 536870912 + t4 * 16777216 + l1 * 2097152 +
    l2 * 262144 + l3 * 32768 + l4 * 4096 + l5 * 512
def packL (g op dt b disp : Nat) : Nat := g * 137438953472 + op * 1073741824 + dt * 262144 + b * 4096 + disp
def packLine (l : Line) : Nat := l.dir.val * 512 + l.m.val * 32 + l.line.val
def packVOp : VOp → Nat
  | .line l => packLine l
  | .port k => 2048 + k.val
  | .xreg r => 2304 + r.val
  | .imm v => 2560 + v.val
  | .mask k => 2816 + k.val
  | .xdest r => 3072 + r.val
def packV (g op d a b s : Nat) : Nat := g * 35184372088832 + op * 137438953472 + d * 33554432 + a * 8192 + b * 2 + s
def packE (g eng op sa sb sc sw p r imm : Nat) : Nat :=
  g * 137438953472 + eng * 17179869184 + op * 134217728 + sa * 33554432 + sb * 8388608 + sc * 2097152 + sw * 131072 +
    p * 2048 + r * 1024 + imm

/-- The syllable of an instruction; an event has none. -/
def encode : Instr → Option Syllable
  | .add g d a b => some (.a (packA g.val 1 d.val a.val (b.val * 16 + 0)))
  | .sub g d a b => some (.a (packA g.val 2 d.val a.val (b.val * 16 + 0)))
  | .mul g d a b => some (.a (packA g.val 3 d.val a.val (b.val * 16 + 0)))
  | .mulh g d a b => some (.a (packA g.val 4 d.val a.val (b.val * 16 + 0)))
  | .mulhn g d a b => some (.a (packA g.val 5 d.val a.val (b.val * 16 + 0)))
  | .div g d a b => some (.a (packA g.val 6 d.val a.val (b.val * 16 + 0)))
  | .divn g d a b => some (.a (packA g.val 7 d.val a.val (b.val * 16 + 0)))
  | .rem g d a b => some (.a (packA g.val 8 d.val a.val (b.val * 16 + 0)))
  | .remn g d a b => some (.a (packA g.val 9 d.val a.val (b.val * 16 + 0)))
  | .andOp g d a b => some (.a (packA g.val 10 d.val a.val (b.val * 16 + 0)))
  | .orOp g d a b => some (.a (packA g.val 11 d.val a.val (b.val * 16 + 0)))
  | .xorOp g d a b => some (.a (packA g.val 12 d.val a.val (b.val * 16 + 0)))
  | .andn g d a b => some (.a (packA g.val 13 d.val a.val (b.val * 16 + 0)))
  | .sll g d a b => some (.a (packA g.val 14 d.val a.val (b.val * 16 + 0)))
  | .srl g d a b => some (.a (packA g.val 15 d.val a.val (b.val * 16 + 0)))
  | .sra g d a b => some (.a (packA g.val 16 d.val a.val (b.val * 16 + 0)))
  | .rol g d a b => some (.a (packA g.val 17 d.val a.val (b.val * 16 + 0)))
  | .minOp g d a b => some (.a (packA g.val 18 d.val a.val (b.val * 16 + 0)))
  | .maxOp g d a b => some (.a (packA g.val 19 d.val a.val (b.val * 16 + 0)))
  | .minn g d a b => some (.a (packA g.val 20 d.val a.val (b.val * 16 + 0)))
  | .maxn g d a b => some (.a (packA g.val 21 d.val a.val (b.val * 16 + 0)))
  | .absOp g d a => some (.a (packA g.val 22 d.val a.val (0 * 16 + 0)))
  | .clz g d a => some (.a (packA g.val 23 d.val a.val (0 * 16 + 0)))
  | .ctz g d a => some (.a (packA g.val 24 d.val a.val (0 * 16 + 0)))
  | .popc g d a => some (.a (packA g.val 25 d.val a.val (0 * 16 + 0)))
  | .bfx g d a b s => some (.a (packA g.val 28 d.val a.val (b.val * 16 + s.val)))
  | .bfi g d a b => some (.a (packA g.val 29 d.val a.val (b.val * 16 + 0)))
  | .sel g d a b n => some (.a (packA g.val 30 d.val a.val (b.val * 16 + n.val)))
  | .sext g d a w => some (.a (packA g.val 26 d.val a.val (0 * 16 + w.val)))
  | .zext g d a w => some (.a (packA g.val 27 d.val a.val (0 * 16 + w.val)))
  | .addi g d a i => some (.a (packA g.val 32 d.val a.val i.val))
  | .andi g d a i => some (.a (packA g.val 33 d.val a.val i.val))
  | .ori g d a i => some (.a (packA g.val 34 d.val a.val i.val))
  | .xori g d a i => some (.a (packA g.val 35 d.val a.val i.val))
  | .slli g d a i => some (.a (packA g.val 36 d.val a.val i.val))
  | .srli g d a i => some (.a (packA g.val 37 d.val a.val i.val))
  | .srai g d a i => some (.a (packA g.val 38 d.val a.val i.val))
  | .muli g d a i => some (.a (packA g.val 39 d.val a.val i.val))
  | .limm g d i => some (.a (packA g.val 40 d.val 0 i.val))
  | .lihi g d a i => some (.a (packA g.val 41 d.val a.val i.val))
  | .pcadd g d i => some (.a (packA g.val 42 d.val 0 i.val))
  | .cmpeq g d a b => some (.a (packA g.val 48 d.val a.val (b.val * 16 + 0)))
  | .cmpne g d a b => some (.a (packA g.val 49 d.val a.val (b.val * 16 + 0)))
  | .cmplt g d a b => some (.a (packA g.val 50 d.val a.val (b.val * 16 + 0)))
  | .cmple g d a b => some (.a (packA g.val 51 d.val a.val (b.val * 16 + 0)))
  | .cmpltn g d a b => some (.a (packA g.val 52 d.val a.val (b.val * 16 + 0)))
  | .cmplen g d a b => some (.a (packA g.val 53 d.val a.val (b.val * 16 + 0)))
  | .cmpeqi g d a i => some (.a (packA g.val 54 d.val a.val i.val))
  | .cmplti g d a i => some (.a (packA g.val 55 d.val a.val i.val))
  | .cmpltni g d a i => some (.a (packA g.val 56 d.val a.val i.val))
  | .pand g d a b => some (.a (packA g.val 57 d.val a.val (b.val * 16 + 0)))
  | .por g d a b => some (.a (packA g.val 58 d.val a.val (b.val * 16 + 0)))
  | .pxor g d a b => some (.a (packA g.val 59 d.val a.val (b.val * 16 + 0)))
  | .pandn g d a b => some (.a (packA g.val 60 d.val a.val (b.val * 16 + 0)))
  | .tstbit g d a n => some (.a (packA g.val 61 d.val a.val (n.val * 16 + 0)))
  | .mfs g d n => some (.a (packA g.val 64 d.val 0 n.val))
  | .mts g a n => some (.a (packA g.val 65 0 a.val n.val))
  | .shw g k a n => some (.a (packA g.val 66 k.val a.val (n.val * 16 + 0)))
  | .agw g k a n => some (.a (packA g.val 69 k.val a.val (n.val * 16 + 0)))
  | .xpw g k a n => some (.a (packA g.val 70 k.val a.val (n.val * 16 + 0)))
  | .btmovToBt g k a => some (.a (packA g.val 67 k.val a.val (0 * 16 + 0)))
  | .btmovFromBt g d k => some (.a (packA g.val 67 d.val k.val (0 * 16 + 1)))
  | .btset g k i => some (.a (packA g.val 68 k.val 0 i.val))
  | .chkerr g d c => some (.a (packA g.val 71 d.val 0 (0 * 16 + c.val)))
  | .cvtaOff g d a => some (.a (packA g.val 73 d.val a.val (0 * 16 + 0)))
  | .cvtaOwn g d a => some (.a (packA g.val 73 d.val a.val (0 * 16 + 1)))
  | .cvtaCl g d a b => some (.a (packA g.val 73 d.val a.val (b.val * 16 + 2)))
  | .isap g d a k => some (.a (packA g.val 74 d.val a.val (0 * 16 + k.val)))
  | .rdtime g d => some (.a (packA g.val 76 d.val 0 (0 * 16 + 0)))
  | .rdwin g d => some (.a (packA g.val 78 d.val 0 (0 * 16 + 0)))
  | .rdpw g d a s k => some (.a (packA g.val 75 d.val a.val ((s.val * 8 + k.val) * 16)))
  | .ecnt g d e => some (.a (packA g.val 77 d.val 0 (e.val * 16)))
  | .tlbinvPage g a s => some (.a (packA g.val 80 0 a.val s.val))
  | .tlbinvAll g s => some (.a (packA g.val 80 0 0 (8 + s.val)))
  | .cinvWbinv g => some (.a (packA g.val 81 0 0 (0 * 16 + 0)))
  | .cinvInv g => some (.a (packA g.val 81 0 0 (0 * 16 + 1)))
  | .cinvWbpage g a => some (.a (packA g.val 81 0 a.val (0 * 16 + 2)))
  | .ctxsave g a => some (.a (packA g.val 82 0 a.val (0 * 16 + 0)))
  | .ctxload g a => some (.a (packA g.val 83 0 a.val (0 * 16 + 0)))
  | .pswap g a b => some (.a (packA g.val 84 0 a.val (b.val * 16 + 0)))
  | .quarantine g a => some (.a (packA g.val 85 0 a.val (0 * 16 + 0)))
  | .svc g n => some (.a (packA g.val 86 0 0 n.val))
  | .hackset g a v => some (.a (packA g.val 87 0 a.val (0 * 16 + v.val)))
  | .dirtyclr g a b => some (.a (packA g.val 88 0 a.val (b.val * 16 + 0)))
  | .nop => some (.a 0)
  | .br g disp => some (.x (packX g.val 1 0 disp.val))
  | .bri g a => some (.x (packX g.val 2 a.val 0))
  | .call g disp => some (.x (packX g.val 3 0 disp.val))
  | .calli g a => some (.x (packX g.val 4 a.val 0))
  | .yield g => some (.x (packX g.val 7 0 0))
  | .suspend g => some (.x (packX g.val 8 0 0))
  | .exitOp g => some (.x (packX g.val 10 0 0))
  | .trapOp g disp => some (.x (packX g.val 11 0 disp.val))
  | .rftResume g => some (.x (packX g.val 13 0 0))
  | .idle g => some (.x (packX g.val 14 0 0))
  | .rftYield g => some (.x (packX g.val 13 0 0))
  | .rftSuspend g => some (.x (packX g.val 13 0 0))
  | .rftFault g => some (.x (packX g.val 13 0 0))
  | .rftHold g => some (.x (packX g.val 13 0 0))
  | .ret g k => some (.x (packX g.val 5 k.val 0))
  | .loopOp g n k len => some (.x (packX g.val 6 n.val (k.val * 1073741824 + len.val)))
  | .fork g a disp => some (.x (packX g.val 9 a.val disp.val))
  | .waitMem g a b => some (.x (packX g.val 12 a.val b.val))
  | .waitEng g mask => some (.x (packX g.val 12 0 (1073741824 + mask.val)))
  | .tree shape t1 t2 t3 t4 l1 l2 l3 l4 l5 => some (.x (packTree shape.val t1.val t2.val t3.val t4.val l1.val l2.val l3.val l4.val l5.val))
  | .ldB g d b disp => some (.l (packL g.val 1 d.val b.val disp.val))
  | .ldH g d b disp => some (.l (packL g.val 2 d.val b.val disp.val))
  | .ldW g d b disp => some (.l (packL g.val 3 d.val b.val disp.val))
  | .ldD g d b disp => some (.l (packL g.val 4 d.val b.val disp.val))
  | .ldnB g d b disp => some (.l (packL g.val 5 d.val b.val disp.val))
  | .ldnH g d b disp => some (.l (packL g.val 6 d.val b.val disp.val))
  | .ldnW g d b disp => some (.l (packL g.val 7 d.val b.val disp.val))
  | .ldtag g d b disp => some (.l (packL g.val 8 d.val b.val disp.val))
  | .stB g d b disp => some (.l (packL g.val 9 d.val b.val disp.val))
  | .stH g d b disp => some (.l (packL g.val 10 d.val b.val disp.val))
  | .stW g d b disp => some (.l (packL g.val 11 d.val b.val disp.val))
  | .stD g d b disp => some (.l (packL g.val 12 d.val b.val disp.val))
  | .sttag g d b disp => some (.l (packL g.val 13 d.val b.val disp.val))
  | .aadd g d b disp => some (.l (packL g.val 32 d.val b.val disp.val))
  | .aand g d b disp => some (.l (packL g.val 33 d.val b.val disp.val))
  | .aor g d b disp => some (.l (packL g.val 34 d.val b.val disp.val))
  | .axor g d b disp => some (.l (packL g.val 35 d.val b.val disp.val))
  | .amin g d b disp => some (.l (packL g.val 36 d.val b.val disp.val))
  | .amax g d b disp => some (.l (packL g.val 37 d.val b.val disp.val))
  | .aminn g d b disp => some (.l (packL g.val 38 d.val b.val disp.val))
  | .amaxn g d b disp => some (.l (packL g.val 39 d.val b.val disp.val))
  | .axchg g d b disp => some (.l (packL g.val 40 d.val b.val disp.val))
  | .acas g d b disp => some (.l (packL g.val 41 d.val b.val disp.val))
  | .afadd g d b disp => some (.l (packL g.val 42 d.val b.val disp.val))
  | .barinit g d b disp => some (.l (packL g.val 52 d.val b.val disp.val))
  | .bararr g d b disp => some (.l (packL g.val 53 d.val b.val disp.val))
  | .barwait g d b disp => some (.l (packL g.val 54 d.val b.val disp.val))
  | .ttdef g d b disp => some (.l (packL g.val 60 d.val b.val disp.val))
  | .ttstat g d b disp => some (.l (packL g.val 63 d.val b.val disp.val))
  | .ldv g m b disp => some (.l (packL g.val 16 (packLine m) b.val disp.val))
  | .stv g m b disp => some (.l (packL g.val 17 (packLine m) b.val disp.val))
  | .ldvs g m b st => some (.l (packL g.val 18 (packLine m) b.val st.val))
  | .stvs g m b st => some (.l (packL g.val 19 (packLine m) b.val st.val))
  | .ldg g m b ix => some (.l (packL g.val 20 (packLine m) b.val (packLine ix)))
  | .stg g m b ix => some (.l (packL g.val 21 (packLine m) b.val (packLine ix)))
  | .ldx g m b k => some (.l (packL g.val 22 (packLine m) b.val k.val))
  | .fenceOp g sc => some (.l (packL g.val 48 sc.val 0 0))
  | .promote g sc b disp => some (.l (packL g.val 49 sc.val b.val disp.val))
  | .prefetch g l2 b disp => some (.l (packL g.val 50 l2.val b.val disp.val))
  | .cflushWb g b disp => some (.l (packL g.val 51 0 b.val disp.val))
  | .cflushInv g b disp => some (.l (packL g.val 51 1 b.val disp.val))
  | .cflushMem g b disp => some (.l (packL g.val 51 2 b.val disp.val))
  | .qpush g q b => some (.l (packL g.val 55 0 b.val q.val))
  | .qpop g d q b => some (.l (packL g.val 56 d.val b.val q.val))
  | .qtry g d q b => some (.l (packL g.val 57 d.val b.val q.val))
  | .rsend g d k b => some (.l (packL g.val 58 d.val b.val k.val))
  | .rrecv g d k b => some (.l (packL g.val 59 d.val b.val k.val))
  | .ttsetReady g b disp => some (.l (packL g.val 61 2 b.val disp.val))
  | .ttsetEmpty g b disp => some (.l (packL g.val 61 0 b.val disp.val))
  | .ttrel g b disp => some (.l (packL g.val 62 0 b.val disp.val))
  | .txbegin g k sc => some (.l (packL g.val 64 (sc.val * 8 + k.val) 0 0))
  | .txend g => some (.l (packL g.val 65 0 0 0))
  | .txabort g c => some (.l (packL g.val 66 c.val 0 0))
  | .txstat g d => some (.l (packL g.val 67 d.val 0 0))
  | .fadd g d a b => some (.v (packV g.val 1 (packVOp d) (packVOp a) (packVOp b) 0))
  | .fsub g d a b => some (.v (packV g.val 2 (packVOp d) (packVOp a) (packVOp b) 0))
  | .fmul g d a b => some (.v (packV g.val 3 (packVOp d) (packVOp a) (packVOp b) 0))
  | .ffma g d a b => some (.v (packV g.val 4 (packVOp d) (packVOp a) (packVOp b) 0))
  | .ffms g d a b => some (.v (packV g.val 5 (packVOp d) (packVOp a) (packVOp b) 0))
  | .fmax g d a b => some (.v (packV g.val 6 (packVOp d) (packVOp a) (packVOp b) 0))
  | .fmin g d a b => some (.v (packV g.val 7 (packVOp d) (packVOp a) (packVOp b) 0))
  | .fabs g d a => some (.v (packV g.val 8 (packVOp d) (packVOp a) 0 0))
  | .fneg g d a => some (.v (packV g.val 9 (packVOp d) (packVOp a) 0 0))
  | .fcpys g d a b => some (.v (packV g.val 10 (packVOp d) (packVOp a) (packVOp b) 0))
  | .frcp g d a => some (.v (packV g.val 11 (packVOp d) (packVOp a) 0 0))
  | .frsq g d a => some (.v (packV g.val 12 (packVOp d) (packVOp a) 0 0))
  | .fexp2 g d a => some (.v (packV g.val 13 (packVOp d) (packVOp a) 0 0))
  | .flog2 g d a => some (.v (packV g.val 14 (packVOp d) (packVOp a) 0 0))
  | .frint g d a s => some (.v (packV g.val 15 (packVOp d) (packVOp a) 0 s.val))
  | .fcmpeq g d a b => some (.v (packV g.val 16 (packVOp d) (packVOp a) (packVOp b) 0))
  | .fcmplt g d a b => some (.v (packV g.val 17 (packVOp d) (packVOp a) (packVOp b) 0))
  | .fcmple g d a b => some (.v (packV g.val 18 (packVOp d) (packVOp a) (packVOp b) 0))
  | .fcmpun g d a b => some (.v (packV g.val 19 (packVOp d) (packVOp a) (packVOp b) 0))
  | .hadd g d a b s => some (.v (packV g.val 24 (packVOp d) (packVOp a) (packVOp b) s.val))
  | .hmul g d a b s => some (.v (packV g.val 25 (packVOp d) (packVOp a) (packVOp b) s.val))
  | .hfma g d a b s => some (.v (packV g.val 26 (packVOp d) (packVOp a) (packVOp b) s.val))
  | .hmax g d a b s => some (.v (packV g.val 27 (packVOp d) (packVOp a) (packVOp b) s.val))
  | .iadd g d a b s => some (.v (packV g.val 32 (packVOp d) (packVOp a) (packVOp b) s.val))
  | .isub g d a b s => some (.v (packV g.val 33 (packVOp d) (packVOp a) (packVOp b) s.val))
  | .imul g d a b s => some (.v (packV g.val 34 (packVOp d) (packVOp a) (packVOp b) s.val))
  | .imulh g d a b s => some (.v (packV g.val 35 (packVOp d) (packVOp a) (packVOp b) s.val))
  | .imad g d a b s => some (.v (packV g.val 36 (packVOp d) (packVOp a) (packVOp b) s.val))
  | .imax g d a b => some (.v (packV g.val 37 (packVOp d) (packVOp a) (packVOp b) 0))
  | .imin g d a b => some (.v (packV g.val 38 (packVOp d) (packVOp a) (packVOp b) 0))
  | .imaxn g d a b => some (.v (packV g.val 39 (packVOp d) (packVOp a) (packVOp b) 0))
  | .iminn g d a b => some (.v (packV g.val 40 (packVOp d) (packVOp a) (packVOp b) 0))
  | .iand g d a b => some (.v (packV g.val 41 (packVOp d) (packVOp a) (packVOp b) 0))
  | .ior g d a b => some (.v (packV g.val 42 (packVOp d) (packVOp a) (packVOp b) 0))
  | .ixor g d a b => some (.v (packV g.val 43 (packVOp d) (packVOp a) (packVOp b) 0))
  | .ishl g d a b s => some (.v (packV g.val 44 (packVOp d) (packVOp a) (packVOp b) s.val))
  | .ishr g d a b => some (.v (packV g.val 45 (packVOp d) (packVOp a) (packVOp b) 0))
  | .isra g d a b => some (.v (packV g.val 46 (packVOp d) (packVOp a) (packVOp b) 0))
  | .iabs g d a s => some (.v (packV g.val 47 (packVOp d) (packVOp a) 0 s.val))
  | .icmpeq g d a b => some (.v (packV g.val 48 (packVOp d) (packVOp a) (packVOp b) 0))
  | .icmplt g d a b => some (.v (packV g.val 49 (packVOp d) (packVOp a) (packVOp b) 0))
  | .icmpltn g d a b => some (.v (packV g.val 50 (packVOp d) (packVOp a) (packVOp b) 0))
  | .cvt g d a dst src s => some (.v (packV g.val 56 (packVOp d) (packVOp a) (dst.val * 16 + src.val) s.val))
  | .qnt g d a b => some (.v (packV g.val 57 (packVOp d) (packVOp a) (packVOp b) 0))
  | .dqnt g d a b => some (.v (packV g.val 58 (packVOp d) (packVOp a) (packVOp b) 0))
  | .bscale g d a b s => some (.v (packV g.val 59 (packVOp d) (packVOp a) (packVOp b) s.val))
  | .plpack g d a f => some (.v (packV g.val 60 (packVOp d) (packVOp a) (2560 + f.val) 0))
  | .plunpk g d a f => some (.v (packV g.val 61 (packVOp d) (packVOp a) (2560 + f.val) 0))
  | .vmov g d a => some (.v (packV g.val 64 (packVOp d) (packVOp a) 0 0))
  | .vbcast g d a b => some (.v (packV g.val 65 (packVOp d) (packVOp a) (packVOp b) 0))
  | .vshuf g d a b => some (.v (packV g.val 66 (packVOp d) (packVOp a) (packVOp b) 0))
  | .vrot g d a b => some (.v (packV g.val 67 (packVOp d) (packVOp a) (packVOp b) 0))
  | .vsel g d a b => some (.v (packV g.val 68 (packVOp d) (packVOp a) (packVOp b) 0))
  | .vred g d a f => some (.v (packV g.val 69 (packVOp d) (packVOp a) (2560 + f.val) 0))
  | .vscan g d a f s => some (.v (packV g.val 70 (packVOp d) (packVOp a) (2560 + f.val) s.val))
  | .viota g d a b => some (.v (packV g.val 71 (packVOp d) (packVOp a) (packVOp b) 0))
  | .vmask g d a b s => some (.v (packV g.val 72 (packVOp d) (packVOp a) (packVOp b) s.val))
  | .vpopc g d a => some (.v (packV g.val 73 (packVOp d) (packVOp a) 0 0))
  | .vext g d a b s => some (.v (packV g.val 74 (packVOp d) (packVOp a) (packVOp b) s.val))
  | .mmr g m a b s => some (.v (packV g.val 80 (m.val * 32) (packVOp a) (packVOp b) s.val))
  | .mzero g m => some (.v (packV g.val 81 (m.val * 32) 0 0 0))
  | .mgate g m => some (.v (packV g.val 82 (m.val * 32) 0 0 0))
  | .mdrowsy g m => some (.v (packV g.val 83 (m.val * 32) 0 0 0))
  | .mwake g m => some (.v (packV g.val 84 (m.val * 32) 0 0 0))
  | .minval g m => some (.v (packV g.val 85 (m.val * 32) 0 0 0))
  | .mgemm g sa sb sc sw p r acc => some (.e (packE g.val 0 1 sa.val sb.val sc.val sw.val p.val r.val acc.val))
  | .mgemms g sa sb sc sw p r acc => some (.e (packE g.val 0 2 sa.val sb.val sc.val sw.val p.val r.val acc.val))
  | .mconv g sa sb sc sw p r acc => some (.e (packE g.val 0 3 sa.val sb.val sc.val sw.val p.val r.val acc.val))
  | .mattn g sa sb sc sw p r v fin => some (.e (packE g.val 0 4 sa.val sb.val sc.val sw.val p.val r.val (v.val * 2 + fin.val)))
  | .scout g sa sb sw p r => some (.e (packE g.val 1 1 sa.val sb.val 0 sw.val p.val r.val 0))
  | .swin g sw p r => some (.e (packE g.val 1 2 0 0 0 sw.val p.val r.val 0))
  | .smask g sw p r => some (.e (packE g.val 1 3 0 0 0 sw.val p.val r.val 0))
  | .sscore g sa sb sc sw p r => some (.e (packE g.val 1 4 sa.val sb.val sc.val sw.val p.val r.val 0))
  | .ccopy g sa sc sw p r => some (.e (packE g.val 2 1 sa.val 0 sc.val sw.val p.val r.val 0))
  | .cgather g sa sb sc sw p r => some (.e (packE g.val 2 2 sa.val sb.val sc.val sw.val p.val r.val 0))
  | .cscatter g sa sb sc sw p r => some (.e (packE g.val 2 3 sa.val sb.val sc.val sw.val p.val r.val 0))
  | .cfill g sc sw p r => some (.e (packE g.val 2 4 0 0 sc.val sw.val p.val r.val 0))
  | .ctrans g sa sc sw p r => some (.e (packE g.val 2 5 sa.val 0 sc.val sw.val p.val r.val 0))
  | .cplane g sa sc sw p r => some (.e (packE g.val 2 6 sa.val 0 sc.val sw.val p.val r.val 0))
  | .cflat g sa sc sw p r => some (.e (packE g.val 2 7 sa.val 0 sc.val sw.val p.val r.val 0))
  | .cpagein g sw p r => some (.e (packE g.val 2 8 0 0 0 sw.val p.val r.val 0))
  | .cmigrate g sw p r => some (.e (packE g.val 2 9 0 0 0 sw.val p.val r.val 0))
  | .ctags g sw p r => some (.e (packE g.val 2 10 0 0 0 sw.val p.val r.val 0))
  | .vsort g sa sb sc sw p r => some (.e (packE g.val 3 1 sa.val sb.val sc.val sw.val p.val r.val 0))
  | .vsoftmax g sa sb sc sw p r => some (.e (packE g.val 3 2 sa.val sb.val sc.val sw.val p.val r.val 0))
  | .vnorm g sa sb sc sw p r => some (.e (packE g.val 3 3 sa.val sb.val sc.val sw.val p.val r.val 0))
  | .vreduce g sa sb sc sw p r => some (.e (packE g.val 3 4 sa.val sb.val sc.val sw.val p.val r.val 0))
  | .allred g sa sc sw p r => some (.e (packE g.val 4 1 sa.val 0 sc.val sw.val p.val r.val 0))
  | .allgath g sa sc sw p r => some (.e (packE g.val 4 2 sa.val 0 sc.val sw.val p.val r.val 0))
  | .redscat g sa sc sw p r => some (.e (packE g.val 4 3 sa.val 0 sc.val sw.val p.val r.val 0))
  | .xbcast g sa sc sw p r => some (.e (packE g.val 4 4 sa.val 0 sc.val sw.val p.val r.val 0))
  | .alltoall g sa sc sw p r => some (.e (packE g.val 4 5 sa.val 0 sc.val sw.val p.val r.val 0))
  | .xsend g sa sw p r => some (.e (packE g.val 4 6 sa.val 0 0 sw.val p.val r.val 0))
  | .xrecv g sc sw p r => some (.e (packE g.val 4 7 0 0 sc.val sw.val p.val r.val 0))
  | .logmark g sw p code chk => some (.e (packE g.val 5 1 0 0 0 sw.val p.val 0 (chk.val * 256 + code.val)))
  | .logflush g sw sc => some (.e (packE g.val 5 2 0 0 0 sw.val 0 0 sc.val))
  | .qfence g sw mask => some (.e (packE g.val 6 1 0 0 0 sw.val 0 0 mask.val))
  | .ecancel g sw mask => some (.e (packE g.val 6 3 0 0 0 sw.val 0 0 mask.val))
  | .etrel g sw t e => some (.e (packE g.val 6 2 0 0 0 sw.val 0 0 (e.val * 64 + t.val)))
  | .esignal g sw p mask sc => some (.e (packE g.val 6 4 0 0 0 sw.val p.val 0 (sc.val * 32 + mask.val)))
  | .esignalAdd g sw p mask sc => some (.e (packE g.val 6 4 0 0 0 sw.val p.val 0 (256 + sc.val * 32 + mask.val)))
  | .limmPair g d i => some (.pair (packA g.val 40 d.val 0 (i.val % 1024)) (i.val / 1024))
  | .lihiPair g d a i => some (.pair (packA g.val 41 d.val a.val (i.val % 1024)) (i.val / 1024))
  | .segset g i => some (.pair (packA g.val 72 0 0 (i.val % 1024)) (i.val / 1024))
  | .resultLanding => none
  | .interlockedResultArrival _ => none
  | .windowClose => none
  | .forcedQuiescentPoint => none
  | .loopEndStep => none
  | .watchdog => none
  | .timer => none
  | .waitConversion => none
  | .waitSatisfied => none
  | .commandStart _ => none
  | .commandComplete _ => none
  | .engineStop _ => none
  | .etrelAtHead _ => none
  | .qfenceRelease _ => none
  | .esignalPerform _ => none
  | .copyChunk _ => none
  | .cmigratePage => none
  | .phaseFetch _ => none
  | .phaseFetchDone _ _ => none
  | .matrixTileStep _ => none
  | .matrixRetirement => none
  | .mattnKeyTileVisit => none
  | .scoutSweep1Tile _ => none
  | .scoutSweep2 _ => none
  | .sscoreTile _ => none
  | .maskRow => none
  | .vsortRunSegment _ => none
  | .rowOperation _ => none
  | .exchangeStep _ => none
  | .startMsg _ => none
  | .dataMsg _ => none
  | .ackMsg _ => none
  | .pausedMsg _ => none
  | .exchangeTimeout _ => none
  | .linkRetryRequest _ _ => none
  | .linkAcknowledgement _ _ => none
  | .linkUe _ => none
  | .linkTrainingStart _ => none
  | .linkTrainingComplete _ => none
  | .linkTrainingTimeout _ => none
  | .faultReplyPoll _ => none
  | .tfringPostRetry _ => none
  | .tlbShootdownComplete => none
  | .writeBlockRetry => none
  | .tierNotify _ _ => none
  | .dirtyRingResume => none
  | .configAreaWalkRetry _ _ => none
  | .dispatchDecision => none
  | .blockedReevaluation _ _ => none
  | .suspendedPoll _ _ => none
  | .remontoireRefill _ _ _ => none
  | .packetLine0Poll _ _ => none
  | .packetNop _ _ => none
  | .launch _ _ => none
  | .launchComplete _ _ => none
  | .waitv _ _ => none
  | .waitvSatisfied _ _ => none
  | .signalPacket _ _ => none
  | .ibcall _ _ => none
  | .ibjump _ _ => none
  | .ibSpinWatchdog _ _ => none
  | .packetFence _ _ => none
  | .capstart _ _ => none
  | .capstop _ _ => none
  | .zeroPacket _ _ => none
  | .pswitch _ _ => none
  | .pswitchActivate _ _ => none
  | .ckpt _ _ => none
  | .db _ _ _ => none
  | .dbgdb _ _ => none
  | .hreq _ _ _ => none
  | .cfgreq _ => none
  | .deviceRegisterWrite _ _ => none
  | .partitionConfiguration => none
  | .pswapScratchpadRestore => none
  | .hostCxlMemRead _ => none
  | .hostCxlMemWrite _ _ => none
  | .hostSnoop _ _ => none
  | .fwEventWake => none
  | .svcresWrite _ => none
  | .hackmWrite _ _ => none
  | .feliWrite => none
  | .logRingWrite _ _ => none
  | .logtailWrite _ => none
  | .trootWrite _ => none
  | .traceSample => none
  | .txAbort _ => none
  | .dbgStop _ => none
  | .dbgRstep _ => none
  | .dbgRunback _ => none
  | .dbgReplay _ => none
  | .dbgRead _ => none
  | .dbgWrite _ => none
  | .dbgResume _ => none
  | .ceRate _ _ => none
  | .thermalTrip _ => none
  | .powerGoodBoot => none
  | .deviceReady => none
  | .mctpControlMessage _ _ => none
  | .pldmMonitoring _ _ => none
  | .pldmFirmwareUpdate _ _ => none
  | .attestationRequest _ => none
  | .ueRegister => none
  | .granuleZeroingComplete _ => none
  | .drowsyWakeComplete _ => none
  | .flitCrcError _ _ => none
  | .thermalTripResume _ => none
  | .mainPowerRemoved => none
  | .deviceReset => none

/-- The instruction the decoder reads from an instruction of the opcode table whose bits are `w`: 32 bits are an A
syllable, the only rows to which the table gives bits. -/
def decodeTableWord (nbits w : Nat) : Option Instr :=
  if nbits = 32 then (decodeA w).toOption else none

end Sys2Proof
end

