-- ==== Sys2Proof/Machine/Bits.lean ====
section
/-! DEFINITION. Helpers on bits, bytes, sparse maps and CRC-32C that the meanings share. -/

namespace Sys2Proof.Machine

/-! Sparse maps. -/

/-- The value at key `k`, `d` when the key is not listed. -/
def sget {α : Type} : SMap α → α → Nat → α
  | [], d, _ => d
  | (k', v) :: r, d, k => if k' = k then v else sget r d k

/-- Sets key `k`; writing the value an unlisted key reads as removes the entry. -/
def sset {α : Type} [DecidableEq α] : SMap α → α → Nat → α → SMap α
  | [], d, k, v => if v = d then [] else [(k, v)]
  | (k', v') :: r, d, k, v =>
    if k < k' then (if v = d then (k', v') :: r else (k, v) :: (k', v') :: r)
    else if k = k' then (if v = d then r else (k, v) :: r)
    else (k', v') :: sset r d k v

/-- The keys rise strictly from above `lo` and no entry holds `d`. -/
def sortedFrom {α : Type} [DecidableEq α] (d : α) : Nat → SMap α → Bool
  | _, [] => true
  | lo, (k, v) :: r => decide (lo ≤ k) && decide (v ≠ d) && sortedFrom d (k + 1) r

/-- The canonical form of a sparse map. -/
def swf {α : Type} [DecidableEq α] (d : α) (m : SMap α) : Bool := sortedFrom d 0 m

/-- A map in canonical form as it is; any other with one entry for each key, the first that it lists. -/
def canonical {α : Type} [DecidableEq α] (d : α) (m : SMap α) : SMap α :=
  if swf d m then m else m.foldr (fun e a => sset a d e.1 e.2) []

/-- The entry at key `k`, if listed. -/
def sfind {α : Type} : SMap α → Nat → Option α
  | [], _ => none
  | (k', v) :: r, k => if k' = k then some v else sfind r k

/-- Lists key `k` with `v`. -/
def sput {α : Type} : SMap α → Nat → α → SMap α
  | [], k, v => [(k, v)]
  | (k', v') :: r, k, v =>
    if k < k' then (k, v) :: (k', v') :: r else if k = k' then (k, v) :: r else (k', v') :: sput r k v

/-- Removes key `k`. -/
def sdel {α : Type} (m : SMap α) (k : Nat) : SMap α := m.filter fun e => e.1 ≠ k

/-! Bits and bytes. -/

/-- Bits [lo + n - 1 : lo] of a word, as a number. -/
def bits (w : Word) (lo n : Nat) : Nat := w.toNat / 2 ^ lo % 2 ^ n

/-- Bit `k` of a word. -/
def bitAt (w : Word) (k : Nat) : Bool := w.toNat / 2 ^ k % 2 == 1

/-- A word with bits [lo + n - 1 : lo] replaced by `v`. -/
def setBits (w : Word) (lo n v : Nat) : Word :=
  BitVec.ofNat 64 (w.toNat % 2 ^ lo + v % 2 ^ n * 2 ^ lo + w.toNat / 2 ^ (lo + n) * 2 ^ (lo + n))

def boolBit (b : Bool) : Nat := if b then 1 else 0

/-- `n` little-endian bytes of a number (00 R9). -/
def toBytes : Nat → Nat → List Byte
  | 0, _ => []
  | n + 1, v => BitVec.ofNat 8 v :: toBytes n (v / 256)

/-- The number of little-endian bytes (00 R9). -/
def ofBytes : List Byte → Nat
  | [] => 0
  | b :: r => b.toNat + 256 * ofBytes r

/-- The first `n` bytes of a list; bytes past its end are 0. -/
def takeBytes : Nat → List Byte → List Byte
  | 0, _ => []
  | n + 1, [] => 0 :: takeBytes n []
  | n + 1, b :: r => b :: takeBytes n r

/-- `n` bytes of a list from offset `o`; bytes past its end are 0. -/
def slice (bs : List Byte) (o n : Nat) : List Byte := takeBytes n (bs.drop o)

/-- The little-endian number in bytes `o` to `o + n - 1`. -/
def field (bs : List Byte) (o n : Nat) : Nat := ofBytes (slice bs o n)
/-- The word at byte `o` of a frame or record. -/
def fw (b : List Byte) (o : Nat) : Word := BitVec.ofNat 64 (field b o 8)

/-- Bytes `o` to `o + n - 1` are all zero. -/
def zeroBytes (bs : List Byte) (o n : Nat) : Bool := (slice bs o n).all (· == 0)

/-- A list of bytes with those from offset `o` replaced. -/
def splice (bs : List Byte) (o : Nat) (v : List Byte) : List Byte := bs.take o ++ v ++ bs.drop (o + v.length)

/-- A word read as two's complement. -/
def sint (n v : Nat) : Int := if v % 2 ^ n < 2 ^ (n - 1) then ((v % 2 ^ n : Nat) : Int) else ((v % 2 ^ n : Nat) : Int) - (2 ^ n : Nat)

/-- The low `n` bits of an integer. -/
def wrap (n : Nat) (i : Int) : Nat := (i % ((2 ^ n : Nat) : Int)).toNat

/-- sext(v, 64) of an `n`-bit value (00 R11). -/
def sext64 (n v : Nat) : Word := BitVec.ofInt 64 (sint n v)

/-- sext(v, 32) of an `n`-bit value (00 R11). -/
def sext32 (n v : Nat) : W32 := BitVec.ofInt 32 (sint n v)

/-- `n` divided by `d`, rounded up. -/
def cdiv (n d : Nat) : Nat := (n + d - 1) / d

/-- Bits of a number: 0 for 0, else its highest set bit + 1. -/
def bitLen (n : Nat) : Nat := if n = 0 then 0 else Nat.log2 n + 1

/-- x clamped to [lo, hi] (00 R11 sat). -/
def clampInt (x lo hi : Int) : Int := if x < lo then lo else if hi < x then hi else x

/-- Stable insertion by a key. -/
def insertOn {α : Type} (key : α → Nat) (a : α) : List α → List α
  | [] => [a]
  | b :: r => if key a < key b then a :: b :: r else b :: insertOn key a r

/-- A list in rising order of a key; elements of equal key keep their order. -/
def sortOn {α : Type} (key : α → Nat) (l : List α) : List α := l.foldl (fun acc a => insertOn key a acc) []

/-- A list brought to `n` elements with `d`. -/
def padTo {α : Type} (n : Nat) (d : α) (l : List α) : List α := (l ++ List.replicate (n - l.length) d).take n

/-- Bytes padded with zeros to a multiple of 16. -/
def pad16 (l : List Byte) : List Byte := l ++ List.replicate ((16 - l.length % 16) % 16) 0

/-! CRC-32C (log 10): the Castagnoli polynomial, reflected, all-ones initial value and final complement. -/

def crcBit (c : Nat) : Nat := if c % 2 = 1 then Nat.xor (c / 2) 0x82F63B78 else c / 2

def crcByte (c : Nat) (b : Byte) : Nat :=
  crcBit (crcBit (crcBit (crcBit (crcBit (crcBit (crcBit (crcBit (Nat.xor c b.toNat))))))))

/-- The running CRC over more bytes. -/
def crcUpdate (c : Nat) (bs : List Byte) : Nat := bs.foldl crcByte c

/-- CRC-32C of bytes (01 R16). -/
def crc32c (bs : List Byte) : Nat := Nat.xor (crcUpdate 0xFFFFFFFF bs) 0xFFFFFFFF

/-- One bit of CRC-32 (15 R448): the polynomial 0x04C1_1DB7, reflected. -/
def crc32Bit (c : Nat) : Nat := if c % 2 = 1 then Nat.xor (c / 2) 0xEDB88320 else c / 2

def crc32Byte (c : Nat) (b : Byte) : Nat :=
  crc32Bit (crc32Bit (crc32Bit (crc32Bit (crc32Bit (crc32Bit (crc32Bit (crc32Bit (Nat.xor c b.toNat))))))))

/-- CRC-32 of bytes as in IEEE 802.3. -/
def crc32 (bs : List Byte) : Nat := Nat.xor (bs.foldl crc32Byte 0xFFFFFFFF) 0xFFFFFFFF

/-- The CRC of more bytes after a finished CRC: how a running CRC is kept in a register (05 R148 SEGRUN). -/
def crcMore (crc : Nat) (bs : List Byte) : Nat := Nat.xor (crcUpdate (Nat.xor crc 0xFFFFFFFF) bs) 0xFFFFFFFF

end Sys2Proof.Machine
end

