-- ==== Sys2Proof/Config.lean ====
section
/-! DEFINITION. What one implementation fixes and the values the specification leaves open. Each is opaque: nothing in
Lean can evaluate it, so a statement about it holds for every value. State.free counts the uses of the free values. -/

namespace Sys2Proof.Config

/-- A value the specification leaves open, one per use (log 6). -/
opaque freeWord : Nat → Word

/-- A number the specification leaves open, one per use: clocks of a stall, counts of an unstated wait (log 6). -/
opaque freeNat : Nat → Nat

/-- Bytes the specification leaves open: the bytes of a phase in its tile, signatures (log 6). -/
opaque freeByte : Nat → Nat → Byte

/-- DEVID[47:0], set by fuses (15 R446). -/
opaque deviceId : BitVec 48

/-- Whether an Ed25519 signature over some bytes verifies with a public key: key, bytes, signature (00 R3, 15 R452; log 127). -/
opaque ed25519Verifies : List Byte → List Byte → List Byte → Bool

/-- Whether an ML-DSA-65 signature over some bytes verifies with a public key (00 R3, 15 R452; log 127). -/
opaque mldsaVerifies : List Byte → List Byte → List Byte → Bool

/-- SHA-384 (15 R452 R453; log 127). -/
opaque sha384 : List Byte → BitVec 384

/-- The digests of the vendor's Ed25519 key (0) and ML-DSA-65 key (1) in the fuses (15 R452). -/
opaque fuseDigest : Nat → BitVec 384

/-- The security version counter in the fuses (15 R452). -/
opaque fuseCounter : W32

/-- The signed firmware image that stands in slot `b` of die `d`'s flash when nothing has been written there (15 R451). -/
opaque factoryImage : Nat → Nat → List Byte

/-- The version that a firmware image carries; where in the image is not stated (15 R446). -/
opaque imageVersion : List Byte → W32

/-- The public keys of the package's identity, Ed25519 (0) and ML-DSA-65 (1), created at manufacture (15 R453). -/
opaque identityKey : Nat → List Byte

/-- The vendor's certificates for the identity keys (15 R453). -/
opaque identityCertificate : Nat → List Byte

/-- The signature of the identity's Ed25519 key (0) or ML-DSA-65 key (1) over some bytes (15 R453). -/
opaque identitySign : Nat → List Byte → List Byte

/-- Die `d` has trained its bridge edges by time `t` (15 R451). -/
opaque bridgeTrained : Nat → Nat → Bool

/-- The payload of the `i`-th flit of a message, one message per use: its layout in flits is not stated (15 R448; log 74). -/
opaque flitPayload : Nat → Nat → List Byte

/-- The answer of the firmware to an MCTP or PLDM message, one per use: its formats lie outside the manual (15 R450). -/
opaque managementReply : Nat → List Byte → List Byte

/-- Die `d` has spare site `s` of cluster `c`, fixed by fuses (00 R3: one spare site in each of clusters 1 to 7). -/
opaque spareSite : Nat → Nat → Fin 9

/-- The package's own Dyset identifier (11 R329). -/
opaque packageId : BitVec 32

/-- Which partition a host's 64-byte configuration request names; its format lies outside the manual (15 R446). -/
opaque requestPart : List Byte → Fin 8

/-- The report that a configuration request asks for: its address in host memory and the nonce (15 R453). -/
opaque requestReport : List Byte → Option (Nat × List Byte)

/-- The tier-monitor entries that a configuration request loads: die, entry and page (04 R125). -/
opaque requestTiers : List Byte → List (Nat × Nat × Word)

end Sys2Proof.Config
end

