-- ==== Sys2Proof/Machine/State.lean ====
section
/-! DEFINITION. The state of the machine as plain data: every piece of state the specification names (INVENTORY.md,
'## State'), and State.reset. The core whose turn it is stands in `core`; the other cores are parked in `others`. -/

namespace Sys2Proof.Machine

/-- The modes of a core (05 R148 MODE). -/
inductive Mode where
  | strand | supervisor | service
  deriving DecidableEq, Repr, Inhabited

/-- The power states of a matrix register (07 R222). -/
inductive Power where
  | on | drowsy | gated
  deriving DecidableEq, Repr, Inhabited

/-- A matrix register: element (i, j) under key 32 i + j, an unlisted element is 0 (02 R61, 07 R217). -/
structure MReg where
  cells : SMap W32
  valid : Bool
  power : Power
  deriving DecidableEq, Repr, Inhabited

/-- A 64-byte shape descriptor, words 0 to 7 (08 R245). -/
structure Shape where
  w : Vector Word 8
  deriving DecidableEq, Repr, Inhabited

/-- The states of a tile (01 R34 R35). -/
inductive TileState where
  | empty | filling | ready | draining
  deriving DecidableEq, Repr, Inhabited

/-- An entry of the tile table (01 R34). -/
structure Tile where
  base : BitVec 21
  size : BitVec 15
  state : TileState
  phase : Bool
  owner : BitVec 3
  readers : BitVec 6
  deriving DecidableEq, Repr, Inhabited

/-- A pending tile change of the open window (06 R214). -/
inductive TileChange where
  | define (t : Fin 64) (v : Tile)
  | setReady (t : Fin 64)
  | release (t : Fin 64)
  deriving DecidableEq, Repr, Inhabited

/-- The names of destinations for the group and same-destination rules (02 R46 R47, 01 R31, 05 R171). -/
inductive Reg where
  | x (r : Fin 64) | y (r : Fin 4) | p (r : Fin 16) | bt (r : Fin 8) | lc (r : Fin 4) | vm (r : Fin 8) | m (r : Fin 16)
  | state (n : Nat) | shadow (k : Fin 4) (n : Fin 8)
  deriving DecidableEq, Repr, Inhabited

/-- What a landing result writes (02 R44); `wake` is the result of MWAKE, whose wake goes on beside it (07 R223). -/
inductive Write where
  | x (r : Fin 64) (v : Word)
  | y (r : Fin 4) (v : Word)
  | p (r : Fin 16) (v : Bool)
  | bt (r : Fin 8) (v : Word)
  | vm (r : Fin 8) (v : W32) (lanes : W32)
  | cells (m : Fin 16) (cs : List (Nat × W32))
  | mreg (m : Fin 16) (v : MReg)
  | power (m : Fin 16) (v : Power)
  | wake (m : Fin 16)
  | state (n : Nat) (v : Word)
  | shadow (k : Fin 4) (n : Fin 8) (v : Word)
  | push (items : List (Word × Nat × Byte)) (scope : Nat)
  | loop (k : Fin 4) (first last : Word) (lact : Word)
  | seg (v : Word)
  deriving DecidableEq, Repr, Inhabited

/-- An event of the first-event log (03 R107 R108): code, slot, lane and bundle. -/
structure LogEvent where
  code : Fin 16
  slot : Fin 8
  lane : Fin 32
  pc : Word
  deriving DecidableEq, Repr, Inhabited

/-- A result in the landing buffer (02 R44 R72): `due` is its landing beat, `none` an interlocked result. -/
structure Result where
  due : Option Nat
  seq : Nat
  slot : Fin 8
  pc : Word
  write : Write
  events : List LogEvent
  deriving DecidableEq, Repr, Inhabited

/-- The strand state registers that a rollback restores (05 R148 R152). -/
structure StrandRegs where
  fela : Word
  feli : Word
  fels : Word
  vctl : Word
  segexp : Word
  segrun : Word
  win : Word
  lstart : Vector Word 4
  lend : Vector Word 4
  lact : Word
  txstate : Word
  deriving DecidableEq, Repr, Inhabited

/-- Everything a rollback restores (05 R152): the boundary state of a quiescent point is one value of this type. -/
structure Regs where
  pc : Word
  x : Vector Word 64
  xv : BitVec 64
  p : BitVec 16
  pv : BitVec 16
  bt : Vector Word 8
  btv : BitVec 8
  lc : Vector W32 4
  vm : Vector W32 8
  m : Vector MReg 16
  shA : Vector Shape 4
  shS : Vector Shape 4
  ag : Vector Word 128
  xp : Vector Word 64
  sr : StrandRegs
  deriving DecidableEq, Repr, Inhabited

/-- A y name: its value and landing beat (02 R64). -/
structure YReg where
  val : Word
  beat : Option Nat
  deriving DecidableEq, Repr, Inhabited

/-- A store held in the window buffer (04 R134): one run of bytes inside one 64-byte block, with its generic address and
its place in memory, the tag or metadata it writes, its size for the limit of 02 R75, whether L1 may hold it, and whether an
atomic of a transaction wrote it (one that fails its comparison holds no bytes). `lead` marks the first run of its access in its
block. -/
structure HStore where
  pc : Word
  slot : Fin 8
  scope : Nat
  size : Nat
  va : Word
  key : Nat
  bytes : List Byte
  tag : Option (BitVec 24)
  mdata : Option (BitVec 25)
  far : Bool
  cached : Bool
  atom : Bool
  lead : Bool
  deriving DecidableEq, Repr, Inhabited

/-- What a window holds until it closes, in program order (04 R134, 06 R203 R208 R209 R212 R213 R214): stores, the loads of the
strand with what they found, the commits of tile changes and commands, the log entries of its inputs and atomics (12 R358
R362 R367), and its trace records (12 R377). -/
inductive Held where
  | load (va : Word) (key : Nat) (bytes : List Byte) (mdata : BitVec 25)
  | tile (c : TileChange)
  | command (seq : Nat)
  | store (h : HStore)
  | txstore (h : HStore)
  | push (q : Nat) (bytes : List Byte) (mdata : List (BitVec 25)) (onChip : Bool)
  | claim (q : Nat) (seq : Nat)
  | send (target : Nat) (k : Fin 4) (bytes : List Byte) (mdata : BitVec 25)
  | receive (k : Fin 4) (sender : Nat)
  | flush (kind : Fin 3) (key : Nat)
  | entry (kind : BitVec 8) (irr : Bool) (pc : Word) (slot : Nat) (body : List Byte)
  | trace (bytes : List Byte)
  deriving DecidableEq, Repr, Inhabited

/-- A byte interval an engine command reads or writes (01 R32). -/
structure Box where
  lo : Nat
  hi : Nat
  wr : Bool
  deriving DecidableEq, Repr, Inhabited

/-- A command in an engine queue (01 R24 R30): the E instruction as issued, what it captured (shapes, bounding boxes, the
tiles its shapes bind, each with whether it writes it) and how far it is: `faulted` holds it after a fault until it is issued again,
`mismatch` and `errors` keep across a stop that it met TAG_MISMATCH (03 R101) and how many errors it met (09 R303, 10 R325). -/
structure Cmd where
  instr : Instr
  seq : Nat
  win : Word
  mode : Mode
  pc : Word
  preg : Word
  shapes : List Shape
  boxes : List Box
  tiles : List (Fin 64 × Bool)
  committed : Bool
  running : Bool
  started : Bool
  resume : Bool
  faulted : Bool
  mismatch : Bool
  errors : Nat
  deriving DecidableEq, Repr

/-- Counts an engine adds to the census (12 R379, 09 R301). -/
structure Counts where
  nan : Nat
  inf : Nat
  sat : Nat
  unf : Nat
  miss : Nat
  deriving DecidableEq, Repr, Inhabited

/-- A 64-byte block as an engine reads it: its generic address, whether it is far, its bytes, tag and poison. -/
structure EBlock where
  va : Word
  far : Bool
  bytes : List Byte
  tag : BitVec 24
  poison : Bool
  deriving DecidableEq, Repr, Inhabited

/-- A phase of a sequencer's double buffer (01 R37, 08 R268 R269): the pair and tile it fills, the unit of work it is for,
and the blocks fetched so far. -/
structure Phase where
  pair : Nat
  tile : Fin 64
  unit : Nat
  done : Bool
  refetched : Bool
  blocks : SMap EBlock
  deriving DecidableEq, Repr, Inhabited

/-- The working state of one engine's running command beside its progress block: its record, phases, census counts,
clocks by class, poison, stop request, accumulators or partials (`data`), the matrix engine's other bank with the tile retired
last (`other`), and row states (`rows`); `mid` says that it is
past its last stop point, `logWait` that its commit waits for room in the log (12 R365), `deferred` a fault that is delivered
once the row state is stored (10 R314), `marks` holds small numbers of its
position that the progress block does not show. -/
structure Work where
  prm : List Byte
  phases : List Phase
  counts : Counts
  clocks : List Nat
  poison : Bool
  mismatch : Bool
  stopReq : Nat
  mid : Bool
  logWait : Bool
  errors : Nat
  data : SMap W32
  other : SMap W32
  rows : SMap Word
  marks : List Nat
  deferred : Option (BitVec 8 × Word)
  deriving DecidableEq, Repr, Inhabited

/-- A resolvable fault waiting for its reply (04 R119, 14 R436): the issue slot it came from, and its place in the
translation-fault ring once posted. -/
structure PendingFault where
  va : Word
  cause : BitVec 8
  kind : BitVec 8
  pc : Word
  uslot : Fin 8
  ring : Option Nat
  deriving DecidableEq, Repr, Inhabited

/-- A DATA message in the staging area: its slot, whether it still has to be sent, and the message (11 R328 R342). -/
structure Staged where
  slot : Nat
  due : Bool
  msg : Message
  deriving DecidableEq, Repr, Inhabited

/-- A consumed DATA message whose chunk is not complete: its chunk, step, payload and block metadata (11 R342). -/
structure Partial where
  chunk : Nat
  step : Nat
  payload : List Byte
  metas : List (BitVec 25)
  deriving DecidableEq, Repr, Inhabited

/-- The running exchange command's protocol state (11 R340 to R345): the START messages of its peers, the peers that
paused, steps consumed or begun, staged messages not yet acknowledged, partials, and when each peer was last heard of. -/
structure Exch where
  started : List Message
  pausedBy : List Nat
  consumed : List (Nat × Nat)
  staged : List Staged
  partials : List Partial
  since : SMap Nat
  deriving DecidableEq, Repr, Inhabited

/-- An entry of a TLB (04 R121): partition, page base, level and leaf, with the address of the leaf. -/
structure TlbEntry where
  part : Fin 8
  page : Nat
  level : Fin 3
  leaf : Word
  entryAt : Nat
  deriving DecidableEq, Repr, Inhabited

/-- A transaction (12 R382 to R388): the state saved at TXBEGIN, its footprint, the blocks of it that another agent has read since the
transaction's first access (`others`), held writes, recorded loads (bundle, address, bytes) with the addresses and places that they
read, and an abort that is due (reason, code, cause). -/
structure Tx where
  save : Regs
  reads : List Nat
  writes : List Nat
  others : List Nat
  held : List HStore
  loads : List (Word × Word × List Byte)
  places : List (Word × Nat)
  bytes : Nat
  conflict : Bool
  abort : Option (Fin 8 × BitVec 8 × BitVec 8)
  deriving DecidableEq, Repr, Inhabited

/-- The bundle being issued: the model's own (log 4). `taken` is the taken leaf of its tree, `target` and `call` its
transfer, `rank` the place of its trap in 02 R76's order, `stalled` an operand or access that has to wait, `gone` that
the strand left the core or took a trap after the bundle, `first` the number of its first result, `settle` a transfer by
RET, `q`, `s` and `g` its header bits, `bytes` its 32 bytes, `far` whether they came from the far tier, and `stale` the events of
the slot that wait for its result (03 R108). -/
structure Issue where
  active : Bool
  pc : Word
  scope : Fin 8
  slot : Fin 8
  tree : Bool
  taken : Fin 8
  target : Option Word
  call : Option Word
  trapped : Bool
  rank : Nat
  stalled : Bool
  gone : Bool
  first : Nat
  settle : Bool
  q : Bool
  s : Bool
  g : Bool
  bytes : List Byte
  far : Bool
  stale : List LogEvent
  deriving DecidableEq, Repr, Inhabited

/-- The supervisor registers of a core (14 R423). -/
structure SupRegs where
  tvec : Word
  tcause : Word
  tpc : Word
  tfpc : Word
  tslot : Word
  twin : Word
  taddr : Word
  targ : Word
  tstatus : Word
  wdlimit : Word
  qmax : Word
  maxred : Word
  troot : Word
  tcmp : Word
  tloop : Vector Word 13
  bkpt : Vector Word 4
  wpta : Vector Word 2
  wptl : Vector Word 2
  trootNext : Option Word
  deriving DecidableEq, Repr, Inhabited

/-- The Retrograde registers (12 R354), with the writes of LOGMODE, LOGBASE and LOGSIZE that wait for the boundary. -/
structure LogRegs where
  base : Word
  size : Word
  head : Word
  tail : Word
  mode : Word
  horizon : Word
  done : Word
  stamp : Word
  irrcnt : Word
  cur : Word
  trbase : Word
  trctl : Word
  trcons : Word
  nextBase : Option Word
  nextSize : Option Word
  nextMode : Option Word
  fullPosted : Bool
  deriving DecidableEq, Repr, Inhabited

/-- The status words of an engine queue (01 R29); DEPTH and HOLD are computed. -/
structure QStat where
  lcause : BitVec 8
  lcv : Bool
  lpc : Word
  canceln : Word
  faultn : Word
  deriving DecidableEq, Repr, Inhabited

/-- An inbound message ring of a core (06 R211): message numbers and the sender site of each message it holds. -/
structure MsgRing where
  head : Nat
  tail : Nat
  claimed : Nat
  senders : List Nat
  deriving DecidableEq, Repr, Inhabited

/-- What a core is doing. -/
inductive Run where
  | idle | strand | fwWait | stopped | dead
  deriving DecidableEq, Repr, Inhabited

/-- The engines of a core (01 R14 R24): queues 0 to 5, markers of engine 6, status and progress blocks. -/
structure Engines where
  queues : Vector (List Cmd) 6
  signals : List Cmd
  stat : Vector QStat 6
  prog : Vector (Vector Word 16) 5
  fetches : Word
  work : Vector Work 5
  faults : Vector (Option PendingFault) 6
  exch : Exch
  cyc : Vector Word 8
  cens : Vector Word 5
  nextSeq : Nat
  disabled : BitVec 8
  saved : List Cmd
  deriving DecidableEq, Repr

/-- The Retrograde unit's window state (04 R134, 12 R352): what the open window holds, its store bytes, its bundles and
beats so far, and the x, bt, vm and lc registers written in it (12 R359). `acted` says that it performed an access at its issue
(04 R135); `undo` holds the values, newest first, of the state registers outside `Regs` that it wrote, and `wakes` the matrix
registers whose wake it began (05 R152); `commit` is the transaction that its close commits (12 R387). -/
structure Window where
  held : List Held
  bytes : Nat
  bundles : Nat
  beats : Nat
  wx : BitVec 64
  wbt : BitVec 8
  wvm : BitVec 8
  wlc : BitVec 4
  acted : Bool
  undo : List (Nat × Word)
  wakes : List (Fin 16)
  commit : Option Tx
  deriving DecidableEq, Repr, Inhabited

/-- A replay in progress (12 R374): the byte count of the log it starts at, the window it runs to (0: the end of the log), the debug packet
that it answers (id and response address), where it diverged (PC, address, recorded, replayed), and the places of the TILE entries that the
engines' commits have matched. -/
structure Replay where
  start : Nat
  until_ : Word
  id : Nat
  resp : Word
  diverged : Option (Word × Word × Word × Word)
  used : List Nat
  deriving DecidableEq, Repr, Inhabited

/-- One core: its strand's registers and their boundary copy, the landing buffer, the window, the engines, the
supervisor and Retrograde registers. `post` is an instruction that acts once its bundle's window has closed, `postArg` the
register it read at its issue. `evBeat` is the beat at which the entry of the first-event log was counted (03 R108), `landed` the
exposed results that have landed at the present beat, which an interlocked one may still meet (02 R48 R73). -/
structure Core where
  id : Nat
  run : Run
  mode : Mode
  r : Regs
  bnd : Regs
  y : Vector YReg 4
  beat : Nat
  evBeat : Option Nat
  seq : Nat
  land : List Result
  landed : List Result
  group : Nat
  written : List Reg
  delay : Option (Nat × Word)
  iss : Issue
  win : Window
  closing : Bool
  tilesOpen : Vector Tile 64
  tx : Option Tx
  wdcnt : Word
  cir : Word
  hack : Bool
  eqcnt : Vector Word 5
  crec : Word
  record : List Byte
  sinfo : Word
  pwbase : Vector Word 8
  pwsize : Vector Word 8
  pstore : List Host.Cell
  sup : SupRegs
  log : LogRegs
  eng : Engines
  tiles : Vector Tile 64
  ttPend : List TileChange
  rings : Vector MsgRing 4
  credits : SMap Nat
  tlb : List TlbEntry
  l1n : Nat
  l1 : List (Nat × List Byte)
  pend : List (BitVec 8 × Word)
  fault : Option PendingFault
  waitClocks : Nat
  wake : List (Fin 16 × Nat)
  svc : Option (Word × List Word)
  launch : Option (Nat × Nat)
  frame : Word
  spill : Word
  spillSize : Nat
  stopReq : Option (Fin 8 × BitVec 8)
  shadow : List Byte
  replay : Option Replay
  samples : Nat
  shoot : List (Nat × Option Nat)
  post : Option Instr
  postArg : Word
  deriving DecidableEq, Repr

/-- A cluster barrier object (06 R204). -/
structure Barrier where
  expect : Nat
  arrived : Nat
  gen : W32
  deriving DecidableEq, Repr, Inhabited

/-- A tier-monitor entry (04 R125); `crossed`: its counter passed the threshold and its notification is to be posted. -/
structure MonEntry where
  page : Word
  part : Fin 8
  count : BitVec 16
  notified : Bool
  crossed : Bool
  deriving DecidableEq, Repr, Inhabited

/-- An entry of a stage queue (06 R207 R209). -/
structure QEntry where
  seq : Nat
  bytes : List Byte
  mdata : List (BitVec 25)
  claimed : Option Nat
  deriving DecidableEq, Repr, Inhabited

/-- A stage queue of a running pipeline (13 R409 R416 R417). -/
structure SQueue where
  esize : Nat
  cap : Nat
  high : Nat
  low : Nat
  ring : Word
  ringcap : Nat
  quota : Nat
  chip : List QEntry
  ringHead : Nat
  ringCount : Nat
  nextSeq : Nat
  resvChip : Nat
  resvRing : Nat
  latched : Bool
  closed : Bool
  deriving DecidableEq, Repr, Inhabited

/-- A stage of a running pipeline, with the launch unit's copy of its context template (13 R405 R408). -/
structure Stage where
  entry : Word
  template : List Byte
  gang : Nat
  prio : Nat
  steal : Bool
  maxinst : Nat
  inq : List Nat
  outq : List Nat
  affinity : Nat
  deficit : Nat
  deriving DecidableEq, Repr, Inhabited

/-- What a pipeline image declares (13 R407 R408 R409). -/
structure PipeImage where
  pipe : Nat
  framepool : Word
  nframes : Nat
  recpool : Word
  nrecpool : Nat
  spillpool : Word
  spilln : Nat
  stages : List Stage
  queues : List SQueue
  deriving DecidableEq, Repr, Inhabited

/-- A pipeline switch that waits for the strands to stop (13 R419): its packet's queue and place, KEEPQ and the new image. -/
structure Switch where
  queueK : Nat
  packet : Nat
  keep : Bool
  image : PipeImage
  deriving DecidableEq, Repr, Inhabited

/-- A running pipeline (13 R397 R405 R411): the queue and place of its LAUNCH, its image's L1N, CMASK, record table and
scratchpad entries (record, offset, length, DATA, SIDE). `recs` lists its records, each with the time it became ready, if it
is; `misses` the records whose pickup waits for a reply, each with the core that read it and its fault (04 R119); `reserve` the cluster
ordinals kept for gangs (13 R414), each with its gang; `slots` its running-pipeline slot (14 R443). -/
structure Pipeline extends PipeImage where
  queueK : Nat
  packet : Nat
  l1n : Nat
  cmask : Nat
  rectab : Word
  sptab : List (Nat × Nat × Nat × Word × Word)
  recs : List (Word × Option Nat)
  misses : List (Word × Nat × PendingFault)
  nextGid : Nat
  switch : Option Switch
  cause : Option (BitVec 8)
  causePc : Word
  unit : Option (BitVec 16)
  poison : Bool
  reserve : List (Nat × Nat)
  migrating : Bool
  slots : Nat
  deriving DecidableEq, Repr, Inhabited

/-- A packet the launch unit has fetched (13 R392 R393 R397 R399): its bytes, the depth of the buffer it stands in, its place in the order in
which packets reach the heads of their queues, whether its ranges stand in the interval table, whether it has started, and whether its action
has been taken. -/
structure Packet where
  depth : Nat
  bytes : List Byte
  order : Nat
  entered : Bool
  started : Bool
  acted : Bool
  deriving DecidableEq, Repr, Inhabited

/-- A counter capture (13 R401). -/
structure Capture where
  beats : Word
  clocks : List Word
  resident : Word
  since : Nat
  preempted : Bool
  deriving DecidableEq, Repr, Inhabited

/-- A command queue of a partition (13 R389 R390 R391): descriptor, counts, indirect buffers (base, lines, position),
packets in order, capture, the fault whose reply it waits for (`uslot`: 0 the head's access or the read of a line 0, 1 a read of a started
WAITV, 2 a store of `out`, 3 a packet's further lines), and the launch unit's stores that are still to be performed (14 R436). -/
structure CmdQueue where
  ring : Word
  log2 : Nat
  prio : Nat
  enable : Bool
  reqcrc : Bool
  fdie : Fin 4
  ridxa : Word
  widx : BitVec 32
  ridx : BitVec 32
  ibs : List (Word × Nat × Nat)
  packets : List Packet
  tears : Nat
  spins : Nat
  capture : Option Capture
  fault : Option PendingFault
  out : List (Word × List Byte)
  deriving DecidableEq, Repr, Inhabited

/-- A partition's configuration record as published (14 R433). -/
structure PartCfg where
  at_ : Word
  flags : BitVec 8
  shpart : Fin 8
  clusters : List Nat
  granules : List Nat
  linkmask : BitVec 18
  troot : Word
  wdlimit : Word
  qmax : Word
  maxred : Word
  tvec : Word
  tcmp : Word
  areas : List Word
  swap : Word
  pstate : Word
  log2s : List Nat
  descs : List (List Byte)
  deriving DecidableEq, Repr, Inhabited

/-- A partition (01 R38, 14 R433, 15 R446): `dbs` its doorbells by queue; `halted`: a CKPT of its state withholds dispatch (14 R442). Of a strand, by the
address of its record: `replays` a replay that goes on at its next pickup (12 R374), `edges` the PC and engine-quiet flag of the
boundary that opens window HORIZON where the log no longer has the entry before it (12 R354 R366). -/
structure Partition where
  cfg : Option PartCfg
  diverged : Bool
  queues : SMap CmdQueue
  pipes : SMap Pipeline
  dbgW : Word
  dbgR : Nat
  hreq : SMap Word
  dbs : SMap Word
  areaDown : BitVec 6
  dringFull : Bool
  resident : Bool
  halted : Bool
  swapOut : List (Nat × Core)
  barriers : SMap Barrier
  restoring : List (Nat × Nat)
  replays : List (Word × Replay)
  edges : List (Word × Word × Bool)
  deriving DecidableEq, Repr

/-- The state of a link port (15 R447 R448 R449): 0 DOWN, 1 TRAINING, 2 UP; retries per sequence number; the flits of the replay buffer; the
next sequence number; the credits to send with; and the payloads of flits that wait for credits or room, the last of a message with it. -/
structure Port where
  state : Fin 3
  retries : SMap Nat
  replay : List (List Byte)
  nextSeq : Fin 4096
  credits : Nat
  queue : List (List Byte × Option Message)
  deriving DecidableEq, Repr, Inhabited

/-- A die: brought up, bridge edges trained (15 R451), service registers (14 R434), tier monitor, the boot flash (15 R452: the slot that runs,
the image written to each, none where the factory's stands, and whether the other slot holds an update since boot), thermal stop. -/
structure Die where
  up : Bool
  bridged : Bool
  slot : Nat
  flash : Vector (Option (List Byte)) 2
  pending : Bool
  qmask : BitVec 72
  pcfg : Vector Word 8
  fwen : BitVec 7
  fwpend : BitVec 7
  tnthresh : BitVec 16
  serr : Word
  cethresh : Word
  svcSite : Option Nat
  monitor : SMap MonEntry
  hot : Bool
  deriving DecidableEq, Repr, Inhabited

/-- What the device sends out: flits on a port and the exchange message that they complete, link control (an acknowledgement with the credits
it returns, or a retry request), management and host messages. -/
inductive Out where
  | link (port : Nat) (m : Message)
  | control (port : Nat) (retry : Bool) (seq : Fin 4096) (cred : Nat)
  | flits (port : Nat) (fs : List (List Byte))
  | management (bytes : List Byte)
  | report (cause : BitVec 8) (die : Nat)
  | hostData (hpa : Nat) (bytes : List Byte) (poison : Bool)
  deriving DecidableEq, Repr, Inhabited

/-- Everything outside the cores. `fabric` holds messages between dies, `xheld` START messages whose command has not started
here (11 R341), `xstage` the staged messages that a stopped command keeps, by COMMID and rank (11 R347), `xended` the complete exchange commands, each with
its core, its opcode and its records (11 R343), `tickets` how many
packets have reached the heads of their queues (13 R399), `stalled` a write of the device that waits for a dirty bit: its partition
and place (04 R128). -/
structure Device where
  power : Bool
  ready : Bool
  dies : Vector Die 4
  ports : Vector Port 18
  barriers : SMap Barrier
  ctlb : SMap (List TlbEntry)
  parts : Vector Partition 8
  newCfg : Vector (Option PartCfg) 8
  zeroing : List (Nat × Nat)
  stamp : Word
  cfgreq : Word
  cfgresp : Word
  hdm : Vector Decoder 4
  msix : Vector MsixVector 64
  fabric : List Message
  xheld : List Message
  xstage : List (Nat × Nat × List Staged)
  xended : List (Nat × Nat × List Byte)
  out : List Out
  tickets : Nat
  stalled : Option (Fin 8 × Nat)
  deriving DecidableEq, Repr

/-- Whose turn comes: a core issues a bundle, or an event happens at a core (log 5). -/
inductive Turn where
  | issue (core : Nat)
  | event (core : Nat) (i : Instr)
  deriving DecidableEq, Repr

/-- The machine. Memory is ONE canonical list: HBM at its physical address, host memory at 2^56 plus its address, the
scratchpad of core c at 2^57 + c * 2^21. Tags hold the 24-bit tag and, in bit 24, the poison bit of block key / 64. -/
structure State where
  core : Core
  others : SMap Core
  dev : Device
  mem : List Host.Cell
  tags : SMap (BitVec 25)
  agenda : List Turn
  clock : Nat
  free : Nat
  deriving DecidableEq, Repr

/-- Why a step stops. -/
inductive Fault where
  /-- Raised by `step` when the agenda gives a turn to a core number that names no site of the package (05 R151: sites
  0 to 8). Safe: the hardware has no such turn. -/
  | noSuchCore (core : Nat)
  deriving DecidableEq, Repr

/-- Why an instruction has no meaning. -/
inductive Refusal where
  /-- Raised by `exec` for an instruction not modelled yet. Safe: nothing can be proved of it. -/
  | notModelled (mnemonic : String)
  deriving DecidableEq, Repr

/-! Reset values. -/

def zeroShape : Shape := ⟨Vector.replicate 8 0⟩
/-- At strand allocation every matrix register is GATED (07 R222). -/
def gatedReg : MReg := ⟨[], false, .gated⟩
/-- The matrix registers after a zeroing of 04 R129: ON and invalid (07 R222). -/
def zeroedMatrix : Vector MReg 16 := Vector.replicate 16 ⟨[], false, .on⟩
def zeroTile : Tile := ⟨0, 0, .empty, false, 0, 0⟩
def zeroStrandRegs : StrandRegs :=
  ⟨0, 0, 0, 0, 0, 0, 0, Vector.replicate 4 0, Vector.replicate 4 0, 0, 0⟩
def zeroRegs : Regs :=
  { pc := 0, x := Vector.replicate 64 0, xv := 0, p := 0, pv := 0, bt := Vector.replicate 8 0, btv := 0,
    lc := Vector.replicate 4 0, vm := Vector.replicate 8 0, m := Vector.replicate 16 gatedReg,
    shA := Vector.replicate 4 zeroShape, shS := Vector.replicate 4 zeroShape, ag := Vector.replicate 128 0,
    xp := Vector.replicate 64 0, sr := zeroStrandRegs }
def noIssue : Issue :=
  { active := false, pc := 0, scope := 0, slot := 0, tree := false, taken := 0, target := none, call := none,
    trapped := false, rank := 0, stalled := false, gone := false, first := 0, settle := false, q := false, s := false,
    g := false, bytes := [], far := false, stale := [] }
/-- Reset column of 14 R423; WDLIMIT, QMAX and MAXRED hold the defaults of 14 R433 (log 2). -/
def resetSup : SupRegs :=
  { tvec := 0, tcause := 0, tpc := 0, tfpc := 0, tslot := 0, twin := 0, taddr := 0, targ := 0, tstatus := 0,
    wdlimit := 0x10000000, qmax := 4096, maxred := 64, troot := 0, tcmp := 0, tloop := Vector.replicate 13 0,
    bkpt := Vector.replicate 4 0, wpta := Vector.replicate 2 0, wptl := Vector.replicate 2 0, trootNext := none }
def resetLog : LogRegs :=
  { base := 0, size := 0, head := 0, tail := 0, mode := 0, horizon := 0, done := 0, stamp := 0, irrcnt := 0, cur := 0,
    trbase := 0, trctl := 0, trcons := 0, nextBase := none, nextSize := none, nextMode := none, fullPosted := false }
def zeroCounts : Counts := ⟨0, 0, 0, 0, 0⟩
def zeroWork : Work := ⟨[], [], zeroCounts, [0, 0, 0, 0, 0], false, false, 0, false, false, 0, [], [], [], [], none⟩
def resetEngines : Engines :=
  { queues := Vector.replicate 6 [], signals := [], stat := Vector.replicate 6 ⟨0, false, 0, 0, 0⟩,
    prog := Vector.replicate 5 (Vector.replicate 16 0), fetches := 0, work := Vector.replicate 5 zeroWork,
    faults := Vector.replicate 6 none, exch := ⟨[], [], [], [], [], []⟩, cyc := Vector.replicate 8 0,
    cens := Vector.replicate 5 0, nextSeq := 0, disabled := 0, saved := [] }
def emptyWindow : Window := ⟨[], 0, 0, 0, 0, 0, 0, 0, false, [], [], none⟩
/-- A core after reset, which runs no strand. -/
def resetCore (id : Nat) : Core :=
  { id := id, run := .idle, mode := .strand, r := zeroRegs, bnd := zeroRegs, y := Vector.replicate 4 ⟨0, none⟩, beat := 0, evBeat := none,
    seq := 0, land := [], landed := [], group := 0, written := [], delay := none, iss := noIssue, win := emptyWindow, closing := false, tilesOpen := Vector.replicate 64 zeroTile, tx := none,
    wdcnt := 0, cir := 0, hack := false, eqcnt := Vector.replicate 5 0, crec := 0, record := [], sinfo := 0,
    pwbase := Vector.replicate 8 0, pwsize := Vector.replicate 8 0, pstore := [], sup := resetSup, log := resetLog,
    eng := resetEngines, tiles := Vector.replicate 64 zeroTile, ttPend := [], rings := Vector.replicate 4 ⟨0, 0, 0, []⟩,
    credits := [], tlb := [], l1n := 1, l1 := [], pend := [], fault := none, waitClocks := 0, wake := [], svc := none,
    launch := none, frame := 0, spill := 0, spillSize := 0, stopReq := none,
    shadow := [], replay := none, samples := 0, shoot := [], post := none, postArg := 0 }
def resetPartition : Partition :=
  { cfg := none, diverged := false, queues := [], pipes := [], dbgW := 0, dbgR := 0, hreq := [], dbs := [], areaDown := 0,
    dringFull := false, resident := true, halted := false, swapOut := [], barriers := [], restoring := [], replays := [], edges := [] }
/-- Reset column of 14 R434: QMASK is set at boot. -/
def resetDie : Die :=
  { up := false, bridged := false, slot := 0, flash := Vector.replicate 2 none, pending := false, qmask := 0, pcfg := Vector.replicate 8 0, fwen := 0, fwpend := 0,
    tnthresh := 0xFFFF, serr := 0, cethresh := 0xFFFF, svcSite := none, monitor := [], hot := false }
/-- A port that is DOWN. -/
def downPort : Port := ⟨0, [], [], 0, 0, []⟩
/-- The decoders hold no base at reset; decoder 0 maps host address 0 to device address 0 (log 8). Every MSI-X vector is masked (log 128). -/
def resetDevice : Device :=
  { power := true, ready := false, dies := Vector.replicate 4 resetDie, ports := Vector.replicate 18 downPort,
    barriers := [], ctlb := [], parts := Vector.replicate 8 resetPartition, newCfg := Vector.replicate 8 none,
    zeroing := [], stamp := 0, cfgreq := 0, cfgresp := 0,
    hdm := Vector.ofFn fun (i : Fin 4) => ⟨i = 0, 0, if i = 0 then 0x100000000000 else 0, .one, 0, 0, 0⟩,
    msix := Vector.replicate 64 ⟨0, 0, true⟩,
    fabric := [], xheld := [], xstage := [], xended := [], out := [], tickets := 0, stalled := none }

/-- The core whose turn it is right after reset: site 1 of cluster 0 of die 0, a work core (COREID 0x20, 05 R151). -/
def firstCore : Nat := 0x20

/-- The machine right after reset: power is good, no die has booted, every register at its reset value. -/
def State.reset : State :=
  { core := resetCore firstCore, others := [], dev := resetDevice, mem := [], tags := [], agenda := [], clock := 0, free := 0 }

end Sys2Proof.Machine
end

