-- ==== Sys2Proof/Machine/Mem.lean ====
section
/-! DEFINITION. Memory: where each byte stands in the one list, block metadata, cores by number, and the first two
levels of an access: its outcome type and the decoding of generic addresses (04 R110 to R114). -/

namespace Sys2Proof.Machine

/-! Places in the one memory. -/

/-- HBM covers physical addresses 0 to this, all four dies (04 R112). -/
def hbmTop : Nat := 4 * 0x3000000000

def hostBase : Nat := 2 ^ 56
def scratchBase : Nat := 2 ^ 57

/-- The place of host physical address `a`. -/
def hostKey (a : Nat) : Nat := hostBase + a % 2 ^ 56

/-- The place of scratchpad offset `off` of core `c`. -/
def scratchKey (c off : Nat) : Nat := scratchBase + c * 2 ^ 21 + off

/-- A place in HBM. -/
def isHbm (k : Nat) : Bool := decide (k < hbmTop)
/-- A place in host memory (the far tier). -/
def isHost (k : Nat) : Bool := decide (hostBase ≤ k) && decide (k < scratchBase)
/-- A place in a scratchpad. -/
def isScratch (k : Nat) : Bool := decide (scratchBase ≤ k)

/-- What a byte of memory that nothing has written reads as (log 3; 15 R451 zeroes HBM before READY). -/
def initialByte : Byte := 0

/-- The canonical form of memory: addresses strictly rise and no entry holds the initial byte. -/
def Memory.wf (m : List Host.Cell) : Bool := swf initialByte m

/-- One byte of memory. -/
def getByte (m : List Host.Cell) (k : Nat) : Byte := sget m initialByte k

/-- Writes one byte of memory. -/
def setByte (m : List Host.Cell) (k : Nat) (b : Byte) : List Host.Cell := sset m initialByte k b

/-- Writes bytes from place `k` upward. -/
def setBytes : List Host.Cell → Nat → List Byte → List Host.Cell
  | m, _, [] => m
  | m, k, b :: r => setBytes (setByte m k b) (k + 1) r

/-- `n` bytes from place `k` upward. -/
def State.peek (s : State) (k n : Nat) : List Byte := (List.range n).map fun i => getByte s.mem (k + i)

/-- The little-endian number in `n` bytes at place `k`. -/
def State.peekNat (s : State) (k n : Nat) : Nat := ofBytes (s.peek k n)

/-- Writes bytes at place `k`, metadata unchanged. -/
def State.poke (s : State) (k : Nat) (bs : List Byte) : State := { s with mem := setBytes s.mem k bs }

/-- The 25-bit metadata of the block of place `k`: tag in [23:0], poison in [24] (03 R98). -/
def State.mdata (s : State) (k : Nat) : BitVec 25 := sget s.tags 0 (k / 64)

/-- Sets the metadata of the block of place `k`. -/
def State.setMdata (s : State) (k : Nat) (v : BitVec 25) : State := { s with tags := sset s.tags 0 (k / 64) v }

/-- The tag of a block; far memory holds none (04 R124). -/
def State.tagAt (s : State) (k : Nat) : BitVec 24 := if isHost k then 0 else (s.mdata k).setWidth 24

/-- The poison bit of a block; for a far block, the CXL poison indication its read is answered with (04 R124). -/
def State.poisonAt (s : State) (k : Nat) : Bool := (s.mdata k).getLsbD 24

def State.setTag (s : State) (k : Nat) (t : BitVec 24) : State :=
  s.setMdata k (((s.mdata k).toNat / 2 ^ 24 * 2 ^ 24 + t.toNat : Nat))

def State.setPoison (s : State) (k : Nat) (p : Bool) : State :=
  s.setMdata k (((s.mdata k).toNat % 2 ^ 24 + boolBit p * 2 ^ 24 : Nat))

/-- Writes bytes inside one block; a write of all 64 bytes clears the poison bit (06 R190). -/
def State.writeRun (s : State) (k : Nat) (bs : List Byte) : State :=
  let s := s.poke k bs
  if bs.length = 64 && k % 64 == 0 then s.setPoison k false else s

/-- Zeroes `n` blocks from place `k`: payload, tags and poison. -/
def State.zeroBlocks (s : State) (k n : Nat) : State :=
  { s with mem := s.mem.filter fun c => !(decide (k ≤ c.1) && decide (c.1 < k + 64 * n)),
           tags := s.tags.filter fun c => !(decide (k / 64 ≤ c.1) && decide (c.1 < k / 64 + n)) }

/-- The machine with its memory and its metadata in canonical form: every byte and every block reads as before. -/
def State.tidy (s : State) : State := { s with mem := canonical initialByte s.mem, tags := canonical 0 s.tags }

/-! Cores by number: die in [1:0], cluster in [4:2], site in [8:5] (05 R151). -/

def dieOf (c : Nat) : Nat := c % 4
def clusterOf (c : Nat) : Nat := c / 4 % 8
def siteOf (c : Nat) : Nat := c / 32
/-- Die and cluster together: the cluster's number in the package. -/
def clusterId (c : Nat) : Nat := c % 32
def coreNumber (cluster site : Nat) : Nat := cluster + 32 * site
/-- The core number names a site of the package. -/
def isSite (c : Nat) : Bool := decide (c < 288)
/-- The firmware core of each die (01 R15). -/
def isFirmware (c : Nat) : Bool := decide (clusterOf c = 0) && decide (siteOf c = 0)
/-- The spare site of each of clusters 1 to 7 (00 R3). -/
def isSpare (c : Nat) : Bool :=
  decide (clusterOf c ≠ 0) && decide ((Config.spareSite (dieOf c) (clusterOf c)).val = siteOf c)
/-- The number of a site within its die, 9 c + s (14 R434). -/
def siteBit (c : Nat) : Nat := 9 * clusterOf c + siteOf c
/-- The core of a die with that site number. -/
def coreOfSite (die bit : Nat) : Nat := die + 4 * (bit / 9) + 32 * (bit % 9)
/-- Every core number of the package, in rising order. -/
def allCores : List Nat := List.range 288

def State.coreAt (s : State) (c : Nat) : Core :=
  if c = s.core.id then s.core else sget s.others (resetCore c) c

def State.setCoreAt (s : State) (c : Nat) (v : Core) : State :=
  if c = s.core.id then { s with core := v } else { s with others := sset s.others (resetCore c) c v }

def State.modCoreAt (s : State) (c : Nat) (f : Core → Core) : State := s.setCoreAt c (f (s.coreAt c))

/-- Every core that is not as after reset, and the one whose turn it is. -/
def State.liveCores (s : State) : List Nat := s.core.id :: s.others.map Prod.fst

/-- Gives the turn to core `c`, parking the one that had it. -/
def State.focus (s : State) (c : Nat) : State :=
  if c = s.core.id then s
  else { s with core := sget s.others (resetCore c) c,
                others := sset (sdel s.others c) (resetCore s.core.id) s.core.id s.core }

def State.die (s : State) (d : Nat) : Die := s.dev.dies.toList.getD d resetDie
def State.modDie (s : State) (d : Nat) (f : Die → Die) : State :=
  { s with dev := { s.dev with dies := s.dev.dies.mapFinIdx fun i v _ => if i = d then f v else v } }
def State.part (s : State) (p : Nat) : Partition := s.dev.parts.toList.getD p resetPartition
def State.modPart (s : State) (p : Nat) (f : Partition → Partition) : State :=
  { s with dev := { s.dev with parts := s.dev.parts.mapFinIdx fun i v _ => if i = p then f v else v } }
def State.cfg (s : State) (p : Nat) : Option PartCfg := (s.part p).cfg

/-- The scratchpad size of a core (04 R110 R111). -/
def Core.spadSize (c : Core) : Nat := 2 ^ 21 - c.l1n * 2 ^ 18

/-- The partition of the strand a core runs (05 R151 SINFO PART). -/
def Core.partOf (c : Core) : Fin 8 := Fin.ofNat 8 (bits c.sinfo 32 3)

/-- QMASK: the work core is in service (14 R434). -/
def State.inService (s : State) (c : Nat) : Bool := (s.die (dieOf c)).qmask.getLsbD (siteBit c)

/-- The clusters of a partition hold core `c`. -/
def PartCfg.hasCore (p : PartCfg) (c : Nat) : Bool := p.clusters.contains (clusterId c)

/-- A fresh value the specification leaves open (log 6). -/
def State.fresh (s : State) : Word × State := (Config.freeWord s.free, { s with free := s.free + 1 })
def State.freshNat (s : State) : Nat × State := (Config.freeNat s.free, { s with free := s.free + 1 })

/-! Outcomes of an access. -/

/-- What an access ends in: it is done; a cause that stops it (precise for a strand, an engine fault for an engine);
a resolvable translation fault (04 R119); or it waits and is made again later. -/
inductive Act (α : Type) where
  | ok (a : α) (s : State)
  | trap (cause : BitVec 8) (addr : Word) (s : State)
  | fault (cause : BitVec 8) (addr : Word) (s : State)
  | wait (s : State)

def Act.bind {α β : Type} (x : Act α) (f : α → State → Act β) : Act β :=
  match x with
  | .ok a s => f a s
  | .trap c v s => .trap c v s
  | .fault c v s => .fault c v s
  | .wait s => .wait s

def Act.map {α β : Type} (x : Act α) (f : α → β) : Act β := x.bind fun a s => .ok (f a) s

/-- The state an access leaves. -/
def Act.state {α : Type} : Act α → State
  | .ok _ s | .trap _ _ s | .fault _ _ s | .wait s => s

/-- Runs an access for each element in order and collects the results. -/
def Act.mapM {α β : Type} (f : α → State → Act β) : List α → State → Act (List β)
  | [], s => .ok [] s
  | a :: r, s => (f a s).bind fun b s => (Act.mapM f r s).map fun bs => b :: bs

/-- Runs an access for each element in order. -/
def Act.forM {α : Type} (f : α → State → Act Unit) : List α → State → Act Unit
  | [], s => .ok () s
  | a :: r, s => (f a s).bind fun _ s => Act.forM f r s

/-- Continues when the condition holds, else stops with the cause. -/
def Act.check (b : Bool) (cause : BitVec 8) (addr : Word) (s : State) : Act Unit :=
  if b then .ok () s else .trap cause addr s

/-! Causes (14 R422). -/

abbrev Cause.trapSw : BitVec 8 := 0x00
abbrev Cause.bundleReserved : BitVec 8 := 0x01
abbrev Cause.opcodeUndef : BitVec 8 := 0x02
abbrev Cause.groupDep : BitVec 8 := 0x03
abbrev Cause.wawUnguarded : BitVec 8 := 0x04
abbrev Cause.leafTrap : BitVec 8 := 0x05
abbrev Cause.regInvalid : BitVec 8 := 0x06
abbrev Cause.priv : BitVec 8 := 0x07
abbrev Cause.pairMisuse : BitVec 8 := 0x08
abbrev Cause.quietLiveBypass : BitVec 8 := 0x09
abbrev Cause.btInvalid : BitVec 8 := 0x0A
abbrev Cause.loopNest : BitVec 8 := 0x0B
abbrev Cause.loopEndNotQuiet : BitVec 8 := 0x0C
abbrev Cause.paramUnbound : BitVec 8 := 0x0D
abbrev Cause.watchdog : BitVec 8 := 0x0E
abbrev Cause.fetchAlign : BitVec 8 := 0x0F
abbrev Cause.pageNotPresent : BitVec 8 := 0x10
abbrev Cause.pageProtection : BitVec 8 := 0x11
abbrev Cause.pageWriteBlocked : BitVec 8 := 0x12
abbrev Cause.align : BitVec 8 := 0x13
abbrev Cause.apertureAccess : BitVec 8 := 0x14
abbrev Cause.noncanonical : BitVec 8 := 0x15
abbrev Cause.atomicScope : BitVec 8 := 0x16
abbrev Cause.tileState : BitVec 8 := 0x17
abbrev Cause.tileUndefined : BitVec 8 := 0x18
abbrev Cause.mqProtocol : BitVec 8 := 0x19
abbrev Cause.promoteDenied : BitVec 8 := 0x1A
abbrev Cause.extractPattern : BitVec 8 := 0x1B
abbrev Cause.poisonTrap : BitVec 8 := 0x1C
abbrev Cause.tierFault : BitVec 8 := 0x1D
abbrev Cause.walkError : BitVec 8 := 0x1E
abbrev Cause.dirtyLogFull : BitVec 8 := 0x1F
abbrev Cause.engineFormat : BitVec 8 := 0x20
abbrev Cause.shapeInvalid : BitVec 8 := 0x21
abbrev Cause.shapeRange : BitVec 8 := 0x22
abbrev Cause.paramRecord : BitVec 8 := 0x23
abbrev Cause.reductionDepth : BitVec 8 := 0x24
abbrev Cause.maskShape : BitVec 8 := 0x25
abbrev Cause.resumeMismatch : BitVec 8 := 0x26
abbrev Cause.phaseUe : BitVec 8 := 0x27
abbrev Cause.sortKeyType : BitVec 8 := 0x28
abbrev Cause.gatherIndex : BitVec 8 := 0x29
abbrev Cause.copyRange : BitVec 8 := 0x2A
abbrev Cause.pageinFail : BitVec 8 := 0x2B
abbrev Cause.exchangeLink : BitVec 8 := 0x2C
abbrev Cause.exchangePeer : BitVec 8 := 0x2D
abbrev Cause.exchangeTimeout : BitVec 8 := 0x2E
abbrev Cause.engineCancelled : BitVec 8 := 0x2F
abbrev Cause.queueQuota : BitVec 8 := 0x30
abbrev Cause.queueClosed : BitVec 8 := 0x31
abbrev Cause.stageInvalid : BitVec 8 := 0x32
abbrev Cause.gangLost : BitVec 8 := 0x33
abbrev Cause.contRecord : BitVec 8 := 0x34
abbrev Cause.forkLimit : BitVec 8 := 0x35
abbrev Cause.barrierMisuse : BitVec 8 := 0x36
abbrev Cause.pipelineSwitch : BitVec 8 := 0x37
abbrev Cause.packetMalformed : BitVec 8 := 0x38
abbrev Cause.packetTorn : BitVec 8 := 0x39
abbrev Cause.ibDepth : BitVec 8 := 0x3A
abbrev Cause.imageInvalid : BitVec 8 := 0x3B
abbrev Cause.rangeDecl : BitVec 8 := 0x3C
abbrev Cause.counterCapture : BitVec 8 := 0x3D
abbrev Cause.partitionBounds : BitVec 8 := 0x3E
abbrev Cause.contextRestore : BitVec 8 := 0x3F
abbrev Cause.ueRegister : BitVec 8 := 0x40
abbrev Cause.ueScratchpad : BitVec 8 := 0x41
abbrev Cause.ueL2 : BitVec 8 := 0x42
abbrev Cause.ueHbm : BitVec 8 := 0x43
abbrev Cause.ueAccumulator : BitVec 8 := 0x44
abbrev Cause.poisonAtEnd : BitVec 8 := 0x45
abbrev Cause.sigMismatch : BitVec 8 := 0x46
abbrev Cause.countMismatch : BitVec 8 := 0x47
abbrev Cause.quarantinedUnit : BitVec 8 := 0x48
abbrev Cause.thermalTrip : BitVec 8 := 0x49
abbrev Cause.linkUe : BitVec 8 := 0x4A
abbrev Cause.cxlUe : BitVec 8 := 0x4B
abbrev Cause.fabricUe : BitVec 8 := 0x4C
abbrev Cause.fwCoreFault : BitVec 8 := 0x4D
abbrev Cause.censusDiverge : BitVec 8 := 0x4E
abbrev Cause.ceRate : BitVec 8 := 0x4F
abbrev Cause.breakpoint : BitVec 8 := 0x50
abbrev Cause.watchpoint : BitVec 8 := 0x51
abbrev Cause.singleStep : BitVec 8 := 0x52
abbrev Cause.logFull : BitVec 8 := 0x53
abbrev Cause.horizonReached : BitVec 8 := 0x54
abbrev Cause.irreversible : BitVec 8 := 0x55
abbrev Cause.replayDiverge : BitVec 8 := 0x56
abbrev Cause.txNesting : BitVec 8 := 0x57
abbrev Cause.debugHalt : BitVec 8 := 0x58
abbrev Cause.hackStop : BitVec 8 := 0x59
abbrev Cause.partitionSwap : BitVec 8 := 0x5A
abbrev Cause.migrationStop : BitVec 8 := 0x5B
abbrev Cause.imageSignature : BitVec 8 := 0x5C
abbrev Cause.timer : BitVec 8 := 0x5D
abbrev Cause.hostRequest : BitVec 8 := 0x5E
abbrev Cause.serviceCall : BitVec 8 := 0x5F

/-! Generic addresses (04 R113). -/

/-- What a generic address means. -/
inductive Region where
  | glob
  | own (off : Nat)
  | cluster (site off : Nat)
  | bad
  deriving DecidableEq, Repr

/-- Decodes a generic address. -/
def region (a : Word) : Region :=
  let n := a.toNat
  if n < 2 ^ 56 then .glob
  else if n / 2 ^ 56 = 0xF0 then (if n % 2 ^ 56 < 2 ^ 21 then .own (n % 2 ^ 21) else .bad)
  else if n / 2 ^ 56 = 0xF1 then (if n % 2 ^ 56 < 2 ^ 25 then .cluster (n / 2 ^ 21 % 16) (n % 2 ^ 21) else .bad)
  else .bad

/-- Two addresses lie in the same region: global, own scratchpad, or one site's scratchpad (06 R189). -/
def sameRegion (a b : Word) : Bool :=
  match region a, region b with
  | .glob, .glob => true
  | .own _, .own _ => true
  | .cluster s _, .cluster t _ => s == t
  | _, _ => false

/-- The address lies in the own scratchpad aperture. -/
def isOwn (a : Word) : Bool := match region a with | .own _ => true | _ => false

end Sys2Proof.Machine
end

