-- ==== Sys2Proof/Machine/Translate.lean ====
section
/-! DEFINITION. Translation (04 R115 to R123), the far tier's monitor (04 R125), the dirty bitmap (04 R127 R128), and
the rings the device produces into (14 R433 R436 R437 R458). -/

namespace Sys2Proof.Machine

/-- Who makes an access (04 R130): a core's strand, one of its engines, or a unit of a die. -/
structure Agent where
  core : Nat
  part : Fin 8
  root : Word
  engine : Bool
  bounds : Bool
  tlb : Bool
  scope : Nat
  tierFault : Bool
  deriving DecidableEq, Repr, Inhabited

/-- The nature of an access (14 R436 KIND). -/
inductive AKind where
  | read | write | fetch | atomic
  deriving DecidableEq, Repr, Inhabited

def AKind.code : AKind → BitVec 8
  | .read => 0 | .write => 1 | .fetch => 2 | .atomic => 3

/-- The access needs Wr. -/
def AKind.writes : AKind → Bool
  | .write | .atomic => true
  | _ => false

/-! Leaf fields (04 R117). -/

abbrev leafV (e : Word) : Bool := bitAt e 0
abbrev leafRd (e : Word) : Bool := bitAt e 1
abbrev leafWr (e : Word) : Bool := bitAt e 2
abbrev leafEx (e : Word) : Bool := bitAt e 3
abbrev leafFar (e : Word) : Bool := bitAt e 4
abbrev leafWB (e : Word) : Bool := bitAt e 5
abbrev leafWBF (e : Word) : Bool := bitAt e 6
abbrev leafD (e : Word) : Bool := bitAt e 7
abbrev leafA (e : Word) : Bool := bitAt e 8
abbrev leafG (e : Word) : Bool := bitAt e 9
abbrev leafMT (e : Word) : Nat := bits e 14 2

/-- Offset bits of a leaf at a level (04 R115). -/
def pageBits (level : Nat) : Nat := 16 + 10 * level

/-- The physical frame of a leaf. -/
def leafFrame (e : Word) : Nat := bits e 16 40 * 2 ^ 16

/-- The place of virtual address `va` under a leaf. -/
def leafKey (level : Nat) (e : Word) (va : Nat) : Nat :=
  let pa := leafFrame e + va % 2 ^ pageBits level
  if leafFar e then hostKey pa else pa

/-- The leaf permits the access (04 R118 order 4). -/
def permits (k : AKind) (e : Word) : Bool :=
  match k with
  | .read => leafRd e
  | .write => leafWr e
  | .fetch => leafEx e
  | .atomic => leafRd e && leafWr e

/-- What a walk ends in: a leaf, its level, its address and the tables read; or the cause of orders 1 and 2. -/
inductive WalkRes where
  | leaf (level : Nat) (e : Word) (at_ : Nat) (tables : List Nat)
  | fail (cause : BitVec 8)

/-- An entry that points to a table is well formed: reserved bits [63:56], [12:11], [9:1] (04 R116). -/
def pointerOk (e : Word) : Bool := bits e 56 8 == 0 && bits e 11 2 == 0 && bits e 1 9 == 0

/-- A leaf is well formed: reserved bits, memory type, frame alignment and place (04 R118 order 1). -/
def leafOk (level : Nat) (e : Word) : Bool :=
  bits e 56 8 == 0 && !bitAt e 11 && leafMT e != 3 && leafFrame e % 2 ^ pageBits level == 0 &&
  (leafFar e || decide (leafFrame e + 2 ^ pageBits level ≤ hbmTop))

/-- The walk from the table at level `l` (04 R115 R118). -/
def walk (s : State) (va : Nat) : Nat → Nat → List Nat → WalkRes
  | 0, t, seen =>
    if hbmTop < t + 8192 then .fail Cause.walkError else
    let a := t + 8 * (va / 2 ^ 16 % 1024)
    let e : Word := BitVec.ofNat 64 (s.peekNat a 8)
    if s.poisonAt a then .fail Cause.walkError
    else if !leafV e then .fail Cause.pageNotPresent
    else if bitAt e 10 && leafOk 0 e then .leaf 0 e a (t :: seen)
    else .fail Cause.walkError
  | l + 1, t, seen =>
    if hbmTop < t + 8192 then .fail Cause.walkError else
    let a := t + 8 * (va / 2 ^ pageBits (l + 1) % 1024)
    let e : Word := BitVec.ofNat 64 (s.peekNat a 8)
    if s.poisonAt a then .fail Cause.walkError
    else if !leafV e then .fail Cause.pageNotPresent
    else if bitAt e 10 then
      if l + 1 = 3 || !leafOk (l + 1) e then .fail Cause.walkError else .leaf (l + 1) e a (t :: seen)
    else if pointerOk e then walk s va l (bits e 13 43 * 2 ^ 13) (t :: seen)
    else .fail Cause.walkError

/-- The partition owns the granule of a place, and it is not being zeroed (04 R112 R118 R129). -/
def State.ownsKey (s : State) (p : Nat) (k : Nat) : Bool :=
  match s.cfg p with
  | none => false
  | some c => c.granules.contains (k / 2 ^ 30) && !(s.dev.zeroing.any fun z => z.1 == k / 2 ^ 30)

/-- The granule of a place is being zeroed for a new owner (04 R129). -/
def State.zeroingKey (s : State) (k : Nat) : Bool := s.dev.zeroing.any fun z => z.1 == k / 2 ^ 30

/-- The checks of orders 1 to 3 for an access, from memory (04 R118): every table, the frame and the granule the access falls
in belong to the partition. -/
def walkChecked (s : State) (ag : Agent) (va : Nat) : WalkRes :=
  match walk s va 3 (bits ag.root 13 43 * 2 ^ 13) [] with
  | .fail c => .fail c
  | .leaf l e a ts =>
    if ag.bounds && !((ts.all fun t => s.ownsKey ag.part t) &&
        (leafFar e || (s.ownsKey ag.part (leafFrame e) && s.ownsKey ag.part (leafKey l e va))))
    then .fail Cause.partitionBounds
    else .leaf l e a ts

/-- Where an access lands: its place, whether it is far, and its leaf. -/
structure Loc where
  key : Nat
  far : Bool
  leaf : Word
  deriving DecidableEq, Repr, Inhabited

/-- Orders 4 to 7 for an access through a leaf (04 R118). -/
def throughLeaf (s : State) (ag : Agent) (k : AKind) (va : Word) (level : Nat) (e : Word) : Act Loc :=
  if !permits k e then .fault Cause.pageProtection va s
  else if k.writes && leafWB e && !leafWBF e then .wait s
  else if k.writes && leafWB e then .fault Cause.pageWriteBlocked va s
  else if ag.tierFault && leafFar e then .fault Cause.tierFault va s
  else .ok ⟨leafKey level e va.toNat, leafFar e, e⟩ s

/-- Translates for a unit that keeps no TLB: it walks each time, and sets neither A nor D (04 R118 R120; log 12). -/
def translateWalk (ag : Agent) (k : AKind) (va : Word) (s : State) : Act Loc :=
  match walkChecked s ag va.toNat with
  | .fail c => if c = Cause.pageNotPresent then .fault c va s else .trap c va s
  | .leaf l e _ _ => throughLeaf s ag k va l e

/-! The tier monitor (04 R125). -/

/-- Counts `n` blocks of a monitored far page in the monitor of a die. -/
def State.countFar (s : State) (die : Nat) (p : Fin 8) (va : Word) (n : Nat) : State :=
  s.modDie die fun d => { d with monitor := d.monitor.map fun e =>
    if e.2.part == p && e.2.page.toNat / 2 ^ 16 == va.toNat / 2 ^ 16
    then
      let v := min 0xFFFF (e.2.count.toNat + n)
      (e.1, { e.2 with count := BitVec.ofNat 16 v,
                       crossed := e.2.crossed || (decide (e.2.count.toNat < d.tnthresh.toNat) && decide (d.tnthresh.toNat ≤ v)) })
    else e }

/-! Configured areas and rings of a partition (14 R433 R458). Areas: 0 ERRRING, 1 TFRING, 2 TNRING, 3 DMAP, 4 DRING,
5 DBGQ. -/

/-- An agent for the device's own accesses to a partition's memory (14 R458). -/
def areaAgent (p : Fin 8) (c : PartCfg) : Agent :=
  { core := 0, part := p, root := c.troot, engine := true, bounds := true, tlb := false, scope := 3, tierFault := false }

/-- A service register ring of a die: an entry of 32 bytes at SERR (14 R434 R437; log 13). -/
def postService (s : State) (die : Nat) (entry : List Byte) : State :=
  let r := (s.die die).serr
  let base := bits r 6 58 * 64
  let cap := (2 ^ bits r 0 6 - 64) / 32
  if base = 0 || cap = 0 then s else
  let prod := s.peekNat base 8
  let cons := s.peekNat (base + 8) 8
  if prod - cons ≥ cap then s.poke (base + 16) (toBytes 4 (s.peekNat (base + 16) 4 + 1))
  else
    let s := s.poke (base + 64 + 32 * (prod % cap)) entry
    s.poke base (toBytes 8 (prod + 1))

/-- A unit identifier (13 R398). -/
def unitId (core unit : Nat) : Nat := core % 512 + 512 * unit

/-- An error-report entry (14 R437). -/
def reportEntry (cause : BitVec 8) (sev unit part : Nat) (unitv : Bool) (pc addr : Word) (time : Nat) : List Byte :=
  [cause, BitVec.ofNat 8 sev] ++ toBytes 2 unit ++ [BitVec.ofNat 8 part, BitVec.ofNat 8 (boolBit unitv), 0, 0] ++
  toBytes 8 pc.toNat ++ toBytes 8 addr.toNat ++ toBytes 8 time

/-- The place of byte `va` of a configured area: both Rd and Wr are needed. A failed walk posts one entry of severity 3
to the service ring of the die that needed it, until a walk of that area succeeds (14 R458). A page that blocks writes is no failed walk:
an entry of ERRRING or TNRING waits for it (04 R118; log 49), the other areas wait as for a failed walk. -/
def areaKey (s : State) (p : Fin 8) (area : Nat) (va : Word) (die : Nat := dieOf s.core.id) : Option Nat × State :=
  match s.cfg p with
  | none => (none, s)
  | some c =>
    match translateWalk (areaAgent p c) .atomic va s with
    | .ok l s => (some l.key, s.modPart p fun q => { q with areaDown := q.areaDown &&& ~~~(BitVec.ofNat 6 (2 ^ area)) })
    | .trap cause _ s | .fault cause _ s =>
      if (s.part p).areaDown.getLsbD area then (none, s)
      else
        let s := postService s die (reportEntry cause 3 0 p.val false 0 va s.clock)
        (none, s.modPart p fun q => { q with areaDown := q.areaDown ||| BitVec.ofNat 6 (2 ^ area) })
    | .wait s => (none, if area = 0 ∨ area = 2 then { s with dev := { s.dev with stalled := some (p, hostKey 0) } } else s)

/-- What posting to a ring ends in. -/
inductive Posted where
  | done (index : Nat) | full | unmapped
  deriving DecidableEq, Repr

/-- An access of a die to place `k`, at `va`, counts in its tier monitor where the place is far (04 R125). -/
def State.countPlace (s : State) (die : Nat) (p : Fin 8) (va : Word) (k : Nat) : State := if isHost k then s.countFar die p va 1 else s

/-- Sets the dirty bits of the pages that the next entry of a ring and its header, at place `k`, stand in. Where that has appended to this
same ring, the entry has a later place, whose page is marked in turn. -/
def markSlot (mark : State → List Nat → State) (p : Fin 8) (area : Nat) (va : Word) (len cap k die : Nat) : Nat → State → State
  | 0, s => s
  | n + 1, s =>
    let prod := s.peekNat k 8
    match areaKey s p area (va + BitVec.ofNat 64 (64 + len * (prod % cap))) die with
    | (none, s) => s
    | (some ke, s) =>
      let s := mark s [ke, k]
      if s.peekNat k 8 = prod then s else markSlot mark p area va len cap k die n s

/-- Posts an entry to a ring of a partition, counting a drop when `drop` is set (14 R433); `mark` sets the dirty bits of the
pages it writes first, and may itself have appended to the ring (04 R128). The ring is 2^LOG2 bytes, its 64-byte header included (log 14);
a die's accesses to a far ring are the read of its header, the entry's write and the header's (04 R125). -/
def postMarked (mark : State → List Nat → State) (s : State) (p : Fin 8) (area : Nat) (drop : Bool) (entry : List Byte)
    (die : Nat := dieOf s.core.id) : Posted × State :=
  match s.cfg p with
  | none => (.unmapped, s)
  | some c =>
    let va := c.areas.getD area 0
    let cap := (2 ^ c.log2s.getD area 0 - 64) / entry.length
    if va = 0 || cap = 0 then (.unmapped, s) else
    match areaKey s p area va die with
    | (none, s) => (.unmapped, s)
    | (some k, s) =>
      let s := s.countPlace die p va k
      let s := if s.peekNat k 8 - s.peekNat (k + 8) 8 ≥ cap then s else markSlot mark p area va entry.length cap k die 4 s
      let prod := s.peekNat k 8
      let cons := s.peekNat (k + 8) 8
      if prod - cons ≥ cap then
        (.full, if drop then ((mark s [k]).countPlace die p va k).poke (k + 16) (toBytes 4 (s.peekNat (k + 16) 4 + 1)) else s)
      else
        let at_ := va + BitVec.ofNat 64 (64 + entry.length * (prod % cap))
        match areaKey s p area at_ die with
        | (none, s) => (.unmapped, s)
        | (some ke, s) =>
          let s := (s.countPlace die p at_ ke).countPlace die p va k
          (.done prod, (s.poke ke entry).poke k (toBytes 8 (prod + 1)))

/-! The dirty bitmap and ring (04 R127 R128). -/

/-- The partition-relative number of the 64 KiB page of an HBM place. -/
def PartCfg.pageIndex (c : PartCfg) (k : Nat) : Option Nat :=
  match c.granules.findIdx? fun g => g == k / 2 ^ 30 with
  | some i => some (i * 16384 + k % 2 ^ 30 / 2 ^ 16)
  | none => none

/-- Dirty logging is on for the partition. -/
def PartCfg.dlog (c : PartCfg) : Bool := c.flags.getLsbD 1
/-- The MIGR flag (14 R426). -/
def PartCfg.migr (c : PartCfg) : Bool := c.flags.getLsbD 2

/-- Sets the bit of page `i` of a partition by an atomic OR, which moves a block of a far bitmap: whether it was 0; none where the
bitmap's page does not translate. The bitmap's own update sets no bit. -/
def setPageBit (s : State) (p : Fin 8) (c : PartCfg) (i : Nat) : Option Bool × State :=
  let at_ := c.areas.getD 3 0 + BitVec.ofNat 64 (i / 8)
  match areaKey s p 3 at_ with
  | (none, s) => (none, s)
  | (some kb, s) =>
    let s := s.countPlace (dieOf s.core.id) p at_ kb
    let b := (getByte s.mem kb).toNat
    if b / 2 ^ (i % 8) % 2 = 1 then (some false, s) else (some true, s.poke kb [BitVec.ofNat 8 (b + 2 ^ (i % 8))])

/-- Sets the bits of the pages that the device writes as it posts to a ring, or as an L1 writes back, with the entries of the dirty ring.
Where the bitmap does not translate or the ring has no room, the write stalls: the turn that makes it is undone and comes again. The
report of the full ring itself cannot wait for it (`wait` false): its page's bit alone is set (log 49). -/
def markPosted : Nat → Bool → Fin 8 → State → List Nat → State
  | 0, _, _, s, _ => s
  | n + 1, wait, p, s, ks => ks.foldl (fun s k =>
    match s.cfg p with
    | none => s
    | some c =>
      if !c.dlog || !isHbm k then s else
      match c.pageIndex k with
      | none => s
      | some i =>
        let stall := fun (s : State) => if wait then { s with dev := { s.dev with stalled := some (p, k) } } else s
        match setPageBit s p c i with
        | (some true, s) =>
          if c.areas.getD 4 0 = 0 then s else
          (match postMarked (markPosted n wait p) s p 4 false (toBytes 8 i) with
          | (.done _, s) => s
          | (_, s) => stall s)
        | (some false, s) => s
        | (none, s) => stall s) s

/-- Posts an entry to a ring of a partition; the appends to the dirty ring that this causes end after one round (04 R127 R128). -/
def postRing (s : State) (p : Fin 8) (area : Nat) (drop : Bool) (entry : List Byte) (die : Nat := dieOf s.core.id) (wait : Bool := true) :
    Posted × State :=
  postMarked (markPosted 3 wait p) s p area drop entry die

/-- Sets or clears the partition's DIVERGED flag, which the device writes into bit 4 of PFLAGS of its configuration record too (12 R368, 14
R433). -/
def State.setDiverged (s : State) (p : Fin 8) (b : Bool) : State :=
  let s := s.modPart p.val fun v => { v with diverged := b }
  match s.cfg p.val with
  | none => s
  | some c => s.poke (c.at_.toNat + 5) [BitVec.ofNat 8 (setBits (BitVec.ofNat 64 (s.peekNat (c.at_.toNat + 5) 1)) 4 1 (boolBit b)).toNat]

/-- FWEVENT's pending bits of a die (13 R421, 14 R434). -/
def State.fwEvent (s : State) (die bit : Nat) : State :=
  s.modDie die fun d => { d with fwpend := d.fwpend ||| BitVec.ofNat 7 (2 ^ bit) }

/-- Posts an error report (14 R437): to the partition's ring, or to the die's service ring; severity 3 goes to both. -/
def report (s : State) (part : Option (Fin 8)) (die : Nat) (cause : BitVec 8) (sev unit : Nat) (unitv : Bool)
    (pc addr : Word) (wait : Bool := true) : State :=
  let e := reportEntry cause sev unit (match part with | some p => p.val | none => 0xFF) unitv pc addr s.clock
  let s := match part with
    | some p => (postRing s p 0 true e die wait).2.fwEvent die 1
    | none => s
  if part.isNone || sev = 3 then (postService s die e).fwEvent die 1 else s

/-- Sets the dirty bit of the page of place `k` before a write to it, and appends to the dirty ring on a change from 0 to
1. False: the write stalls (a full ring, which DIRTY_LOG_FULL reports once, or an area that does not translate). -/
def markDirtyKey (s : State) (p : Fin 8) (k : Nat) : Bool × State :=
  match s.cfg p with
  | none => (true, s)
  | some c =>
    if !c.dlog || !isHbm k then (true, s) else
    match c.pageIndex k with
    | none => (true, s)
    | some i =>
      match setPageBit s p c i with
      | (none, s) => (false, s)
      | (some false, s) => (true, s)
      | (some true, s1) =>
        if c.areas.getD 4 0 = 0 then (true, s1) else
        match postRing s1 p 4 false (toBytes 8 i) with
        | (.done _, s) => (true, s.modPart p fun q => { q with dringFull := false })
        | (.full, _) =>
          (false, if (s.part p).dringFull then s else
            (report s (some p) (dieOf s.core.id) Cause.dirtyLogFull 4 0 false 0 0 (wait := false)).modPart p fun q => { q with dringFull := true })
        | (.unmapped, _) => (false, s)

/-- As `markDirtyKey` for each 64 KiB page of a list of places; false as soon as one stalls. -/
def markDirty (s : State) (p : Fin 8) : List Nat → Bool × State
  | [] => (true, s)
  | k :: r => match markDirtyKey s p k with
    | (false, s) => (false, s)
    | (true, s) => markDirty s p r

/-! TLBs (04 R121). -/

/-- The entry maps the virtual address for the partition. -/
def TlbEntry.hits (t : TlbEntry) (p : Fin 8) (va : Nat) : Bool :=
  t.part == p && va / 2 ^ pageBits t.level.val == t.page

/-- The core's entry for an address, else its cluster's. -/
def State.tlbFind (s : State) (ag : Agent) (va : Nat) : Option TlbEntry :=
  match (s.coreAt ag.core).tlb.find? fun t => t.hits ag.part va with
  | some t => some t
  | none => (sget s.dev.ctlb [] (clusterId ag.core)).find? fun t => t.hits ag.part va

/-- Installs an entry in the core's and its cluster's TLB; a full TLB drops its oldest entry (log 12). -/
def State.tlbInstall (s : State) (c : Nat) (t : TlbEntry) : State :=
  let keep := fun (l : List TlbEntry) => l.filter fun u => !(u.part == t.part && u.page == t.page && u.level == t.level)
  let s := s.modCoreAt c fun k => { k with tlb := (t :: keep k.tlb).take 64 }
  { s with dev := { s.dev with
      ctlb := sset s.dev.ctlb [] (clusterId c) ((t :: keep (sget s.dev.ctlb [] (clusterId c))).take 4096) } }

/-- The entry in memory still has V = 1 and the frame of the leaf `e` (04 R120). -/
def sameEntry (s : State) (at_ : Nat) (e : Word) : Bool :=
  let m : Word := BitVec.ofNat 64 (s.peekNat at_ 8)
  leafV m && leafFrame m == leafFrame e

/-- Sets A, or A and D, in the leaf at `at_` by one atomic OR, a write like any other for the dirty bitmap, and installs the leaf
as it then stands. False: the OR stalls (04 R120 R121 R127). -/
def installLeaf (s : State) (ag : Agent) (va : Nat) (level : Nat) (at_ : Nat) (d : Bool) : Bool × State :=
  let e : Word := BitVec.ofNat 64 (s.peekNat at_ 8)
  let new := setBits (if d then setBits e 7 1 1 else e) 8 1 1
  let t : TlbEntry := ⟨ag.part, va / 2 ^ pageBits level, Fin.ofNat 3 level, new, at_⟩
  if new = e then (true, s.tlbInstall ag.core t) else
  match markDirtyKey s ag.part at_ with
  | (false, s) => (false, s)
  | (true, s) => (true, (s.poke at_ (toBytes 8 new.toNat)).tlbInstall ag.core t)

/-- Translates by a walk: the leaf is installed with A set, and with D for a write, once the access may use it. The leaf of a
write that WB blocks is not installed, nor that of a fault (04 R120 R121). -/
def walkInstall (ag : Agent) (k : AKind) (va : Word) (s : State) : Act Loc :=
  match walkChecked s ag va.toNat with
  | .fail c => if c = Cause.pageNotPresent then .fault c va s else .trap c va s
  | .leaf l e a _ => (throughLeaf s ag k va l e).bind fun r s =>
    match installLeaf s ag va.toNat l a k.writes with
    | (true, s) => .ok r s
    | (false, s) => .wait s

/-- Translates a global virtual address (04 R118 to R121). A TLB entry serves an access that it permits, inside the partition's granules and
outside one that is being zeroed; before the first write through it, D is set in its leaf, and where that leaf has changed the walker walks
again. -/
def translate (ag : Agent) (k : AKind) (va : Word) (s : State) : Act Loc :=
  if !ag.tlb then translateWalk ag k va s else
  match s.tlbFind ag va.toNat with
  | none => walkInstall ag k va s
  | some t =>
    let e := t.leaf
    let at_ := leafKey t.level.val e va.toNat
    if !permits k e || (k.writes && leafWB e) || (!leafFar e && (s.zeroingKey at_ || (ag.bounds && !s.ownsKey ag.part at_))) ||
       (k.writes && !leafD e && !sameEntry s t.entryAt e) then walkInstall ag k va s
    else (throughLeaf s ag k va t.level.val e).bind fun r s =>
      if !k.writes || leafD e then .ok r s else
      match installLeaf s ag va.toNat t.level.val t.entryAt true with
      | (true, s) => .ok r s
      | (false, s) => .wait s

/-- The partition whose granule holds a place: `p` if it owns it, else the first that does. -/
def State.ownerOf (s : State) (k : Nat) : Option (Fin 8) :=
  (List.finRange 8).find? fun q => match s.cfg q with
    | some c => c.granules.contains (k / 2 ^ 30)
    | none => false

/-! Conflicts with transactions (12 R386). -/

/-- The core lies inside the instance of scope `sc` (1 cluster, 2 die) that holds core `c`. -/
def sameInstance (sc : Nat) (c d : Nat) : Bool :=
  if sc = 0 then c == d else if sc = 1 then clusterId c == clusterId d else if sc = 2 then dieOf c == dieOf d else true

/-- The core's L1 writes back what it holds of the blocks that `p` picks, so that CINV cannot take those stores back. -/
def Core.cleanL1 (p : Nat → Bool) (c : Core) : Core := { c with l1 := c.l1.filter fun e => !p (e.1 / 64) }

/-- Places of the blocks that `p` picks which the core's L1 holds apart from L2. -/
def Core.dirtyL1 (p : Nat → Bool) (c : Core) : List Nat := (c.l1.map Prod.fst).filter fun k => p (k / 64)

/-- The dirty bits of places that are written back, in the bitmap of the partition that owns each (04 R127). -/
def State.markBack (s : State) (ks : List Nat) : State :=
  ks.foldl (fun s k => match s.ownerOf k with
    | some p => markPosted 3 true p s [k]
    | none => s) s

/-- The L1s of the cores that `inside` picks write back what they hold of the blocks that `p` picks (04 R127 R145). -/
def State.writeBackL1 (s : State) (inside p : Nat → Bool) : State :=
  let f := fun (c : Core) => if inside c.id then c.cleanL1 p else c
  let held := fun (c : Core) => if inside c.id then c.dirtyL1 p else []
  match held s.core ++ s.others.flatMap fun e => held e.2 with
  | [] => s
  | ks => let s := s.markBack ks; { s with core := f s.core, others := s.others.map fun e => (e.1, f e.2) }

/-- The stores to the block of place `key` by the cores that `inside` picks have their places in L2 (04 R145). -/
def State.cleanBlock (s : State) (inside : Nat → Bool) (key : Nat) : State := s.writeBackL1 inside (· == key / 64)

/-- The transaction after an access of another agent to the block of `key`: they conflict where either writes it; a read of a block that it
has only read so far is kept, for it conflicts with a later write of the transaction (12 R386). -/
def Tx.meet (t : Tx) (key : Nat) (write : Bool) : Tx :=
  let b := key / 64
  if t.writes.contains b || (write && t.reads.contains b) then { t with conflict := true }
  else if t.reads.contains b && !t.others.contains b then { t with others := t.others ++ [b] } else t

/-- Marks every transaction that an access meets, one whose commit waits for its window's close included: an access at scope `sc` by an
agent at core `from_`, which is the strand of core `self` if any. A write wider than `core` acts in L2, and no L1 keeps its block
apart. -/
def noteAccess (s : State) (from_ : Nat) (self : Option Nat) (sc : Nat) (key : Nat) (write : Bool) : State :=
  let s := if write && sc != 0 then s.cleanBlock (fun _ => true) key else s
  let none_ := fun (c : Core) => c.tx.isNone && c.win.commit.isNone
  let hit := fun (c : Core) =>
    let ts := bits c.r.sr.txstate 3 2
    if !none_ c && self ≠ some c.id && ts ≤ sc && sameInstance ts c.id from_
    then { c with tx := c.tx.map fun t => t.meet key write, win := { c.win with commit := c.win.commit.map fun t => t.meet key write } } else c
  if (none_ s.core && s.others.all fun e => none_ e.2) then s
  else { s with core := hit s.core, others := s.others.map fun e => (e.1, hit e.2) }

end Sys2Proof.Machine
end

