-- ==== Sys2Proof/Machine/Regs.lean ====
section
/-! DEFINITION. Registers: names by mode, valid bits, matrix registers, tiles as the strand sees them, queue status, and
every state register an MFS reads or an MTS writes (05 R148 to R151 R171; 01 R29; 12 R353 R354; 14 R423 R434). -/

namespace Sys2Proof.Machine

/-! Names and values. -/

/-- Register numbers 60 to 63 name y0 to y3 in strand mode (02 R62). -/
def Core.xname (c : Core) (r : Fin 64) : Reg :=
  if c.mode = .strand ∧ 60 ≤ r.val then .y (Fin.ofNat 4 (r.val - 60)) else .x r

/-- A y name is readable at its landing beat and the beat after (02 R64). -/
def Core.yLive (c : Core) (k : Fin 4) : Bool :=
  match (c.y.get k).beat with
  | some b => decide (c.beat = b) || decide (c.beat = b + 1)
  | none => false

/-- The value a slot reads from an x field (02 R61 R62 R64). -/
def Core.readX (c : Core) (r : Fin 64) : Word :=
  match c.xname r with
  | .y k => if c.yLive k then (c.y.get k).val else 0
  | _ => if r = 0 then 0 else c.r.x.get r

/-- The value of an x field in the machine's present core. -/
def State.x (s : State) (r : Fin 64) : Word := s.core.readX r

/-- A predicate; p0 reads 1 (02 R61). -/
def State.p (s : State) (r : Fin 16) : Bool := r = 0 || s.core.r.p.getLsbD r.val

/-- Valid bits (02 R61 R63): x0 and p0 have none and are always readable; so are names without a valid bit. -/
def Core.valid (c : Core) (r : Reg) : Bool :=
  match r with
  | .x r => r = 0 || c.r.xv.getLsbD r.val
  | .p r => r = 0 || c.r.pv.getLsbD r.val
  | .bt r => c.r.btv.getLsbD r.val
  | .m r => (c.r.m.get r).valid
  | _ => true

/-- Sets a bit of a bit vector. -/
def setBit {n : Nat} (v : BitVec n) (k : Nat) (b : Bool) : BitVec n :=
  if b then v ||| BitVec.ofNat n (2 ^ k) else v &&& ~~~(BitVec.ofNat n (2 ^ k))

/-- Element (i, j) of line `l` in lane `k` (02 R58): its row and column. -/
def lineAt (l : Line) (k : Nat) : Nat × Nat :=
  match l.dir with
  | 0 => (l.line.val, k)
  | 1 => (k, l.line.val)
  | 2 => (k, (k + l.line.val) % 32)
  | 3 => (k, (l.line.val + 32 - k) % 32)

/-- The key of lane `k` of a line within its register. -/
def lineKey (l : Line) (k : Nat) : Nat := 32 * (lineAt l k).1 + (lineAt l k).2

/-- The 32 elements of a line, element j in lane j; an invalid register's elements are 0 (07 R217). -/
def State.lineElems (s : State) (l : Line) : List W32 :=
  let m := s.core.r.m.get l.m
  (List.range 32).map fun k => if m.valid then sget m.cells 0 (lineKey l k) else 0

/-- Writes elements of a matrix register: the first write of an invalid one zero-fills the rest (02 R63, 07 R217 R222). -/
def MReg.write (m : MReg) (cs : List (Nat × W32)) : MReg :=
  { cells := cs.foldl (fun a c => sset a 0 c.1 c.2) (if m.valid then m.cells else []), valid := true, power := .on }

/-! Tiles. -/

/-- A tile entry in the layout of 01 R34. -/
def Tile.word (t : Tile) : Word :=
  let st := match t.state with | .empty => 0 | .filling => 1 | .ready => 2 | .draining => 3
  BitVec.ofNat 64 (t.base.toNat + t.size.toNat * 2 ^ 21 + st * 2 ^ 36 + boolBit t.phase * 2 ^ 38 +
    t.owner.toNat * 2 ^ 39 + t.readers.toNat * 2 ^ 42)

/-- A tile from a word of that layout. -/
def Tile.ofWord (w : Word) : Tile :=
  { base := BitVec.ofNat 21 (bits w 0 21), size := BitVec.ofNat 15 (bits w 21 15),
    state := match bits w 36 2 with | 0 => .empty | 1 => .filling | 2 => .ready | _ => .draining,
    phase := bitAt w 38, owner := BitVec.ofNat 3 (bits w 39 3), readers := BitVec.ofNat 6 (bits w 42 6) }

/-- A release (01 R35): READY passes to DRAINING while it has readers, else to EMPTY. -/
def Tile.release (t : Tile) : Tile :=
  match t.state with
  | .ready => { t with state := if t.readers = 0 then .empty else .draining }
  | _ => t

/-- Applies a pending change (06 R214 R215). -/
def applyTile (v : Vector Tile 64) (c : TileChange) : Vector Tile 64 :=
  match c with
  | .define t w => v.set t w
  | .setReady t => v.set t { v.get t with state := .ready }
  | .release t => v.set t (v.get t).release

/-- The tile table as the strand sees it: pending changes applied in program order (06 R214). -/
def Core.tileView (c : Core) : Vector Tile 64 := c.ttPend.foldl applyTile c.tiles

/-! Queue status (01 R29). -/

/-- The engine mask of a marker, and 0 for a command. -/
def markerMask : Instr → Nat
  | .qfence _ _ m => m.val
  | .esignal _ _ _ m _ => m.val
  | .esignalAdd _ _ _ m _ => m.val
  | .ecancel _ _ m => m.val
  | _ => 0

def isQfence : Instr → Bool
  | .qfence _ _ _ => true
  | _ => false

/-- Every command of engines 0 to 4 that is in its queue, ETREL markers excepted. -/
def isEtrel : Instr → Bool
  | .etrel _ _ _ _ => true
  | _ => false

def Engines.queue (e : Engines) (q : Nat) : List Cmd := e.queues.toList.getD q []
def Engines.setQueue (e : Engines) (q : Nat) (v : List Cmd) : Engines :=
  { e with queues := e.queues.mapFinIdx fun i w _ => if i = q then v else w }

/-- Commands and markers in a queue (01 R29 DEPTH). -/
def Engines.depth (e : Engines) (q : Nat) : Nat :=
  (e.queue q).length + (e.signals.filter fun c => q < 5 && markerMask c.instr / 2 ^ q % 2 == 1).length

/-- The commands of engines 0 to 4 that hold interval entries (01 R32). -/
def Engines.commands (e : Engines) : List Cmd :=
  ((List.range 5).map fun q => (e.queue q).filter fun c => !isEtrel c.instr).flatten

def Box.overlaps (a b : Box) : Bool := decide (a.lo < b.hi) && decide (b.lo < a.hi) && (a.wr || b.wr)

/-- A command is held by the interval table (01 R33). -/
def Engines.hazard (e : Engines) (c : Cmd) : Bool :=
  e.commands.any fun o => decide (o.seq < c.seq) && c.boxes.any fun x => o.boxes.any fun y => x.overlaps y

/-- A command is held by a QFENCE marker that names its queue (04 R141). -/
def Engines.fenced (e : Engines) (q : Nat) (c : Cmd) : Bool :=
  e.signals.any fun f => isQfence f.instr && decide (f.seq < c.seq) && markerMask f.instr / 2 ^ q % 2 == 1

/-- A tile change of the open window names the tile. -/
def TileChange.tile : TileChange → Fin 64
  | .define t _ | .setReady t | .release t => t

/-- A command waits for a tile (01 R35): a change of it is pending, or, for a command that has not started yet, a written
tile is not EMPTY or a read one not READY. -/
def Core.tileHold (k : Core) (c : Cmd) : Bool :=
  c.tiles.any fun t => (k.ttPend.any fun ch => ch.tile == t.1) ||
    (!c.started && (if t.2 then (k.tiles.get t.1).state != .empty else (k.tiles.get t.1).state != .ready))

/-- HOLD of a queue: 1 interval table, 2 tile, 3 QFENCE (01 R29). An older QFENCE marker stands at the head, before the command. -/
def Core.hold (k : Core) (q : Nat) : Nat :=
  match k.eng.queue q with
  | [] => if k.eng.signals.any fun c => isQfence c.instr && markerMask c.instr / 2 ^ q % 2 == 1 then 3 else 0
  | c :: _ =>
    if c.running then 0
    else if k.eng.fenced q c then 3
    else match c.instr with
      | .etrel _ _ t _ => if k.ttPend.any fun ch => ch.tile == t then 2 else 0
      | _ => if k.eng.hazard c then 1 else if k.tileHold c then 2 else 0

/-- Word `w` of the status block of queue `q`. -/
def Core.qstatWord (k : Core) (q w : Nat) : Word :=
  let t := k.eng.stat.toList.getD q ⟨0, false, 0, 0, 0⟩
  match w with
  | 0 => BitVec.ofNat 64 (t.lcause.toNat * 2 ^ 16 + boolBit t.lcv * 2 ^ 8 + k.hold q * 2 ^ 5 + min 31 (k.eng.depth q))
  | 1 => t.lpc
  | 2 => t.canceln
  | _ => t.faultn

/-! Reading state registers. -/

def vget {n : Nat} (v : Vector Word n) (i : Nat) : Word := v.toList.getD i 0
def vset {α : Type} {n : Nat} (v : Vector α n) (i : Nat) (w : α) : Vector α n := v.mapFinIdx fun j a _ => if j = i then w else a

def Mode.code : Mode → Nat
  | .strand => 0 | .supervisor => 1 | .service => 2
def Mode.ofCode : Nat → Mode
  | 1 => .supervisor | 2 => .service | _ => .strand

/-- LOGMODE as read (12 R354). -/
def State.logmode (s : State) : Word :=
  let c := s.core
  let m := setBits c.log.mode 4 1 (boolBit (s.part c.partOf.val).diverged)
  setBits m 5 1 (boolBit c.replay.isSome)

/-- The state registers of 05 R148, 07 R224 and 06 R195. -/
def State.readStrand (s : State) (n : Nat) : Option Word :=
  let c := s.core
  let r := c.r
  if n = 0 then some r.sr.fela else if n = 1 then some r.sr.feli else if n = 2 then some r.sr.fels
  else if n = 3 then some r.sr.vctl else if n = 4 then some c.cir else if n = 5 then some c.crec
  else if n = 6 then some c.sinfo else if n = 7 then some (BitVec.ofNat 64 c.id) else if n = 8 then some r.sr.win
  else if n = 9 then some (BitVec.ofNat 64 (boolBit c.hack)) else if n = 0xA then some r.sr.segexp
  else if n = 0xB then some r.sr.segrun else if n = 0xC then some c.wdcnt
  else if n = 0xD then some (BitVec.ofNat 64 c.mode.code)
  else if 0x10 ≤ n ∧ n < 0x14 then some ((r.lc.toList.getD (n - 0x10) 0).setWidth 64)
  else if 0x14 ≤ n ∧ n < 0x18 then some (vget r.sr.lstart (n - 0x14))
  else if 0x18 ≤ n ∧ n < 0x1C then some (vget r.sr.lend (n - 0x18))
  else if n = 0x1C then some r.sr.lact else if n = 0x1D then some r.sr.txstate
  else if 0x20 ≤ n ∧ n < 0x30 then
    some (if n % 2 = 0 then vget c.pwbase ((n - 0x20) / 2) else vget c.pwsize ((n - 0x20) / 2))
  else if 0x30 ≤ n ∧ n < 0x35 then some (vget c.eqcnt (n - 0x30))
  else if 0x40 ≤ n ∧ n < 0xC0 then some (vget r.ag (n - 0x40))
  else if 0xC0 ≤ n ∧ n < 0x100 then some (vget r.xp (n - 0xC0))
  else none

/-- The state registers of the engines (01 R14 R29, 08 R264, 09 R299, 12 R354 R378). -/
def State.readEngine (s : State) (n : Nat) : Option Word :=
  let c := s.core
  let prog := fun (e : Nat) => some (vget (c.eng.prog.toList.getD e (Vector.replicate 16 0)) (n % 16))
  if 0x100 ≤ n ∧ n < 0x110 then prog 0 else if 0x120 ≤ n ∧ n < 0x130 then prog 1
  else if 0x140 ≤ n ∧ n < 0x150 then prog 2 else if n = 0x150 then some c.eng.fetches
  else if 0x160 ≤ n ∧ n < 0x170 then prog 3 else if 0x180 ≤ n ∧ n < 0x190 then prog 4
  else if 0x1A0 ≤ n ∧ n < 0x200 then (if n % 16 < 4 then some (c.qstatWord ((n - 0x1A0) / 16) (n % 16)) else none)
  else if n = 0x200 then some c.log.base else if n = 0x201 then some c.log.size else if n = 0x202 then some c.log.head
  else if n = 0x203 then some c.log.tail else if n = 0x204 then some s.logmode else if n = 0x205 then some c.log.horizon
  else if n = 0x206 then some c.log.done else if n = 0x207 then some c.log.stamp else if n = 0x208 then some c.log.irrcnt
  else if n = 0x209 then some c.log.cur else if n = 0x210 then some c.log.trbase else if n = 0x211 then some c.log.trctl
  else if n = 0x212 then some c.log.trcons
  else if 0x280 ≤ n ∧ n < 0x288 then some (vget c.eng.cyc (n - 0x280))
  else if 0x288 ≤ n ∧ n < 0x28D then some (vget c.eng.cens (n - 0x288))
  else none

/-- The HACK bits of sites `lo` to `lo + n - 1` of a die (14 R434). -/
def State.hackBits (s : State) (die lo n : Nat) : Word :=
  BitVec.ofNat 64 (((List.range n).map fun i => boolBit (s.coreAt (coreOfSite die (lo + i))).hack * 2 ^ i).sum)

/-- The request a die's firmware core sees (14 R434). -/
def State.svcShown (s : State) (die : Nat) : Option (Nat × Word × List Word) :=
  match (s.die die).svcSite with
  | none => none
  | some b => ((s.coreAt (coreOfSite die b)).svc).map fun r => (b, r.1, r.2)

/-- The supervisor registers (14 R423) and the service registers (14 R434). -/
def State.readSystem (s : State) (n : Nat) : Option Word :=
  let c := s.core
  let t := c.sup
  let d := dieOf c.id
  let v := s.die d
  if n = 0x300 then some t.tvec else if n = 0x301 then some t.tcause else if n = 0x302 then some t.tpc
  else if n = 0x303 then some t.tfpc else if n = 0x304 then some t.tslot else if n = 0x305 then some t.twin
  else if n = 0x306 then some t.taddr else if n = 0x307 then some t.targ else if n = 0x308 then some t.tstatus
  else if n = 0x30A then some t.wdlimit else if n = 0x30B then some t.qmax else if n = 0x30C then some t.maxred
  else if n = 0x30D then some t.troot else if n = 0x30E then some t.tcmp
  else if 0x310 ≤ n ∧ n < 0x31D then some (vget t.tloop (n - 0x310))
  else if 0x320 ≤ n ∧ n < 0x324 then some (vget t.bkpt (n - 0x320))
  else if 0x324 ≤ n ∧ n < 0x326 then some (vget t.wpta (n - 0x324))
  else if 0x326 ≤ n ∧ n < 0x328 then some (vget t.wptl (n - 0x326))
  else if n = 0x380 then some (s.hackBits d 0 64) else if n = 0x381 then some (s.hackBits d 64 8)
  else if n = 0x382 then some (BitVec.ofNat 64 v.qmask.toNat)
  else if n = 0x383 then some (BitVec.ofNat 64 (v.qmask.toNat / 2 ^ 64))
  else if 0x388 ≤ n ∧ n < 0x390 then some (vget v.pcfg (n - 0x388))
  else if n = 0x390 then some (BitVec.ofNat 64 (v.fwen.toNat + v.fwpend.toNat * 2 ^ 32))
  else if n = 0x391 then some (v.tnthresh.setWidth 64) else if n = 0x392 then some v.serr
  else if n = 0x393 then some v.cethresh
  else if n = 0x394 then some (match s.svcShown d with
    | none => 0
    | some (b, m, _) => BitVec.ofNat 64 (b + 2 ^ 7 + m.toNat % 1024 * 2 ^ 8))
  else if 0x395 ≤ n ∧ n < 0x39C then some (match s.svcShown d with
    | none => 0
    | some (_, _, a) => a.getD (n - 0x395) 0)
  else if n = 0x39C then some 0
  else none

/-- state[n], none for a number no table lists (05 R148 R171). -/
def State.readState (s : State) (n : Nat) : Option Word :=
  if n < 0x100 then s.readStrand n else if n < 0x300 then s.readEngine n else s.readSystem n

/-! Writing state registers. -/

def State.modR (s : State) (f : Regs → Regs) : State := { s with core := { s.core with r := f s.core.r } }
def State.modSr (s : State) (f : StrandRegs → StrandRegs) : State := s.modR fun r => { r with sr := f r.sr }
def State.modSup (s : State) (f : SupRegs → SupRegs) : State := { s with core := { s.core with sup := f s.core.sup } }
def State.modLog (s : State) (f : LogRegs → LogRegs) : State := { s with core := { s.core with log := f s.core.log } }
def State.modEng (s : State) (f : Engines → Engines) : State := { s with core := { s.core with eng := f s.core.eng } }

/-- FELI: any write clears the entry (05 R149). -/
def writeFeli (s : State) : State := s.modSr fun r => { r with fela := 0, feli := 0 }

/-- LOGBASE (k = 0) and LOGSIZE (k = 1) take effect at the next boundary; LOG2 outside 12 to 40 is ignored (12 R353
R354). -/
def writeLogRing (k : Nat) (v : Word) (s : State) : State :=
  if s.core.mode = .strand then s
  else if k = 0 then s.modLog fun l => { l with nextBase := some (setBits v 0 12 0) }
  else if 12 ≤ bits v 0 6 ∧ bits v 0 6 ≤ 40 then s.modLog fun l => { l with nextSize := some (BitVec.ofNat 64 (bits v 0 6)) }
  else s

/-- The strand's agent in the core whose turn it is. -/
def strandAgent (s : State) (scope : Nat) : Agent :=
  { core := s.core.id, part := s.core.partOf, root := s.core.sup.troot, engine := false,
    bounds := s.core.mode != .service, tlb := true, scope := scope, tierFault := false }

/-- The address of byte count `b` in the log ring (12 R354). -/
def LogRegs.addr (l : LogRegs) (b : Nat) : Word := l.base + BitVec.ofNat 64 (b % 2 ^ bits l.size 0 6)

/-- Bytes of the log ring, read through the strand's translation; zeros where it does not translate. -/
def State.logBytes (s : State) (b n : Nat) : List Byte :=
  (List.range (n / 16)).flatMap fun i =>
    match translate (strandAgent s 0) .read (s.core.log.addr (b + 16 * i)) s with
    | .ok l _ => s.peek l.key 16
    | _ => List.replicate 16 0

abbrev Ent.pad : BitVec 8 := 0
abbrev Ent.undo : BitVec 8 := 1
abbrev Ent.atomic : BitVec 8 := 2
abbrev Ent.regs : BitVec 8 := 3
abbrev Ent.sregs : BitVec 8 := 4
abbrev Ent.mreg : BitVec 8 := 5
abbrev Ent.tile : BitVec 8 := 6
abbrev Ent.inrec : BitVec 8 := 7
abbrev Ent.irrev : BitVec 8 := 8
abbrev Ent.mark : BitVec 8 := 9

/-- Keeps the PC and quiet flag of the boundary that opens window HORIZON of the strand's log. -/
def State.noteEdge (s : State) (pc : Word) (quiet : Bool) : State :=
  s.modPart s.core.partOf.val fun p => { p with edges := (s.core.crec, pc, quiet) :: p.edges.filter fun e => e.1 != s.core.crec }

/-- LOGTAIL moves over the oldest entry. HORIZON passes the entry's window, and the boundary that the entry makes is kept (12 R354
R363 R366). -/
def State.dropEntry (s : State) : State :=
  let l := s.core.log
  let h := s.logBytes l.tail.toNat 48
  let len := max 16 (field h 2 2 * 16)
  let win := field h 8 8
  let kind := h.getD 0 0
  let s := if kind = Ent.regs then s.noteEdge (fw h 24) (field h 1 1 / 4 % 2 == 1)
    else if kind = Ent.inrec ∧ field h 32 8 = 2 then s.noteEdge (fw h 24) true else s
  s.modLog fun l =>
    { l with tail := l.tail + BitVec.ofNat 64 len, horizon := BitVec.ofNat 64 (max l.horizon.toNat (win + 1)) }

/-- LOGTAIL moves over whole entries up to byte count `v`. -/
def dropTo (v : Nat) : Nat → State → State
  | 0, s => s
  | fuel + 1, s => if v ≤ s.core.log.tail.toNat then s else dropTo v fuel s.dropEntry

/-- Whether byte count `v` is the start of an entry, walking entries from `b` (12 R354 R356). -/
def logStart (s : State) (v : Nat) : Nat → Nat → Bool
  | 0, _ => false
  | fuel + 1, b =>
    if b = v then true
    else if v < b ∨ s.core.log.cur.toNat ≤ b then false
    else
      let len := field (s.logBytes b 16) 2 2 * 16
      if len = 0 then false else logStart s v fuel (b + len)

/-- LOGTAIL: ignored unless the value is the start of an entry in LOGTAIL to LOGCUR (12 R354). The entries before it are discarded, and
HORIZON follows as in R366. -/
def writeLogtail (v : Word) (s : State) : State :=
  if s.core.mode = .strand then s
  else if logStart s v.toNat (s.core.log.cur.toNat / 16 + 1) s.core.log.tail.toNat then
    (dropTo v.toNat (s.core.log.cur.toNat / 16 + 1) s).modLog fun l =>
      { l with tail := v, mode := setBits l.mode 6 1 0, fullPosted := false }
  else s

/-- TROOT takes effect at the next quiescent boundary (14 R423). -/
def writeTroot (v : Word) (s : State) : State :=
  s.modSup fun t => { t with trootNext := some (BitVec.ofNat 64 (bits v 13 43 * 2 ^ 13)) }

/-- HACKM: a written 1 sets HACK of a site (14 R434). -/
def writeHackm (k : Nat) (v : Word) (s : State) : State :=
  ((List.range (if k = 0 then 64 else 8)).filter fun i => bitAt v i).foldl
    (fun s i => s.modCoreAt (coreOfSite (dieOf s.core.id) (64 * k + i)) fun c => { c with hack := true }) s

/-- The pending request of lowest site number of a die (14 R434). -/
def State.nextSvc (s : State) (die : Nat) : Option Nat :=
  (List.range 72).find? fun b => (s.coreAt (coreOfSite die b)).svc.isSome

/-- SVCRES: the value lands in x1 of the requesting core, which resumes; the next request is presented (14 R434). -/
def writeSvcres (v : Word) (s : State) : State :=
  let d := dieOf s.core.id
  match (s.die d).svcSite with
  | none => s
  | some b =>
    let s := s.modCoreAt (coreOfSite d b) fun c =>
      { c with svc := none, r := { c.r with x := vset c.r.x 1 v, xv := setBit c.r.xv 1 true },
               bnd := { c.bnd with x := vset c.bnd.x 1 v, xv := setBit c.bnd.xv 1 true } }
    s.modDie d fun e => { e with svcSite := s.nextSvc d }

/-- FWEVENT: EN is written, PEND is W1C; PEND bit 6 stays set while a request is pending (14 R434). -/
def writeFwevent (v : Word) (s : State) : State :=
  let d := dieOf s.core.id
  s.modDie d fun e =>
    let p := e.fwpend &&& ~~~(BitVec.ofNat 7 (bits v 32 7))
    { e with fwen := BitVec.ofNat 7 (bits v 0 7), fwpend := if e.svcSite.isSome then setBit p 6 true else p }

/-- MTS to the strand's own numbers (05 R148 R149 R150, 07 R220 R224, 06 R195). -/
def writeStrand (n : Nat) (v : Word) (s : State) : State :=
  if n = 1 then writeFeli s
  else if n = 2 then s.modSr fun r => { r with fels := r.fels &&& ~~~v }
  else if n = 3 then s.modSr fun r => { r with vctl := v &&& 0xF7 }
  else if n = 4 then
    let cir := BitVec.ofNat 64 (bits (s.core.cir &&& ~~~v) 0 4 + bits v 16 16 * 2 ^ 16)
    { s with core := { s.core with cir := cir } }
  else if 0x10 ≤ n ∧ n < 0x14 then s.modR fun r => { r with lc := vset r.lc (n - 0x10) (v.setWidth 32) }
  else if 0x40 ≤ n ∧ n < 0xC0 then s.modR fun r =>
    let a := vset r.ag (n - 0x40) v
    { r with ag := if n % 16 < 6 then vset (vset a (n / 16 * 16 + 6 - 0x40) 0) (n / 16 * 16 + 7 - 0x40) 0 else a }
  else if 0xC0 ≤ n ∧ n < 0x100 then s.modR fun r => { r with xp := vset r.xp (n - 0xC0) v }
  else s

/-- MTS to the numbers of the engines and the Retrograde unit (01 R29, 09 R299, 12 R353 R354 R377 R378). -/
def writeEngine (n : Nat) (v : Word) (s : State) : State :=
  let sup := s.core.mode != .strand
  if 0x1A0 ≤ n ∧ n < 0x200 ∧ n % 16 = 0 then
    if bitAt v 8 then s.modEng fun e => { e with stat := e.stat.mapFinIdx fun i t _ =>
      if i = (n - 0x1A0) / 16 then { t with lcv := false } else t } else s
  else if n = 0x200 then writeLogRing 0 v s
  else if n = 0x201 then writeLogRing 1 v s
  else if n = 0x203 then writeLogtail v s
  else if n = 0x204 then if sup && bits v 0 2 != 3 then s.modLog fun l => { l with nextMode := some (v &&& 7) } else s
  else if n = 0x210 then if sup then s.modLog fun l => { l with trbase := setBits v 0 6 0 } else s
  else if n = 0x211 then
    if sup && decide (bits v 8 5 ≤ 20) then s.modLog fun l => { l with trctl := (l.trctl &&& 0xFFFFFFFF00000000) ||| (v &&& 0xFFFF1F05) } else s
  else if n = 0x212 then if sup then s.modLog fun l => { l with trcons := v &&& 0xFFFFFFFF } else s
  else if 0x280 ≤ n ∧ n < 0x286 then s.modEng fun e => { e with cyc := vset e.cyc (n - 0x280) v }
  else if n = 0x286 then s.modEng fun e =>
    let old := vget e.cyc 6
    let drops := if bits v 16 16 = 0 then 0 else bits old 16 16
    { e with cyc := vset e.cyc 6 (BitVec.ofNat 64 (bits v 0 6 + drops * 2 ^ 16 + bits old 32 32 * 2 ^ 32)) }
  else if n = 0x287 then s.modEng fun e => { e with cyc := vset e.cyc 7 (v &&& 0xFFFFFFFF) }
  else if n = 0x288 then if sup then s.modEng fun e => { e with cens := vset e.cens 0 (setBits v 0 6 0) } else s
  else if n = 0x289 then
    if sup && decide (bits v 8 5 ≤ 16) then (s.modEng fun e =>
      { e with cens := vset e.cens 1 (setBits (v &&& 0x1F03) 2 1 (boolBit (bitAt (vget e.cens 1) 2 && !bitAt v 2))) })
    else s
  else if n = 0x28A then if sup then s.modEng fun e => { e with cens := vset e.cens 2 (setBits v 0 6 0) } else s
  else if n = 0x28B then if sup && v == 0 then s.modEng fun e => { e with cens := vset e.cens 3 0 } else s
  else s

/-- MTS to supervisor and service registers (14 R423 R434); the mode check is R67's. -/
def writeSystem (n : Nat) (v : Word) (s : State) : State :=
  let d := dieOf s.core.id
  if n = 0x300 then s.modSup fun t => { t with tvec := setBits v 0 5 0 }
  else if n = 0x302 then s.modSup fun t => { t with tpc := v }
  else if n = 0x308 then
    if bits v 4 3 ≤ 4 then s.modSup fun t => { t with tstatus := (t.tstatus &&& 0x86) ||| (v &&& 0x79) } else s
  else if n = 0x30A then if 1 ≤ v.toNat ∧ v.toNat < 2 ^ 32 then s.modSup fun t => { t with wdlimit := v } else s
  else if n = 0x30B then if 1 ≤ v.toNat ∧ v.toNat ≤ 4096 then s.modSup fun t => { t with qmax := v } else s
  else if n = 0x30C then if 1 ≤ v.toNat ∧ v.toNat ≤ 65535 then s.modSup fun t => { t with maxred := v } else s
  else if n = 0x30D then writeTroot v s
  else if n = 0x30E then s.modSup fun t => { t with tcmp := v }
  else if 0x320 ≤ n ∧ n < 0x324 then s.modSup fun t => { t with bkpt := vset t.bkpt (n - 0x320) (setBits v 1 4 0) }
  else if 0x324 ≤ n ∧ n < 0x326 then s.modSup fun t => { t with wpta := vset t.wpta (n - 0x324) v }
  else if 0x326 ≤ n ∧ n < 0x328 then s.modSup fun t => { t with wptl := vset t.wptl (n - 0x326) (v &&& 0x3FFFFFFFFFF) }
  else if n = 0x380 then writeHackm 0 v s
  else if n = 0x381 then writeHackm 1 v s
  else if n = 0x382 then s.modDie d fun e => { e with qmask := BitVec.ofNat 72 (e.qmask.toNat / 2 ^ 64 * 2 ^ 64 + v.toNat) }
  else if n = 0x383 then s.modDie d fun e =>
    { e with qmask := BitVec.ofNat 72 (e.qmask.toNat % 2 ^ 64 + v.toNat % 256 * 2 ^ 64) }
  else if 0x388 ≤ n ∧ n < 0x390 then s.modDie d fun e =>
    { e with pcfg := vset e.pcfg (n - 0x388) (v &&& 0xFFFFFFFFFFFFC1) }
  else if n = 0x390 then writeFwevent v s
  else if n = 0x391 then s.modDie d fun e => { e with tnthresh := v.setWidth 16 }
  else if n = 0x392 then s.modDie d fun e => { e with serr := v }
  else if n = 0x393 then s.modDie d fun e => { e with cethresh := v }
  else if n = 0x39C then writeSvcres v s
  else s

/-- Puts back the value `v` that state[n] had at the boundary, for a register outside `Regs` that the discarded window wrote (05
R152): as MTS writes it, but for bits that MTS can only clear. LOGTAIL keeps its new value where the room it freed has been used. -/
def restoreState (n : Nat) (v : Word) (s : State) : State :=
  if 0x1A0 ≤ n ∧ n < 0x200 then s.modEng fun e => { e with stat := e.stat.mapFinIdx fun i t _ =>
    if i = (n - 0x1A0) / 16 then { t with lcv := t.lcv || bitAt v 8 } else t }
  else if n = 0x203 then s.modLog fun l => if l.head.toNat - v.toNat ≤ 2 ^ bits l.size 0 6 then { l with tail := v } else l
  else if n = 0x204 then s.modLog fun l => { l with mode := setBits l.mode 6 1 (bits v 6 1), fullPosted := l.fullPosted || bitAt v 6 }
  else if n = 0x205 then s.modLog fun l => { l with horizon := v }
  else if n = 0x286 then s.modEng fun e => { e with cyc := vset e.cyc 6 v }
  else if n = 0x289 then s.modEng fun e => { e with cens := vset e.cens 1 v }
  else if n = 0x28B then s.modEng fun e => { e with cens := vset e.cens 3 v }
  else if 0x210 ≤ n ∧ n < 0x300 then writeEngine n v s
  else if n = 0x390 then s.modDie (dieOf s.core.id) fun e =>
    { e with fwen := BitVec.ofNat 7 (bits v 0 7), fwpend := e.fwpend ||| BitVec.ofNat 7 (bits v 32 7) }
  else if 0x300 ≤ n ∧ n < 0x394 ∧ n ≠ 0x380 ∧ n ≠ 0x381 then writeSystem n v s
  else s

/-- The state registers outside `Regs` that a write of state[n] changes at once (05 R152): not HACK, which a rollback leaves, nor the answer
of a service request, which another core has read. -/
def undoNumbers (n : Nat) : List Nat :=
  if n = 0x203 then [0x203, 0x204, 0x205]
  else if (0x100 ≤ n ∧ n < 0x380 ∧ n ≠ 0x30D) ∨ (0x382 ≤ n ∧ n < 0x394) then [n] else []

/-- The machine that keeps, for a rollback, the values that a write of state[n] changes. -/
def State.keepUndo (s : State) (n : Nat) : State :=
  let old := (undoNumbers n).filterMap fun k => (s.readState k).map fun v => (k, v)
  { s with core := { s.core with win := { s.core.win with undo := old ++ s.core.win.undo } } }

/-- state[n] := v; a register marked RO ignores it (05 R148 R171). -/
def writeState (n : Nat) (v : Word) (s : State) : State :=
  if n < 0x100 then writeStrand n v s else if n < 0x300 then writeEngine n v s else writeSystem n v s

end Sys2Proof.Machine
end

