-- ==== Sys2Proof/Machine/Access.lean ====
section
/-! DEFINITION. Accesses to generic addresses: the checks of 06 R189, the strand's view of held stores (04 R134), engine
and device reads and writes, transactional footprints (12 R384 R385). -/

namespace Sys2Proof.Machine

/-- Splits `n` bytes at offset `o` at every multiple of `size`: offsets and lengths. -/
def spans (size : Nat) : Nat → Nat → Nat → List (Nat × Nat)
  | 0, _, _ => []
  | fuel + 1, o, n =>
    if n = 0 then [] else
    let k := min n (size - o % size)
    (o, k) :: spans size fuel (o + k) (n - k)

/-- The 64-byte blocks of an access. -/
def blocksOf (va : Word) (n : Nat) : List (Word × Nat) :=
  (spans 64 (n / 64 + 2) va.toNat n).map fun x => (BitVec.ofNat 64 x.1, x.2)

/-- The pieces of an access within 64 KiB pages. -/
def pagesOf (va : Word) (n : Nat) : List (Word × Nat) :=
  (spans 65536 (n / 65536 + 2) va.toNat n).map fun x => (BitVec.ofNat 64 x.1, x.2)

/-- A site that strands of a core may reach through the cluster aperture (04 R114). -/
def State.reachable (s : State) (c : Nat) (site : Nat) : Bool :=
  let t := coreNumber (clusterId c) site
  decide (site < 9) && !isFirmware t && !isSpare t && s.inService t

/-- The scratchpad of a core is still to be restored after a PSWAP: an access to it stalls (14 R435). -/
def State.restoring (s : State) (c : Nat) : Bool := s.dev.parts.toList.any fun p => p.restoring.any fun x => x.1 == c

/-- Finds the place of an access: region, aperture checks and translation (04 R113 R114 R118). `load` marks a load, the
only access the cluster aperture admits. -/
def locate (ag : Agent) (k : AKind) (load : Bool) (va : Word) (s : State) : Act Loc :=
  match region va with
  | .bad => .trap Cause.noncanonical va s
  | .glob => translate ag k va s
  | .own off =>
    if k = .fetch || decide ((s.coreAt ag.core).spadSize ≤ off) then .trap Cause.apertureAccess va s
    else if s.restoring ag.core then .wait s
    else .ok ⟨scratchKey ag.core off, false, 0⟩ s
  | .cluster site off =>
    let t := coreNumber (clusterId ag.core) site
    if !load || ag.engine || !s.reachable ag.core site || decide ((s.coreAt t).spadSize ≤ off)
    then .trap Cause.apertureAccess va s
    else if s.restoring t then .wait s
    else .ok ⟨scratchKey t off, false, 0⟩ s

/-! The strand's view. -/

/-- The stores that are held: those of the open transaction and of the open window, oldest first. -/
def State.heldStores (s : State) : List HStore :=
  (match s.core.tx with | some t => t.held | none => []) ++
  s.core.win.held.filterMap fun h => match h with | .store h | .txstore h => some h | _ => none

/-- The byte at place `k` after stores, oldest first. -/
def byteAfter (hs : List HStore) (mem : List Host.Cell) (k : Nat) : Byte :=
  match hs.reverse.find? fun h => decide (h.key ≤ k) && decide (k < h.key + h.bytes.length) with
  | some h => h.bytes.getD (k - h.key) 0
  | none => getByte mem k

/-- The byte at place `k` as the strand sees it (04 R134). -/
def State.viewByte (s : State) (k : Nat) : Byte := byteAfter s.heldStores s.mem k

def State.viewBytes (s : State) (k n : Nat) : List Byte := (List.range n).map fun i => s.viewByte (k + i)

/-- A held store's effect on its block's metadata (03 R98, 06 R190 R193 R213). -/
def HStore.apply (h : HStore) (m : BitVec 25) : BitVec 25 :=
  match h.mdata with
  | some v => v
  | none =>
    let m := match h.tag with
      | some t => (m.toNat / 2 ^ 24 * 2 ^ 24 + t.toNat : Nat)
      | none => m
    if h.bytes.length = 64 then BitVec.ofNat 25 (m.toNat % 2 ^ 24) else m

/-- The metadata of the block of place `k` after stores; a far block has none to change (04 R124). -/
def mdataAfter (hs : List HStore) (tags : SMap (BitVec 25)) (k : Nat) : BitVec 25 :=
  (hs.filter fun h => h.key / 64 == k / 64 && !h.far).foldl (fun m h => h.apply m) (sget tags 0 (k / 64))

/-- The metadata of the block of place `k` as the strand sees it. -/
def State.viewMdata (s : State) (k : Nat) : BitVec 25 := mdataAfter s.heldStores s.tags k

/-- What a load finds at a place, as the window keeps it until its close (04 R134). -/
def State.loadItem (s : State) (va : Word) (k n : Nat) : Held := .load va k (s.viewBytes k n) (s.viewMdata k)

/-- The loads of a window find the same at its close, each after the stores before it: else the window's accesses cannot take
their places together (04 R131 R132 R134). -/
def loadsStand (s : State) : List HStore → List Held → Bool
  | _, [] => true
  | hs, .load _ k bs md :: r =>
    (List.range bs.length).map (fun i => byteAfter hs s.mem (k + i)) == bs && mdataAfter hs s.tags k == md && loadsStand s hs r
  | hs, .store h :: r => loadsStand s (hs ++ [h]) r
  | hs, .txstore h :: r => loadsStand s (hs ++ [h]) r
  | hs, _ :: r => loadsStand s hs r

/-- The accesses that a core holds, which have no place in the orders yet: addresses and places of its window, and of a transaction that
has not committed, loads included (04 R122 R134, 12 R386). -/
def Core.heldAccesses (c : Core) : List (Word × Nat) :=
  (c.win.held.filterMap fun h => match h with
    | .load va k _ _ => some (va, k)
    | .store h | .txstore h => some (h.va, h.key)
    | _ => none) ++
  (c.tx.toList ++ c.win.commit.toList).flatMap fun t => t.held.map (fun h => (h.va, h.key)) ++ t.places

/-! Transactions: what an access adds to the footprint. -/

/-- Marks an abort of the open transaction that is due; the first one stands (12 R384). -/
def State.txDue (s : State) (reason : Fin 8) (code cause : BitVec 8) : State :=
  match s.core.tx with
  | none => s
  | some t => if t.abort.isSome then s
    else { s with core := { s.core with tx := some { t with abort := some (reason, code, cause) } } }

def addOnce (l : List Nat) (k : Nat) : List Nat := if l.contains k then l else l ++ [k]

/-- The blocks of the footprint. -/
def Tx.footprint (t : Tx) : List Nat := t.writes.foldl addOnce t.reads

/-- Adds a block to the footprint (12 R385): CAPACITY past 64 blocks. A write of a block that another agent has read since the
transaction's first access to it conflicts (12 R386). -/
def State.txTouch (s : State) (write : Bool) (key : Nat) : State :=
  match s.core.tx with
  | none => s
  | some t =>
    let t := if write then { t with writes := addOnce t.writes (key / 64), conflict := t.conflict || t.others.contains (key / 64) } else { t with reads := addOnce t.reads (key / 64) }
    let n := t.footprint.length
    let s := { s with core := { s.core with tx := some t } }
    let s := s.modSr fun r => { r with txstate := setBits r.txstate 24 8 (min n 64) }
    if 64 < n then s.txDue 2 0 0 else s

/-- In a transaction, an access to the cluster aperture or a far page aborts it (12 R384). -/
def State.txPlace (s : State) (va : Word) (l : Loc) : State :=
  match region va with
  | .cluster _ _ => s.txDue 4 0 0
  | _ => if l.far then s.txDue 4 0 0 else s

/-! Reads of the strand. -/

/-- One block's part of an access: its place, bytes and metadata. -/
structure Piece where
  va : Word
  loc : Loc
  bytes : List Byte
  mdata : BitVec 25
  deriving DecidableEq, Repr, Inhabited

/-- The poison bit of a piece. -/
def Piece.poisoned (p : Piece) : Bool := p.mdata.getLsbD 24

/-- Finds every block of an access, without performing it. -/
def locateAll (ag : Agent) (k : AKind) (load : Bool) (va : Word) (n : Nat) (s : State) : Act (List (Word × Nat × Loc)) :=
  Act.mapM (fun x s => (locate ag k load x.1 s).map fun l => (x.1, x.2, l)) (blocksOf va n) s

def bytesOf (ps : List Piece) : List Byte := ps.flatMap fun p => p.bytes

/-- A load's use of poison (05 R150, 06 R190): LOADP, or FARP for a far read, and COUNT. -/
def State.consume (s : State) (bit : Nat) : State :=
  let c := s.core.cir
  { s with core := { s.core with cir := setBits (setBits c bit 1 1) 16 16 (min 0xFFFF (bits c 16 16 + 1)) } }

/-- A CXL poison indication on a far read is reported (04 R124, 14 R437): a contained error, by unit and address. -/
def State.reportCxl (s : State) (unit : Nat) (pc va : Word) : State :=
  report s (some s.core.partOf) (dieOf s.core.id) Cause.cxlUe 1 (unitId s.core.id unit) false pc va

/-- The report of a read at `va` whose place may be far and poisoned. -/
def State.reportFar (s : State) (unit : Nat) (pc va : Word) (l : Loc) : State :=
  if l.far && s.poisonAt l.key then s.reportCxl unit pc va else s

/-- In a transaction, and in FULL logging, a load's value is an input record (12 R362 R388). -/
def State.noteLoad (s : State) (va : Word) (bs : List Byte) : State :=
  match s.core.tx with
  | some t => { s with core := { s.core with tx := some { t with loads := t.loads ++ [(s.core.iss.pc, va, bs)] } } }
  | none => s

/-- The loads of a bundle outside a transaction stand in its window; a transaction keeps where its loads read. -/
def State.keepLoads (s : State) (ls : List (Word × Nat × Nat)) : State :=
  match s.core.tx with
  | some t => { s with core := { s.core with tx := some { t with places := t.places ++ ls.map fun x => (x.1, x.2.1) } } }
  | none => { s with core := { s.core with win := { s.core.win with held := s.core.win.held ++ ls.map fun x => s.loadItem x.1 x.2.1 x.2.2 } } }

/-! Held stores. -/

/-- Groups bytes by rising address into runs that lie in one block. -/
def runsOf : List (Nat × Nat × Byte) → List (Nat × Nat × List Byte)
  | [] => []
  | (v, k, b) :: r =>
    match runsOf r with
    | (v', k', bs) :: t =>
      if v' = v + 1 && k' == k + 1 && v' % 64 != 0 then (v, k, b :: bs) :: t else (v, k, [b]) :: (v', k', bs) :: t
    | [] => [(v, k, [b])]

/-- L1 may hold a store: core scope to a cached page (04 R110 R117). -/
def mayCache (scope : Nat) (l : Loc) : Bool := decide (scope = 0) && isHbm l.key && leafMT l.leaf == 0

/-- The writes of an access by place, in lane order: where lanes name one place, by whatever addresses, the highest remains (06
R194). -/
def lastWrites (items : List (Nat × Nat × Byte)) : SMap (Nat × Byte) := items.foldl (fun m x => sput m x.2.1 (x.1, x.2.2)) []

/-- The held stores of an access that writes `items` (address, place, byte) in lane order, counted as `size` bytes in the first.
They take their places at one moment, and stand in the order of their addresses, which is that of their entries in the log (06
R194, 12 R357). -/
def mkStores (s : State) (scope size : Nat) (cached : Bool) (items : List (Nat × Nat × Byte)) : List HStore :=
  let sorted := (lastWrites items).foldl (fun (m : SMap (Nat × Byte)) x => sput m x.2.1 (x.1, x.2.2)) []
  let runs := runsOf (sorted.map fun x => (x.1, x.2.1, x.2.2))
  runs.mapIdx fun i r =>
    { pc := s.core.iss.pc, slot := s.core.iss.slot, scope := scope, size := if i = 0 then size else 0,
      va := BitVec.ofNat 64 r.1, key := r.2.1, bytes := r.2.2, tag := none, mdata := none, far := isHost r.2.1, cached := cached,
      atom := false, lead := !((runs.take i).any fun q => q.2.1 / 64 == r.2.1 / 64) }

/-- Holds stores in the window buffer, or in the transaction (04 R134, 12 R384 R385). -/
def State.hold (s : State) (hs : List HStore) : State :=
  let n := (hs.map fun h => h.size).sum
  match s.core.tx with
  | some t =>
    let s := { s with core := { s.core with tx := some { t with held := t.held ++ hs, bytes := t.bytes + n } } }
    if 16384 < t.bytes + n then s.txDue 2 0 0 else s
  | none => { s with core := { s.core with win := { s.core.win with
      held := s.core.win.held ++ hs.map Held.store, bytes := s.core.win.bytes + n } } }

/-! Writes that are performed at once: engines, atomics, window closes and the device (04 R130 R133). -/

/-- Every earlier store of the strand has its place in the wider orders (04 R136 R144, 06 R205 R212): its L1 holds nothing that L2
does not. -/
def State.releaseL1 (s : State) : State := s.writeBackL1 (· == s.core.id) fun _ => true

/-- L1 keeps the older L2 copy of bytes a core-scope store wrote (04 R110, 05 R177). Any other store writes through: its block is
written back first wherever an L1 holds it. -/
def State.noteL1 (s : State) (c : Nat) (cached : Bool) (key n : Nat) : State :=
  if cached then s.modCoreAt c fun k => { k with l1 := k.l1 ++ [(key, s.peek key n)] }
  else s.cleanBlock (fun _ => true) key

/-- Performs a write of bytes in one block by an agent. The dirty bit comes first; false: it stalls. -/
def performRun (ag : Agent) (self : Option Nat) (key : Nat) (bs : List Byte) (s : State) : Bool × State :=
  match markDirtyKey s ag.part key with
  | (false, s) => (false, s)
  | (true, s) => (true, (noteAccess s ag.core self ag.scope key true).writeRun key bs)

/-- A read of bytes by an engine or the device, block by block, in memory as it stands; a CXL poison indication is reported
(04 R124). -/
def readDirect (ag : Agent) (va : Word) (n : Nat) (s : State) (unit : Nat := 0) : Act (List Piece) :=
  (locateAll ag .read false va n s).bind fun ls s =>
    let s := ls.foldl (fun s x =>
      let s := noteAccess s ag.core none ag.scope x.2.2.key false
      let s := if x.2.2.far then s.countFar (dieOf ag.core) ag.part x.1 1 else s
      if x.2.2.far && s.poisonAt x.2.2.key then
        report s (some ag.part) (dieOf ag.core) Cause.cxlUe 1 (unitId ag.core unit) false 0 x.1 else s) s
    .ok (ls.map fun x => ⟨x.1, x.2.2, s.peek x.2.2.key x.2.1, if x.2.2.far then
      (s.mdata x.2.2.key).toNat / 2 ^ 24 * 2 ^ 24 else s.mdata x.2.2.key⟩) s

/-- An engine command's use of the pieces of a read as a parameter: poisoned data that it consumes (05 R150). -/
def consumePieces (ps : List Piece) (s : State) : State := if ps.any Piece.poisoned then s.consume 1 else s

/-- A write of bytes by an engine or the device: every block is found first, then each is written. -/
def writeDirect (ag : Agent) (va : Word) (bs : List Byte) (s : State) : Act Unit :=
  (locateAll ag .write false va bs.length s).bind fun ls s =>
    Act.forM (fun x s =>
      let s := if x.2.2.far then s.countFar (dieOf ag.core) ag.part x.1 1 else s
      match performRun ag none x.2.2.key (slice bs (x.1 - va).toNat x.2.1) s with
      | (true, s) => .ok () s
      | (false, s) => .wait s) ls s

/-- An engine's agent at a core (04 R130). -/
def engineAgent (s : State) (scope : Nat) (tierFault : Bool) : Agent :=
  { core := s.core.id, part := s.core.partOf, root := s.core.sup.troot, engine := true,
    bounds := true, tlb := true, scope := scope, tierFault := tierFault }

/-- The device's agent for a partition's memory, on behalf of core `c` (01 R19 R21, 14 R428). -/
def partAgent (s : State) (p : Fin 8) (c scope : Nat) : Agent :=
  { core := c, part := p, root := (match s.cfg p with | some g => g.troot | none => 0), engine := true, bounds := true,
    tlb := false, scope := scope, tierFault := false }

/-- The core's own agent for frames and records: its translation root, package scope. -/
def coreAgent (s : State) (scope : Nat) : Agent :=
  { core := s.core.id, part := s.core.partOf, root := s.core.sup.troot, engine := true, bounds := true, tlb := false,
    scope := scope, tierFault := false }

/-- A device access to `n` bytes at `va` counts in the tier monitor, block by block (04 R125). -/
def State.countFarBytes (s : State) (ag : Agent) (l : Loc) (va : Word) (n : Nat) : State :=
  if l.far then s.countFar (dieOf ag.core) ag.part va (blocksOf va n).length else s

/-- Device writes: bytes whose page does not translate are not written (log 15). Where a dirty bit cannot be set, the device
stalls: the turn that makes the write is undone and comes again (04 R128, log 49). -/
def devWrite (ag : Agent) (va : Word) (bs : List Byte) (s : State) : State :=
  (pagesOf va bs.length).foldl (fun s x =>
    match locate ag .write false x.1 s with
    | .ok l s =>
      match markDirtyKey s ag.part l.key with
      | (false, s) => { s with dev := { s.dev with stalled := some (ag.part, l.key) } }
      | (true, s) =>
        let s := (blocksOf x.1 x.2).foldl (fun s b =>
          noteAccess s ag.core none ag.scope (l.key + (b.1 - x.1).toNat) true) s
        (s.countFarBytes ag l x.1 x.2).poke l.key (slice bs (x.1 - va).toNat x.2)
    | a => a.state) s

/-- What a block's read by the device does beside giving its bytes: conflicts, and the report of CXL poison (04 R124, 12 R386). -/
def noteDevRead (ag : Agent) (va : Word) (l : Loc) (s : State) : State :=
  let s := noteAccess s ag.core none ag.scope l.key false
  if l.far && s.poisonAt l.key then report s (some ag.part) (dieOf ag.core) Cause.cxlUe 1 (unitId ag.core 0) false 0 va else s

/-- Device reads; bytes whose page does not translate read as 0 (log 15). -/
def devRead (ag : Agent) (va : Word) (n : Nat) (s : State) : List Byte × State :=
  (pagesOf va n).foldl (fun r x =>
    match locate ag .read false x.1 r.2 with
    | .ok l s => (r.1 ++ s.peek l.key x.2, (blocksOf x.1 x.2).foldl (fun s b =>
        noteDevRead ag b.1 { l with key := l.key + (b.1 - x.1).toNat } s) (s.countFarBytes ag l x.1 x.2))
    | a => (r.1 ++ List.replicate x.2 0, a.state)) ([], s)

/-- Whether every page of a range translates for the device. -/
def devMapped (ag : Agent) (k : AKind) (va : Word) (n : Nat) (s : State) : Bool :=
  (pagesOf va n).all fun x => match locate ag k false x.1 s with
    | .ok _ _ => true
    | _ => false

/-- Watched ranges (14 R423 R424): the access touches an enabled one of its kind. -/
def State.watched (s : State) (va : Word) (n : Nat) (rd wr : Bool) : Bool :=
  (List.range 2).any fun i =>
    let l := vget s.core.sup.wptl i
    let a := (vget s.core.sup.wpta i).toNat
    ((rd && bitAt l 40) || (wr && bitAt l 41)) && decide (a < va.toNat + n) && decide (va.toNat < a + bits l 0 40)

end Sys2Proof.Machine
end

