-- ==== Sys2Proof/Machine/Float.lean ====
section
/-! DEFINITION. Floating point (03 R85 to R94 R105): exact reals as sign, magnitude and power of two, rounded once. -/

namespace Sys2Proof.Machine

/-- A binary format: exponent bits, fraction bits (03 R85). -/
structure Fmt where
  eb : Nat
  mb : Nat
  deriving DecidableEq, Repr

def f32 : Fmt := ⟨8, 23⟩
def f16 : Fmt := ⟨5, 10⟩
def bf16 : Fmt := ⟨8, 7⟩

def Fmt.bias (t : Fmt) : Nat := 2 ^ (t.eb - 1) - 1
def Fmt.width (t : Fmt) : Nat := 1 + t.eb + t.mb
/-- The canonical NaN (03 R85 R86). -/
def Fmt.nan (t : Fmt) : Nat := (2 ^ t.eb - 1) * 2 ^ t.mb + 2 ^ (t.mb - 1)
def Fmt.inf (t : Fmt) (neg : Bool) : Nat := boolBit neg * 2 ^ (t.eb + t.mb) + (2 ^ t.eb - 1) * 2 ^ t.mb
def Fmt.zero (t : Fmt) (neg : Bool) : Nat := boolBit neg * 2 ^ (t.eb + t.mb)
def Fmt.maxFinite (t : Fmt) (neg : Bool) : Nat := t.inf neg - 1

/-- A floating-point value: NaN (signalling or not), infinity, or the finite real (-1)^neg m 2^e. -/
inductive FVal where
  | nan (signalling : Bool)
  | inf (neg : Bool)
  | fin (neg : Bool) (m : Nat) (e : Int)
  deriving DecidableEq, Repr

/-- The value of a bit pattern (03 R85). -/
def Fmt.decode (t : Fmt) (v : Nat) : FVal :=
  let frac := v % 2 ^ t.mb
  let ex := v / 2 ^ t.mb % 2 ^ t.eb
  let neg := v / 2 ^ (t.eb + t.mb) % 2 == 1
  if ex = 2 ^ t.eb - 1 then
    if frac = 0 then .inf neg else .nan (decide (frac < 2 ^ (t.mb - 1)))
  else if ex = 0 then .fin neg frac (1 - (t.bias : Int) - t.mb)
  else .fin neg (frac + 2 ^ t.mb) ((ex : Int) - t.bias - t.mb)

/-- The flags a rounding can raise beside its bits. -/
structure Flags where
  invalid : Bool
  divz : Bool
  ovf : Bool
  under : Bool
  sat : Bool
  deriving DecidableEq, Repr, Inhabited

def noFlags : Flags := ⟨false, false, false, false, false⟩

/-- The first event one lane records (03 R108): INVALID, DIVZERO, OVERFLOW, UNDERFLOW, SATURATE; 0 for none. -/
def Flags.code (f : Flags) : Fin 16 :=
  if f.invalid then 1 else if f.divz then 4 else if f.ovf then 2 else if f.under then 3 else if f.sat then 5 else 0

def Flags.or (a b : Flags) : Flags :=
  ⟨a.invalid || b.invalid, a.divz || b.divz, a.ovf || b.ovf, a.under || b.under, a.sat || b.sat⟩

/-- (m + sticky) 2^e rounded to a multiple of 2^q: the multiple, and whether it is inexact (03 R87). -/
def roundAt (rm : Nat) (neg : Bool) (m : Nat) (e : Int) (sticky : Bool) (q : Int) : Nat × Bool :=
  let sh := q - e
  if sh ≤ 0 then
    let v := m * 2 ^ (-sh).toNat
    (if sticky && ((rm == 2 && !neg) || (rm == 3 && neg)) then v + 1 else v, sticky)
  else
    let k := sh.toNat
    let v := m / 2 ^ k
    let rem := m % 2 ^ k
    let inexact := rem ≠ 0 || sticky
    let half := 2 ^ (k - 1)
    let up := match rm with
      | 0 => decide (half < rem) || (decide (rem = half) && (sticky || v % 2 == 1))
      | 1 => false
      | 2 => !neg && inexact
      | _ => neg && inexact
    (if up then v + 1 else v, inexact)

/-- A rounding to a format: pattern, flags (OVERFLOW, UNDERFLOW), and whether the finite value passed the largest. -/
def Fmt.round (t : Fmt) (rm : Nat) (neg : Bool) (m : Nat) (e : Int) (sticky : Bool) : Nat × Flags :=
  if m = 0 ∧ !sticky then (t.zero neg, noFlags) else
  let top : Int := e + bitLen m - 1
  let emin : Int := 1 - t.bias
  let q := max (top - t.mb) (emin - t.mb)
  let r := roundAt rm neg m e sticky q
  let mag :=
    if r.1 < 2 ^ t.mb then r.1
    else (q + t.mb + t.bias).toNat * 2 ^ t.mb + (r.1 - 2 ^ t.mb)
  let sgn := t.zero neg
  if (2 ^ t.eb - 1) * 2 ^ t.mb ≤ mag then
    let toInf := match rm with | 0 => true | 1 => false | 2 => !neg | _ => neg
    (if toInf then t.inf neg else t.maxFinite neg, { noFlags with ovf := true })
  else
    let tiny := decide (top < emin) &&
      !(decide (top = emin - 1) && decide ((roundAt rm neg m e sticky (top - t.mb)).1 = 2 ^ (t.mb + 1)))
    (sgn + mag, { noFlags with under := tiny && r.2 })

/-- VCTL.FTZ on an operand (03 R89): a subnormal reads as a zero of its sign. -/
def Fmt.flushIn (t : Fmt) (ftz : Bool) (v : Nat) : Nat :=
  if ftz && v / 2 ^ t.mb % 2 ^ t.eb == 0 then v / 2 ^ (t.eb + t.mb) * 2 ^ (t.eb + t.mb) else v

/-- VCTL.FTZ on a result (03 R89): a subnormal becomes a zero of its sign and records UNDERFLOW. -/
def Fmt.flushOut (t : Fmt) (ftz : Bool) (r : Nat × Flags) : Nat × Flags :=
  if ftz && r.1 / 2 ^ t.mb % 2 ^ t.eb == 0 && r.1 % 2 ^ t.mb != 0 then
    (r.1 / 2 ^ (t.eb + t.mb) * 2 ^ (t.eb + t.mb), { r.2 with under := true }) else r

def FVal.isNan : FVal → Bool
  | .nan _ => true
  | _ => false
def FVal.isSnan : FVal → Bool
  | .nan s => s
  | _ => false
def FVal.neg : FVal → FVal
  | .nan s => .nan s
  | .inf n => .inf (!n)
  | .fin n m e => .fin (!n) m e

/-- The signed integer of a finite value in units of 2^e0. -/
def finScaled (neg : Bool) (m : Nat) (e e0 : Int) : Int :=
  let v : Int := ((m * 2 ^ (e - e0).toNat : Nat) : Int)
  if neg then -v else v

/-- The exact sum of two finite terms, rounded; an exact zero takes its sign from 03 R87. -/
def Fmt.sumFin (t : Fmt) (rm : Nat) (n1 : Bool) (m1 : Nat) (e1 : Int) (n2 : Bool) (m2 : Nat) (e2 : Int) : Nat × Flags :=
  let e0 := min e1 e2
  let v := finScaled n1 m1 e1 e0 + finScaled n2 m2 e2 e0
  if v = 0 then
    let neg := if m1 = 0 ∧ m2 = 0 ∧ n1 = n2 then n1 else rm == 3
    (t.zero neg, noFlags)
  else t.round rm (decide (v < 0)) v.natAbs e0 false

def invalidNan (t : Fmt) : Nat × Flags := (t.nan, { noFlags with invalid := true })

/-- a + b (03 R87 R92). -/
def Fmt.addV (t : Fmt) (rm : Nat) (a b : FVal) : Nat × Flags :=
  if a.isNan || b.isNan then (t.nan, { noFlags with invalid := a.isSnan || b.isSnan }) else
  match a, b with
  | .inf n1, .inf n2 => if n1 = n2 then (t.inf n1, noFlags) else invalidNan t
  | .inf n, _ => (t.inf n, noFlags)
  | _, .inf n => (t.inf n, noFlags)
  | .fin n1 m1 e1, .fin n2 m2 e2 => t.sumFin rm n1 m1 e1 n2 m2 e2
  | _, _ => (t.nan, noFlags)

/-- The product of two values that are not NaN: none for 0 times infinity. -/
def mulV : FVal → FVal → Option FVal
  | .fin n1 m1 e1, .fin n2 m2 e2 => some (.fin (n1 != n2) (m1 * m2) (e1 + e2))
  | .inf n1, .inf n2 => some (.inf (n1 != n2))
  | .inf n1, .fin n2 m2 _ => if m2 = 0 then none else some (.inf (n1 != n2))
  | .fin n1 m1 _, .inf n2 => if m1 = 0 then none else some (.inf (n1 != n2))
  | _, _ => none

/-- a b (03 R87 R92). -/
def Fmt.mulF (t : Fmt) (rm : Nat) (a b : FVal) : Nat × Flags :=
  if a.isNan || b.isNan then (t.nan, { noFlags with invalid := a.isSnan || b.isSnan }) else
  match mulV a b with
  | none => invalidNan t
  | some (.fin n m e) => t.round rm n m e false
  | some (.inf n) => (t.inf n, noFlags)
  | some (.nan _) => (t.nan, noFlags)

/-- a b + c with one rounding (03 R87 R92). -/
def Fmt.fmaV (t : Fmt) (rm : Nat) (a b c : FVal) : Nat × Flags :=
  let sn := a.isSnan || b.isSnan || c.isSnan
  if a.isNan || b.isNan then (t.nan, { noFlags with invalid := sn }) else
  match mulV a b with
  | none => invalidNan t
  | some p => if c.isNan then (t.nan, { noFlags with invalid := sn }) else t.addV rm p c

/-- The integer square root, by `fuel` binary digits. -/
def isqrt : Nat → Nat → Nat → Nat
  | 0, _, r => r
  | fuel + 1, n, r =>
    let c := r + 2 ^ fuel
    isqrt fuel n (if c * c ≤ n then c else r)

/-- The exact quotient m1 2^e1 / (m2 2^e2) as an integer with a sticky bit. -/
def quotient (m1 : Nat) (e1 : Int) (m2 : Nat) (e2 : Int) : Nat × Int × Bool :=
  let k := 64 + bitLen m2
  let n := m1 * 2 ^ k
  (n / m2, e1 - e2 - k, n % m2 ≠ 0)

/-- a / b of finite values with b nonzero, rounded. -/
def Fmt.divFin (t : Fmt) (rm : Nat) (n1 : Bool) (m1 : Nat) (e1 : Int) (n2 : Bool) (m2 : Nat) (e2 : Int) : Nat × Flags :=
  let q := quotient m1 e1 m2 e2
  t.round rm (n1 != n2) q.1 q.2.1 q.2.2

/-- a / b as the engines use it, RNE (07 R243, 09 R294): 0/0 and Inf/Inf give NaN. -/
def Fmt.divV (t : Fmt) (a b : FVal) : Nat × Flags :=
  if a.isNan || b.isNan then (t.nan, noFlags) else
  match a, b with
  | .inf _, .inf _ => (t.nan, noFlags)
  | .inf n1, .fin n2 _ _ => (t.inf (n1 != n2), noFlags)
  | .fin n1 _ _, .inf n2 => (t.zero (n1 != n2), noFlags)
  | .fin n1 m1 e1, .fin n2 m2 e2 =>
    if m2 = 0 then (if m1 = 0 then (t.nan, noFlags) else (t.inf (n1 != n2), noFlags)) else t.divFin 0 n1 m1 e1 n2 m2 e2
  | _, _ => (t.nan, noFlags)

/-- 1 / a (07 R227, 03 R93). -/
def Fmt.rcp (t : Fmt) (rm : Nat) : FVal → Nat × Flags
  | .nan s => (t.nan, { noFlags with invalid := s })
  | .inf n => (t.zero n, noFlags)
  | .fin n m e => if m = 0 then (t.inf n, { noFlags with divz := true }) else t.divFin rm false 1 0 n m e

/-- 1 / sqrt a (07 R227, 03 R92 R93). -/
def Fmt.rsqrt (t : Fmt) (rm : Nat) : FVal → Nat × Flags
  | .nan s => (t.nan, { noFlags with invalid := s })
  | .inf n => if n then invalidNan t else (t.zero false, noFlags)
  | .fin n m e =>
    if m = 0 then (t.inf n, { noFlags with divz := true }) else if n then invalidNan t else
    let m' := if e % 2 = 0 then m else 2 * m
    let e' := if e % 2 = 0 then e else e - 1
    let r := isqrt 80 (2 ^ 160 / m') 0
    t.round rm false r (-80 - e' / 2) (decide (r * r * m' ≠ 2 ^ 160))

/-- sqrt of a finite value that is not negative, with a sticky bit: used inside VNORM's reciprocal (07 R243). -/
def sqrtBits (m : Nat) (e : Int) : Nat × Int × Bool :=
  let m' := if e % 2 = 0 then m else 2 * m
  let e' := if e % 2 = 0 then e else e - 1
  let n := m' * 2 ^ 128
  let r := isqrt 100 n 0
  (r, e' / 2 - 64, decide (r * r ≠ n))

/-- Binary digits of log2(f / 2^250) for f in [2^250, 2^251), by repeated squaring, most significant first. -/
def log2Digits : Nat → Nat → Nat → Nat
  | 0, _, acc => acc
  | fuel + 1, f, acc =>
    let sq := f * f / 2 ^ 250
    if 2 ^ 251 ≤ sq then log2Digits fuel (sq / 2) (2 * acc + 1) else log2Digits fuel sq (2 * acc)

/-- log2 a (07 R227): exact for a power of two, otherwise from 120 digits of the irrational value (log 11). -/
def Fmt.log2F (t : Fmt) (rm : Nat) : FVal → Nat × Flags
  | .nan s => (t.nan, { noFlags with invalid := s })
  | .inf n => if n then invalidNan t else (t.inf false, noFlags)
  | .fin n m e =>
    if m = 0 then (t.inf true, { noFlags with divz := true }) else if n then invalidNan t else
    let L := bitLen m - 1
    let ip : Int := e + L
    if m = 2 ^ L then t.round rm (decide (ip < 0)) ip.natAbs 0 false else
    let d := log2Digits 120 (m * 2 ^ (250 - L)) 0
    let v : Int := ip * (2 ^ 120 : Nat) + d
    if 0 ≤ v then t.round rm false v.natAbs (-120) true else t.round rm true (v.natAbs - 1) (-120) true

/-- The exact value rounded to an integer (03 R94): the integer part by the mode. -/
def roundInt (rm : Nat) (neg : Bool) (m : Nat) (e : Int) : Int :=
  let r := (roundAt rm neg m e false 0).1
  if neg then -(r : Int) else r

/-- FRINT (07 R227): the integral value, no event for inexact. -/
def Fmt.rint (t : Fmt) (rm : Nat) (v : Nat) : Nat × Flags :=
  match t.decode v with
  | .nan s => (t.nan, { noFlags with invalid := s })
  | .inf _ => (v, noFlags)
  | .fin n m e => if m = 0 then (v, noFlags) else
    let r := (roundAt rm n m e false 0).1
    ((t.round rm n r 0 false).1, noFlags)

/-- A finite value as an integer key for comparison with another: none when it is not finite. -/
def cmpFin (n1 : Bool) (m1 : Nat) (e1 : Int) (n2 : Bool) (m2 : Nat) (e2 : Int) : Int :=
  let e0 := min e1 e2
  finScaled n1 m1 e1 e0 - finScaled n2 m2 e2 e0

/-- a < b of values that are not NaN. -/
def FVal.lt : FVal → FVal → Bool
  | .inf n1, .inf n2 => n1 && !n2
  | .inf n1, .fin _ _ _ => n1
  | .fin _ _ _, .inf n2 => !n2
  | .fin n1 m1 e1, .fin n2 m2 e2 => decide (cmpFin n1 m1 e1 n2 m2 e2 < 0)
  | _, _ => false

/-- a = b of values that are not NaN; +0 = -0. -/
def FVal.eq (a b : FVal) : Bool := !a.isNan && !b.isNan && !a.lt b && !b.lt a

def FVal.sign : FVal → Bool
  | .nan _ => false
  | .inf n => n
  | .fin n _ _ => n

/-- FMAX and FMIN on patterns (07 R228). -/
def Fmt.maxMin (t : Fmt) (isMax : Bool) (x y : Nat) : Nat × Flags :=
  let a := t.decode x
  let b := t.decode y
  let fl : Flags := { noFlags with invalid := a.isSnan || b.isSnan }
  if a.isNan && b.isNan then (t.nan, fl) else if a.isNan then (y, fl) else if b.isNan then (x, fl) else
  let less := a.lt b || (a.eq b && a.sign && !b.sign)
  (if less then (if isMax then y else x) else (if isMax then x else y), fl)

/-- Addition, multiplication and the fused operation on patterns under a mode, with FTZ (03 R89). -/
def Fmt.add (t : Fmt) (rm : Nat) (ftz : Bool) (x y : Nat) : Nat × Flags :=
  t.flushOut ftz (t.addV rm (t.decode (t.flushIn ftz x)) (t.decode (t.flushIn ftz y)))
def Fmt.sub (t : Fmt) (rm : Nat) (ftz : Bool) (x y : Nat) : Nat × Flags :=
  t.flushOut ftz (t.addV rm (t.decode (t.flushIn ftz x)) (t.decode (t.flushIn ftz y)).neg)
def Fmt.mul (t : Fmt) (rm : Nat) (ftz : Bool) (x y : Nat) : Nat × Flags :=
  t.flushOut ftz (t.mulF rm (t.decode (t.flushIn ftz x)) (t.decode (t.flushIn ftz y)))
def Fmt.fma (t : Fmt) (rm : Nat) (ftz : Bool) (x y z : Nat) : Nat × Flags :=
  t.flushOut ftz (t.fmaV rm (t.decode (t.flushIn ftz x)) (t.decode (t.flushIn ftz y)) (t.decode (t.flushIn ftz z)))
/-- z - x y with one rounding. -/
def Fmt.fms (t : Fmt) (rm : Nat) (ftz : Bool) (x y z : Nat) : Nat × Flags :=
  t.flushOut ftz (t.fmaV rm (t.decode (t.flushIn ftz x)).neg (t.decode (t.flushIn ftz y)) (t.decode (t.flushIn ftz z)))

/-- A conversion of a finite value to a float type (03 R94): beyond the largest finite it saturates. -/
def Fmt.convFin (t : Fmt) (rm : Nat) (n : Bool) (m : Nat) (e : Int) : Nat × Flags :=
  let r := t.round rm n m e false
  if r.2.ovf then (t.maxFinite n, { noFlags with sat := true }) else r

/-- A conversion between float types or from a value (03 R94). -/
def Fmt.convV (t : Fmt) (rm : Nat) : FVal → Nat × Flags
  | .nan s => (t.nan, { noFlags with invalid := s })
  | .inf n => (t.inf n, noFlags)
  | .fin n m e => t.convFin rm n m e

/-- A conversion to an integer range (03 R94). -/
def convInt (rm : Nat) (lo hi : Int) : FVal → Int × Flags
  | .nan _ => (0, { noFlags with invalid := true })
  | .inf n => (if n then lo else hi, { noFlags with sat := true })
  | .fin n m e =>
    let v := roundInt rm n m e
    let c := clampInt v lo hi
    (c, { noFlags with sat := decide (c ≠ v) })

/-- An integer as an exact value. -/
def ofIntV (i : Int) : FVal := .fin (decide (i < 0)) i.natAbs 0

/-- A value times 2^k (03 R99); Inf and NaN keep their value. -/
def FVal.scale (k : Int) : FVal → FVal
  | .fin n m e => .fin n m (e + k)
  | v => v

/-! EXP2 (03 R105). -/

/-- T[i] = rne(2^(i/64), f32); each entry is checked against its definition in the tests. -/
def exp2Table : List Nat := [
  0x3F800000, 0x3F8164D2, 0x3F82CD87, 0x3F843A29, 0x3F85AAC3, 0x3F871F62, 0x3F88980F, 0x3F8A14D5,
  0x3F8B95C2, 0x3F8D1ADF, 0x3F8EA43A, 0x3F9031DC, 0x3F91C3D3, 0x3F935A2B, 0x3F94F4F0, 0x3F96942D,
  0x3F9837F0, 0x3F99E046, 0x3F9B8D3A, 0x3F9D3EDA, 0x3F9EF532, 0x3FA0B051, 0x3FA27043, 0x3FA43516,
  0x3FA5FED7, 0x3FA7CD94, 0x3FA9A15B, 0x3FAB7A3A, 0x3FAD583F, 0x3FAF3B79, 0x3FB123F6, 0x3FB311C4,
  0x3FB504F3, 0x3FB6FD92, 0x3FB8FBAF, 0x3FBAFF5B, 0x3FBD08A4, 0x3FBF179A, 0x3FC12C4D, 0x3FC346CD,
  0x3FC5672A, 0x3FC78D75, 0x3FC9B9BE, 0x3FCBEC15, 0x3FCE248C, 0x3FD06334, 0x3FD2A81E, 0x3FD4F35B,
  0x3FD744FD, 0x3FD99D16, 0x3FDBFBB8, 0x3FDE60F5, 0x3FE0CCDF, 0x3FE33F89, 0x3FE5B907, 0x3FE8396A,
  0x3FEAC0C7, 0x3FED4F30, 0x3FEFE4BA, 0x3FF28177, 0x3FF5257D, 0x3FF7D0DF, 0x3FFA83B3, 0x3FFD3E0C]

def exp2C1 : Nat := 0x3F317218
def exp2C2 : Nat := 0x3E75FDF0
def exp2C3 : Nat := 0x3D635847

/-- 2^x by the procedure of 03 R105. -/
def exp2 (v : Nat) : Nat × Flags :=
  match f32.decode v with
  | .nan s => (f32.nan, { noFlags with invalid := s })
  | .inf n => (if n then 0 else f32.inf false, noFlags)
  | .fin n m e =>
    if !(FVal.lt (.fin n m e) (.fin false 128 0)) then (f32.inf false, { noFlags with ovf := true })
    else if FVal.lt (.fin n m e) (.fin true 151 0) then (0, { noFlags with under := true })
    else
      let j := roundInt 0 n m (e + 6)
      let e0 := min e (-6)
      let r := finScaled n m e e0 - j * ((2 ^ (-6 - e0).toNat : Nat) : Int)
      let rv : FVal := .fin (decide (r < 0)) r.natAbs e0
      let q := j / 64
      let i := (j % 64).toNat
      let u1 := (f32.fmaV 0 rv (f32.decode exp2C3) (f32.decode exp2C2)).1
      let u2 := (f32.fmaV 0 rv (f32.decode u1) (f32.decode exp2C1)).1
      let p := (f32.fmaV 0 rv (f32.decode u2) (.fin false 1 0)).1
      let y := (f32.mulF 0 (f32.decode (exp2Table.getD i 0)) (f32.decode p)).1
      match f32.decode y with
      | .fin n2 m2 e2 => f32.round 0 n2 m2 (e2 + q) false
      | _ => (y, noFlags)

end Sys2Proof.Machine
end

