-- ==== Sys2Proof/Machine/Flags.lean ====
section
/-! DEFINITION. The first-event log: which event a computation records and how the log keeps it (03 R107 to R109, 05
R149). -/

namespace Sys2Proof.Machine

/-! Event codes (03 R107). -/

abbrev Ev.invalid : Fin 16 := 1
abbrev Ev.overflow : Fin 16 := 2
abbrev Ev.underflow : Fin 16 := 3
abbrev Ev.divzero : Fin 16 := 4
abbrev Ev.saturate : Fin 16 := 5
abbrev Ev.paramOob : Fin 16 := 6
abbrev Ev.bypassStale : Fin 16 := 7
abbrev Ev.wawCollide : Fin 16 := 8
abbrev Ev.tagMismatch : Fin 16 := 9
abbrev Ev.quietDrain : Fin 16 := 10

/-- FELI of an event (05 R149). -/
def LogEvent.feli (e : LogEvent) : Word := BitVec.ofNat 64 (e.code.val + e.slot.val * 16 + e.lane.val * 128)

/-- The place of an event among those of one beat: by slot, then by lane (03 R108). -/
def LogEvent.order (e : LogEvent) : Nat := e.slot.val * 32 + e.lane.val

/-- The place of the log's entry among those of its beat. -/
def entryOrder (feli : Word) : Nat := bits feli 4 3 * 32 + bits feli 7 5

/-- Counts an event at beat `b`: its sticky bit is set, and an empty log takes it as its entry (03 R107). Of the events of one beat the
first in slot and lane order is the entry, whichever the machine meets first (03 R108). Code 0 is no event. -/
def State.recordAt (b : Nat) (s : State) (e : LogEvent) : State :=
  if e.code = 0 then s else
  let takes := bits s.core.r.sr.feli 0 4 = 0 ∨ (s.core.evBeat = some b ∧ e.order < entryOrder s.core.r.sr.feli)
  let s := s.modSr fun r =>
    let r := { r with fels := r.fels ||| BitVec.ofNat 64 (2 ^ e.code.val) }
    if takes then { r with feli := e.feli, fela := e.pc } else r
  { s with core := { s.core with evBeat := if takes then some b else s.core.evBeat } }

/-- Counts an event at the present beat. -/
def State.record (s : State) (e : LogEvent) : State := s.recordAt s.core.beat e

/-- Counts events of one beat in the order of 03 R108. -/
def State.recordAllAt (b : Nat) (s : State) (es : List LogEvent) : State :=
  (sortOn LogEvent.order es).foldl (State.recordAt b) s
def State.recordAll (s : State) (es : List LogEvent) : State := s.recordAllAt s.core.beat es

/-- An event of the slot being issued: it is counted with the slot's result, or at the issuing beat when it has none (03 R108). -/
def State.event (s : State) (code : Fin 16) : State :=
  { s with core := { s.core with iss := { s.core.iss with stale := s.core.iss.stale ++ [⟨code, s.core.iss.slot, 0, s.core.iss.pc⟩] } } }

/-- Counts the events of a slot that had no result. -/
def countEvents (s : State) : State :=
  let es := s.core.iss.stale
  ({ s with core := { s.core with iss := { s.core.iss with stale := [] } } } : State).recordAll es

/-- The place of a condition among those of one lane of one result (03 R108); 5 for an event of another kind. -/
def conditionRank (code : Fin 16) : Nat :=
  if code = Ev.invalid then 0 else if code = Ev.divzero then 1 else if code = Ev.overflow then 2 else if code = Ev.underflow then 3
  else if code = Ev.saturate then 4 else 5

/-- Of the conditions that one lane of one result meets, only the first (03 R108). -/
def firstConditions (es : List LogEvent) : List LogEvent :=
  (es.filter fun e => conditionRank e.code == 5 ||
    !es.any fun f => f.lane == e.lane && decide (conditionRank f.code < conditionRank e.code)).dedup

/-- The event of one lane of a result of the bundle being issued, if any (03 R108). -/
def laneEvent (s : State) (lane : Nat) (f : Flags) : List LogEvent :=
  if f.code = 0 then [] else [⟨f.code, s.core.iss.slot, Fin.ofNat 32 lane, s.core.iss.pc⟩]

end Sys2Proof.Machine
end

