-- ==== Sys2Proof/Machine/LogRing.lean ====
section
/-! DEFINITION. The memory log of the Retrograde unit: entries, their bytes, the ring, and what happens when it fills (12
R352 to R366). -/

namespace Sys2Proof.Machine

/-- An entry before it is appended: KIND, FLAGS, SRC, WIN, PC and body (12 R356 R357). -/
structure LogEnt where
  kind : BitVec 8
  flags : Nat
  src : Nat
  win : Word
  pc : Word
  body : List Byte
  deriving DecidableEq, Repr, Inhabited

def b8 (w : Word) : List Byte := toBytes 8 w.toNat
def n8 (n : Nat) : List Byte := toBytes 8 n

/-- The bytes of an entry with its stamp. -/
def LogEnt.bytes (e : LogEnt) (stamp : Word) : List Byte :=
  let body := pad16 e.body
  [e.kind, BitVec.ofNat 8 e.flags] ++ toBytes 2 ((32 + body.length) / 16) ++ [BitVec.ofNat 8 e.src, 0, 0, 0] ++
  b8 e.win ++ b8 stamp ++ b8 e.pc ++ body

def LogEnt.size (e : LogEnt) : Nat := 32 + (pad16 e.body).length

/-- LOGMODE.MODE of the strand (12 R352): windows closed outside strand mode are not logged (log 16). -/
def State.logOn (s : State) (least : Nat) : Bool :=
  decide (least ≤ bits s.core.log.mode 0 2) && s.core.mode == .strand

/-- The ring's size. -/
def LogRegs.ring (l : LogRegs) : Nat := 2 ^ bits l.size 0 6

/-- The head after entries of these sizes: an entry never straddles the end of the ring (12 R355). -/
def logAfter (ring : Nat) (head : Nat) (sizes : List Nat) : Nat :=
  sizes.foldl (fun h n => if ring < h % ring + n then (h / ring + 1) * ring + n else h + n) head

/-- Free space (12 R365). -/
def LogRegs.free (l : LogRegs) : Nat := l.ring - (l.head.toNat - l.tail.toNat)

/-- Discards whole entries, oldest first, until `need` bytes are free (12 R366). -/
def logTruncate (need : Nat) : Nat → State → State
  | 0, s => s
  | fuel + 1, s =>
    let l := s.core.log
    if need ≤ l.free ∨ l.head.toNat ≤ l.tail.toNat then s
    else logTruncate need fuel (s.dropEntry.modLog fun l => { l with mode := setBits l.mode 3 1 1 })

/-- Makes room for entries: true when they may be appended. Under STALL a full ring sets STALLED and posts LOG_FULL once
(12 R365); under TRUNCATE old entries go (12 R366). -/
def logRoom (es : List LogEnt) (s : State) : Bool × State :=
  let l := s.core.log
  let need := logAfter l.ring l.head.toNat (es.map LogEnt.size) - l.head.toNat
  if need ≤ l.free then (true, s.modLog fun l => { l with mode := setBits l.mode 6 1 0 })
  else if bitAt l.mode 2 then (true, logTruncate need (l.head.toNat / 16 + 1) s)
  else
    let s := if l.fullPosted then s else
      report s (some s.core.partOf) (dieOf s.core.id) Cause.logFull 4 (unitId s.core.id 6) false s.core.iss.pc s.core.crec
    (false, s.modLog fun l => { l with mode := setBits l.mode 6 1 1, fullPosted := true })

/-- Writes one entry at the head (12 R355 R364). -/
def logWrite (s : State) (bytes : List Byte) : State :=
  let l := s.core.log
  let s := devWrite (strandAgent s 0) (l.addr l.head.toNat) bytes s
  s.modLog fun l => { l with head := l.head + BitVec.ofNat 64 bytes.length, cur := l.head + BitVec.ofNat 64 bytes.length }

/-- A PAD entry of `room` bytes; one of 16 bytes holds the first half of the header only (12 R355 R356). -/
def padEntry (room : Nat) (win stamp : Word) : List Byte :=
  ([Ent.pad, 0] ++ toBytes 2 (room / 16) ++ [7, 0, 0, 0] ++ b8 win ++ b8 stamp ++ List.replicate (room - 24) 0).take room

/-- Appends an entry, after a PAD where it would straddle the end of the ring. -/
def logAppend (s : State) (e : LogEnt) : State :=
  let l := s.core.log
  let room := l.ring - l.head.toNat % l.ring
  let s := if room < e.size then logWrite s (padEntry room s.core.r.sr.win s.dev.stamp) else s
  let st := s.dev.stamp + 1
  let s := logWrite { s with dev := { s.dev with stamp := st } } (e.bytes st)
  s.modLog fun l => { l with stamp := st, irrcnt := if e.flags / 2 % 2 = 1 then l.irrcnt + 1 else l.irrcnt }

/-- What keeps an append from being made: a cause that traps, a resolvable fault, or a write that WB or a dirty bit blocks (04 R118
R119 R128, 12 R355). -/
inductive LogStop where
  | trap (cause : BitVec 8) (addr : Word)
  | fault (cause : BitVec 8) (addr : Word)
  | blocked
  deriving DecidableEq, Repr

/-- A LOGBASE in a scratchpad aperture (12 R355). -/
def LogRegs.inAperture (l : LogRegs) : Bool := region l.base != .glob

/-- One address in each page that an append of these entries writes. -/
def logPlaces (es : List LogEnt) (l : LogRegs) : List Word :=
  let stop := logAfter l.ring l.head.toNat (es.map LogEnt.size)
  (List.range ((stop - l.head.toNat) / 4096 + 2)).map fun i => l.addr (min (l.head.toNat + 4096 * i) (stop - 1))

/-- The first page of an append that cannot be written: none where all can (12 R355). -/
def logFault (es : List LogEnt) (s : State) : Option LogStop :=
  (logPlaces es s.core.log).findSome? fun va =>
    match locate (strandAgent s 0) .write false va s with
    | .ok k s => if (markDirtyKey s s.core.partOf k.key).1 then none else some .blocked
    | .trap c a _ => some (.trap c a)
    | .fault c a _ => some (.fault c a)
    | .wait _ => some .blocked

/-- The dirty bits of the pages of an append, as far as they can be set: a full dirty ring is reported (04 R128). -/
def logDirty (es : List LogEnt) (s : State) : State :=
  (logPlaces es s.core.log).foldl (fun s va =>
    match locate (strandAgent s 0) .write false va s with
    | .ok k s => (markDirtyKey s s.core.partOf k.key).2
    | a => a.state) s

/-- Whether entries may be appended: none with their room made, or what keeps them from it. A ring in an aperture traps; a ring
without room and a write that is blocked wait; a page that does not translate faults (12 R355 R365). -/
def logReady (es : List LogEnt) (s : State) : Option LogStop × State :=
  if s.core.log.inAperture then (some (.trap Cause.apertureAccess s.core.log.base), s)
  else match logRoom es s with
    | (false, s) => (some .blocked, s)
    | (true, s) => match logFault es s with
      | some .blocked => (some .blocked, logDirty es s)
      | x => (x, s)

/-! Entries of stores and atomics (12 R357 R358). -/

/-- META of an UNDO entry. -/
def undoMeta (n : Nat) (old new : BitVec 25) : Nat :=
  n + boolBit (n == 0) * 2 ^ 7 + old.toNat % 2 ^ 24 * 2 ^ 8 + old.toNat / 2 ^ 24 * 2 ^ 32 + new.toNat % 2 ^ 24 * 2 ^ 33 +
  new.toNat / 2 ^ 24 * 2 ^ 57

/-- The UNDO entry of a held store about to be performed. -/
def undoEnt (s : State) (h : HStore) (tx : Bool) : LogEnt :=
  let old := s.mdata h.key
  { kind := Ent.undo, flags := boolBit tx + 2 * boolBit h.far, src := h.slot.val, win := s.core.r.sr.win, pc := h.pc,
    body := b8 h.va ++ n8 (undoMeta h.bytes.length old (h.apply old)) ++ pad16 (s.peek h.key h.bytes.length) ++ pad16 h.bytes }

/-! Entries of a boundary (12 R359 R360). -/

/-- The state selected for SREGS: selectors and words, in rising order (12 R360). -/
def selWords (s : State) (r : Regs) (tiles : Vector Tile 64) : List (Nat × Word) :=
  let t : State := { s with core := { s.core with r := r } }
  let skip := [4, 8, 9, 0xC, 0x10, 0x11, 0x12, 0x13, 0x30, 0x31, 0x32, 0x33, 0x34]
  (List.range 0x100).filterMap (fun n => if skip.contains n then none else (t.readStrand n).map fun w => (n, w)) ++
  (List.range 4).flatMap (fun k =>
    ((r.shA.toList.getD k zeroShape).w.toList.mapIdx fun i w => (0x400 + 16 * k + i, w)) ++
    ((r.shS.toList.getD k zeroShape).w.toList.mapIdx fun i w => (0x408 + 16 * k + i, w))) ++
  tiles.toList.mapIdx fun i t => (0x440 + i, t.word)

/-- The bytes of a matrix register's elements. -/
def MReg.bytes (m : MReg) : List Byte := (List.range 1024).flatMap fun i => toBytes 4 (sget m.cells 0 i).toNat

/-- MSTATE of a matrix register: power and valid (14 R428). -/
def MReg.mstate (m : MReg) : Nat :=
  (match m.power with | .on => 0 | .drowsy => 1 | .gated => 2) + 4 * boolBit m.valid

/-- SREGS, MREG and REGS of a closing boundary whose opening registers are `o`, with the next bundle's address. -/
def boundaryEnts (s : State) (o : Regs) (pc : Word) (quiet : Bool) : List LogEnt :=
  let r := s.core.r
  let win := r.sr.win
  let ent := fun (k : BitVec 8) (fl : Nat) (pc : Word) (b : List Byte) => ({ kind := k, flags := fl, src := 7, win := win, pc := pc, body := b } : LogEnt)
  let pairs := ((selWords s o s.core.tilesOpen).zip (selWords s r s.core.tiles)).filter fun p => p.1.2 != p.2.2
  let sregs := if pairs.isEmpty then [] else
    [ent Ent.sregs 0 pc (pairs.flatMap fun p => n8 p.1.1 ++ b8 (p.1.2 ^^^ p.2.2))]
  let mregs := (List.finRange 16).filterMap fun k =>
    if o.m.get k = r.m.get k then none
    else some (ent Ent.mreg 0 pc (n8 k.val ++ (o.m.get k).bytes ++ n8 ((o.m.get k).mstate)))
  let w := s.core.win
  let xs := (List.finRange 64).filter fun k => w.wx.getLsbD k.val
  let old := fun (k : Fin 64) => if o.xv.getLsbD k.val then o.x.get k else 0
  let body := b8 w.wx ++ b8 o.xv ++ toBytes 2 (o.p ^^^ r.p).toNat ++ toBytes 2 (o.pv ^^^ r.pv).toNat ++
    toBytes 1 w.wbt.toNat ++ toBytes 1 o.btv.toNat ++ toBytes 1 w.wvm.toNat ++ toBytes 1 w.wlc.toNat ++ n8 0 ++
    xs.flatMap (fun k => b8 (old k ^^^ r.x.get k)) ++
    ((List.finRange 8).filter fun k => w.wbt.getLsbD k.val).flatMap (fun k =>
      b8 ((if o.btv.getLsbD k.val then o.bt.get k else 0) ^^^ r.bt.get k)) ++
    ((List.finRange 8).filter fun k => w.wvm.getLsbD k.val).flatMap (fun k => toBytes 4 (o.vm.get k ^^^ r.vm.get k).toNat) ++
    ((List.finRange 4).filter fun k => w.wlc.getLsbD k.val).flatMap (fun k => toBytes 4 (o.lc.get k ^^^ r.lc.get k).toNat)
  sregs ++ mregs ++ [ent Ent.regs (4 * boolBit quiet) pc body]

/-! Replay (12 R374). -/

/-- The header and body of the entry at byte count `b`: kind, flags, length, PC and body. -/
def logEntryAt (s : State) (b : Nat) : LogEnt × Nat :=
  let h := s.logBytes b 32
  let len := max 16 (field h 2 2 * 16)
  (⟨h.getD 0 0, field h 1 1, field h 4 1, BitVec.ofNat 64 (field h 8 8), BitVec.ofNat 64 (field h 24 8),
    if len ≤ 32 then [] else (s.logBytes (b + 32) (len - 32))⟩, len)

/-- The entries from byte count `b` to `e`, each with its place. -/
def logEntries (s : State) : Nat → Nat → Nat → List (Nat × LogEnt × Nat)
  | 0, _, _ => []
  | fuel + 1, b, e =>
    if e ≤ b then [] else
    let x := logEntryAt s b
    (b, x) :: logEntries s fuel (b + x.2) e

/-- The entries from LOGCUR up to the next REGS entry: what a replayed window must produce. A recorded pickup is passed over. -/
def windowEntries (s : State) : List (Nat × LogEnt × Nat) :=
  let l := s.core.log
  let es := (logEntries s (l.head.toNat / 16 + 1) l.cur.toNat l.head.toNat).filter fun x =>
    x.2.1.kind != Ent.pad && !(x.2.1.kind == Ent.inrec && field x.2.1.body 0 8 == 2)
  es.takeWhile (fun x => x.2.1.kind != Ent.regs) ++ (es.dropWhile fun x => x.2.1.kind != Ent.regs).take 1

end Sys2Proof.Machine
end

