-- ==== Sys2Proof/Machine/Messages.lean ====
section
/-! DEFINITION. Progress blocks and working state of the engines, and the messages of the exchange engine: parameters, peers,
sending, and what a stop leaves (01 R14, 11 R328 to R335 R340 R346 R347). -/

namespace Sys2Proof.Machine

/-- The opcode of an E-slot operation within its engine (02 R71). -/
def opCode : Instr → Nat
  | .mgemm .. | .scout .. | .ccopy .. | .vsort .. | .allred .. | .logmark .. | .qfence .. => 1
  | .mgemms .. | .swin .. | .cgather .. | .vsoftmax .. | .allgath .. | .logflush .. | .etrel .. => 2
  | .mconv .. | .smask .. | .cscatter .. | .vnorm .. | .redscat .. | .ecancel .. => 3
  | .mattn .. | .sscore .. | .cfill .. | .vreduce .. | .xbcast .. | .esignal .. | .esignalAdd .. => 4
  | .ctrans .. | .alltoall .. => 5
  | .cplane .. | .xsend .. => 6
  | .cflat .. | .xrecv .. => 7
  | .cpagein .. => 8
  | .cmigrate .. => 9
  | .ctags .. => 10
  | _ => 0

/-! Progress blocks and working state. -/

def State.progBlock (s : State) (e : Nat) : Vector Word 16 := s.core.eng.prog.toList.getD e (Vector.replicate 16 0)
def State.prog (s : State) (e w : Nat) : Word := vget (s.progBlock e) w
def State.setProg (s : State) (e w : Nat) (v : Word) : State :=
  s.modEng fun g => { g with prog := vset g.prog e (vset (s.progBlock e) w v) }
def State.setProgs (s : State) (e : Nat) (ws : List (Nat × Word)) : State := ws.foldl (fun s x => s.setProg e x.1 x.2) s
/-- STATE: 0 IDLE, 1 RUNNING, 2 STOPPED, 3 COMPLETE, 4 FAULTED. -/
def State.progState (s : State) (e : Nat) : Nat := bits (s.prog e 0) 0 4
def State.setProgState (s : State) (e st : Nat) : State := s.setProg e 0 (setBits (s.prog e 0) 0 4 st)
def State.progHi (s : State) (e w : Nat) : Nat := bits (s.prog e w) 32 32
def State.progLo (s : State) (e w : Nat) : Nat := bits (s.prog e w) 0 32

def State.work (s : State) (e : Nat) : Work := s.core.eng.work.toList.getD e zeroWork
def State.setWork (s : State) (e : Nat) (w : Work) : State := s.modEng fun g => { g with work := vset g.work e w }
def State.modWork (s : State) (e : Nat) (f : Work → Work) : State := s.setWork e (f (s.work e))

/-! Parameters of an exchange command: its record, then the communicator record (11 R328 R329 R332). -/

def xComm (b : List Byte) : Word := fw b 64
def xRanks (b : List Byte) : Nat := field b 72 2
def xMe (b : List Byte) : Nat := field b 74 2
def xChunk (b : List Byte) : Nat := field b 76 4
def xTimeout (b : List Byte) : Nat := field b 80 4
def xDepth (b : List Byte) : Nat := field b 84 1
def xStage (b : List Byte) : Word := fw b 88
def xPkg (b : List Byte) (k : Nat) : Nat := field b (128 + 16 * k) 4
def xDie (b : List Byte) (k : Nat) : Nat := field b (132 + 16 * k) 1
def xPort (b : List Byte) (k : Nat) : Nat := field b (133 + 16 * k) 1
def xSeq (b : List Byte) : Word := fw b 16
def xDtype (b : List Byte) : Nat := field b 1 1
def xRop (b : List Byte) : Nat := field b 2 1
def xSat (b : List Byte) : Bool := field b 3 1 == 1
def xPeer (b : List Byte) : Nat := field b 24 2
def xTag (b : List Byte) : Nat := field b 28 4

/-- The ranks that a command exchanges data with (11 R336 to R339). -/
def xPeers (op : Nat) (b : List Byte) : List Nat :=
  let n := xRanks b
  let me := xMe b
  if op = 6 ∨ op = 7 then [xPeer b]
  else if op = 5 then (List.range n).filter fun k => k != me
  else if n ≤ 1 then []
  else
    let succ := (me + 1) % n
    let pred := (me + n - 1) % n
    let root := xPeer b
    let l := if op = 4 then (if pred = root ∨ me ≠ root then [pred] else []) ++ (if succ ≠ root then [succ] else []) else [pred, succ]
    l.dedup

/-- The rank lies on another package. -/
def xAway (b : List Byte) (k : Nat) : Bool := xPkg b k != Config.packageId.toNat

/-! Sending. -/

/-- A message of the running command with its header (11 R340). -/
def xMessage (op : Nat) (b : List Byte) (kind : MsgKind) (dst chunk step : Nat) : Message :=
  { kind := kind, comm := xComm b, seq := xSeq b, src := xMe b, dst := dst, chunk := chunk, step := step, info := [op], cdone := 0,
    cmap := 0, payload := [], metas := [], lost := false, port := 18, flits := [] }

def State.port (s : State) (k : Nat) : Port := s.dev.ports.toList.getD k downPort

def State.modPort (s : State) (port : Nat) (f : Port → Port) : State :=
  { s with dev := { s.dev with ports := s.dev.ports.mapFinIdx fun i v _ => if i = port then f v else v } }

/-- The die of a link port (15 R447). -/
def portDie (port : Nat) : Nat := if port < 5 then 0 else if port < 10 then 1 else if port < 14 then 2 else 3

/-! Flits (15 R448). -/

/-- A flit: SEQ and TYPE, the credits returned, the payload and the CRC. -/
def flit (type : Nat) (seq : Fin 4096) (cred : Nat) (payload : List Byte) : List Byte :=
  let b := toBytes 2 (seq.val + type * 4096) ++ [BitVec.ofNat 8 cred, 0] ++ padTo 248 0 payload
  b ++ toBytes 4 (crc32 b)

def flitSeq (b : List Byte) : Fin 4096 := Fin.ofNat 4096 (field b 0 2)
def flitType (b : List Byte) : Nat := field b 0 2 / 4096
def flitCred (b : List Byte) : Nat := field b 2 1

/-- The flit's CRC, TYPE and reserved bits are right. -/
def flitGood (b : List Byte) : Bool :=
  b.length == 256 && decide (flitType b < 4) && field b 3 1 == 0 && field b 252 4 == crc32 (b.take 252)

/-- The waiting flits of a port are sent in order, while there are credits and the replay buffer of 256 flits has room. -/
def sendFlits (port : Nat) : List (List Byte × Option Message) → State → State
  | [], s => s.modPort port fun p => { p with queue := [] }
  | (x, m) :: r, s =>
    let p := s.port port
    if p.credits = 0 ∨ 256 ≤ p.replay.length then s.modPort port fun p => { p with queue := (x, m) :: r }
    else
      let f := flit 1 p.nextSeq 0 x
      let s := s.modPort port fun p => { p with replay := p.replay ++ [f], nextSeq := p.nextSeq + 1, credits := p.credits - 1 }
      sendFlits port r { s with dev := { s.dev with out := s.dev.out ++ [.flits port [f]] ++ (m.map (Out.link port)).toList } }

/-- A message takes consecutive DATA flits of its port. How many, and what stands in them, are free values: the layout of a message in flits is
not given. -/
def takeFlits (port : Nat) (m : Message) (s : State) : State :=
  let n := Config.freeNat s.free
  let fs := (List.range (n + 1)).map fun i => (Config.flitPayload s.free i, if i = n then some m else none)
  sendFlits port ((s.port port).queue ++ fs) { s with free := s.free + 1 }

/-- Credits come back to a port, and flits that waited are sent. -/
def giveCredits (port n : Nat) (s : State) : State :=
  let s := s.modPort port fun p => { p with credits := p.credits + n }
  sendFlits port (s.port port).queue s

/-- The flits of a message that arrives on a port are acknowledged, their room is returned, and the credits they bring are used. -/
def takeArrival (m : Message) (s : State) : State :=
  let s := { s with dev := { s.dev with out := s.dev.out ++ [.control m.port.val false (flitSeq (m.flits.getLastD [])) m.flits.length] } }
  giveCredits m.port.val (m.flits.map flitCred).sum s

/-- Sends a message to its rank: on the rank's port to another package, over the bridge fabric within this one. A replay
sends nothing (12 R374). -/
def xSend (b : List Byte) (m : Message) (s : State) : State :=
  if s.core.replay.isSome then s
  else if xAway b m.dst then
    if (s.port (xPort b m.dst)).state ≠ 2 then s else
    takeFlits (xPort b m.dst) m s
  else { s with dev := { s.dev with fabric := s.dev.fabric ++ [m] } }

/-! Chunks that are complete (11 R342 R346). -/

def State.xDone (s : State) (c : Nat) : Bool :=
  let cd := (s.prog 4 5).toNat
  decide (c < cd) || (decide (cd < c) && decide (c - cd - 1 < 64) && bitAt (s.prog 4 6) (c - cd - 1))

/-- CDONE passes the complete chunks that follow it. -/
def xAdvance : Nat → Nat → Nat → Nat × Nat
  | 0, cd, cm => (cd, cm)
  | fuel + 1, cd, cm => if cm % 2 = 1 then xAdvance fuel (cd + 1) (cm / 2) else (cd + 1, cm / 2)

/-- Chunk `c` is complete at this rank. -/
def xComplete (c : Nat) (s : State) : State :=
  if s.xDone c then s else
  let cd := (s.prog 4 5).toNat
  let cm := (s.prog 4 6).toNat
  if c = cd then
    let r := xAdvance 65 cd cm
    s.setProgs 4 [(5, BitVec.ofNat 64 r.1), (6, BitVec.ofNat 64 r.2)]
  else s.setProg 4 6 (BitVec.ofNat 64 (Nat.lor cm (2 ^ (c - cd - 1))))

/-! A stop (11 R347). -/

def State.modExch (s : State) (f : Exch → Exch) : State := s.modEng fun g => { g with exch := f g.exch }
def noExch : Exch := ⟨[], [], [], [], [], []⟩

/-- Holds START messages until their command starts here: a later one of the same rank replaces an earlier one (11 R341). -/
def holdStarts (ms : List Message) (s : State) : State :=
  let same := fun (a m : Message) => a.comm == m.comm && a.src == m.src && a.dst == m.dst && a.seq == m.seq
  { s with dev := { s.dev with xheld := ms.foldl (fun l m => (l.filter fun a => !same a m) ++ [m]) s.dev.xheld } }

/-- The running command stops: staged messages of complete chunks are kept, PAUSED goes to its peers. The START messages
it received stay received. -/
def pauseExchange (i : Instr) (b : List Byte) (s : State) : State :=
  let op := opCode i
  let x := s.core.eng.exch
  let kept := x.staged.filter fun m => s.xDone m.msg.chunk
  let s := (xPeers op b).foldl (fun s k => xSend b (xMessage op b .paused k 0 0) s) s
  let key := fun (x : Nat × Nat × List Staged) => !(x.1 == (xComm b).toNat && x.2.1 == xMe b)
  let s := { s with dev := { s.dev with xstage := s.dev.xstage.filter key ++ (if kept.isEmpty then [] else [((xComm b).toNat, xMe b, kept)]) } }
  ({ s with dev := { s.dev with xheld := x.started ++ s.dev.xheld } }).modExch fun _ => noExch

end Sys2Proof.Machine
end

