-- ==== Sys2Proof/Machine/EngineCommon.lean ====
section
/-! DEFINITION. What the engines share: codes, progress blocks, tiles of commands, queue status, census and profile
records, and how a command completes, stops, faults, is cancelled or is discarded (01 R24 to R36, 09 R300, 12 R378 to
R380, 04 R143). -/

namespace Sys2Proof.Machine

/-! Codes. -/

/-- The engine code of an E-slot operation (01 R14), 7 for any other instruction. -/
def engineCode : Instr → Nat
  | .mgemm .. | .mgemms .. | .mconv .. | .mattn .. => 0
  | .scout .. | .swin .. | .smask .. | .sscore .. => 1
  | .ccopy .. | .cgather .. | .cscatter .. | .cfill .. | .ctrans .. | .cplane .. | .cflat .. | .cpagein .. | .cmigrate ..
  | .ctags .. => 2
  | .vsort .. | .vsoftmax .. | .vnorm .. | .vreduce .. => 3
  | .allred .. | .allgath .. | .redscat .. | .xbcast .. | .alltoall .. | .xsend .. | .xrecv .. => 4
  | .logmark .. | .logflush .. => 5
  | .qfence .. | .etrel .. | .ecancel .. | .esignal .. | .esignalAdd .. => 6
  | _ => 7

/-- The shape operands of an operation: position (0 A, 1 B, 2 C, 3 MATTN's V) and shape register (01 R30, 08 R250, 09, 10,
07, 11). -/
def shapeFields : Instr → List (Nat × Fin 4)
  | .mgemm _ a b c .. | .mgemms _ a b c .. | .mconv _ a b c .. | .sscore _ a b c .. | .cgather _ a b c ..
  | .cscatter _ a b c .. | .vsort _ a b c .. | .vsoftmax _ a b c .. | .vnorm _ a b c .. | .vreduce _ a b c .. =>
    [(0, a), (1, b), (2, c)]
  | .mattn _ a b c _ _ _ v _ => [(0, a), (1, b), (2, c), (3, v)]
  | .scout _ a b .. => [(0, a), (1, b)]
  | .ccopy _ a c .. | .ctrans _ a c .. | .cplane _ a c .. | .cflat _ a c .. | .allred _ a c .. | .allgath _ a c ..
  | .redscat _ a c .. | .xbcast _ a c .. | .alltoall _ a c .. => [(0, a), (2, c)]
  | .cfill _ c .. | .xrecv _ c .. => [(2, c)]
  | .xsend _ a .. => [(0, a)]
  | _ => []

/-- The R bit and the parameter register of an E-slot operation of engines 0 to 4 (02 R60). -/
def resumeBit : Instr → Bool
  | .mgemm _ _ _ _ _ _ r _ | .mgemms _ _ _ _ _ _ r _ | .mconv _ _ _ _ _ _ r _ | .mattn _ _ _ _ _ _ r _ _
  | .sscore _ _ _ _ _ _ r | .cgather _ _ _ _ _ _ r | .cscatter _ _ _ _ _ _ r | .vsort _ _ _ _ _ _ r
  | .vsoftmax _ _ _ _ _ _ r | .vnorm _ _ _ _ _ _ r | .vreduce _ _ _ _ _ _ r | .scout _ _ _ _ _ r | .ccopy _ _ _ _ _ r
  | .ctrans _ _ _ _ _ r | .cplane _ _ _ _ _ r | .cflat _ _ _ _ _ r | .allred _ _ _ _ _ r | .allgath _ _ _ _ _ r
  | .redscat _ _ _ _ _ r | .xbcast _ _ _ _ _ r | .alltoall _ _ _ _ _ r | .cfill _ _ _ _ r | .xrecv _ _ _ _ r
  | .xsend _ _ _ _ r | .swin _ _ _ r | .smask _ _ _ r | .cpagein _ _ _ r | .cmigrate _ _ _ r | .ctags _ _ _ r => r == 1
  | _ => false

/-! Progress blocks and working state. -/

/-- A word of two 32-bit halves. -/
def word2 (hi lo : Nat) : Word := BitVec.ofNat 64 (lo % 2 ^ 32 + hi % 2 ^ 32 * 2 ^ 32)

def State.head (s : State) (q : Nat) : Option Cmd := (s.core.eng.queue q).head?
def State.modHead (s : State) (q : Nat) (f : Cmd → Cmd) : State :=
  match s.core.eng.queue q with
  | [] => s
  | c :: r => s.modEng fun g => g.setQueue q (f c :: r)
def State.dropHead (s : State) (q : Nat) : State := s.modEng fun g => g.setQueue q ((g.queue q).drop 1)

/-- The running command of an engine. -/
def State.runningCmd (s : State) (q : Nat) : Option Cmd := (s.head q).bind fun c => if c.running then some c else none

/-! The running position: small numbers beside the progress block, which holds the position of the last commit. -/

def State.mark (s : State) (q i : Nat) : Nat := (s.work q).marks.getD i 0
def State.setMark (s : State) (q i v : Nat) : State :=
  s.modWork q fun w => { w with marks := (padTo (max w.marks.length (i + 1)) 0 w.marks).set i v }
def State.setMarks (s : State) (q : Nat) (l : List (Nat × Nat)) : State := l.foldl (fun s x => s.setMark q x.1 x.2) s

/-- An unpositioned record digest: CRC-32C of a record, 0 without one (08 R264). -/
def digestOf (prm : List Byte) : Nat := if prm.isEmpty then 0 else crc32c prm

/-- The 64 bytes of a descriptor. -/
def Shape.bytes (h : Shape) : List Byte := h.w.toList.flatMap fun w => toBytes 8 w.toNat

/-! Tiles (01 R35). -/

/-- The start of a command on a tile. -/
def Tile.start (t : Tile) (wr : Bool) : Tile :=
  if wr then (if t.state = .empty then { t with state := .filling, phase := !t.phase } else t)
  else { t with readers := t.readers + 1 }

/-- The completion of a command on a tile. -/
def Tile.finish (t : Tile) (wr : Bool) : Tile :=
  if wr then (if t.state = .filling then { t with state := .ready } else t)
  else
    let t := { t with readers := if t.readers = 0 then 0 else t.readers - 1 }
    if t.state = .draining ∧ t.readers = 0 then { t with state := .empty } else t

/-- The abandonment of a command on a tile: PHASE returns to its value before the fill. -/
def Tile.abandon (t : Tile) (wr : Bool) : Tile :=
  if wr then (if t.state = .filling then { t with state := .empty, phase := !t.phase } else t) else t.finish false

def onTiles (f : Tile → Bool → Tile) (ts : List (Fin 64 × Bool)) (v : Vector Tile 64) : Vector Tile 64 :=
  ts.foldl (fun v t => v.set t.1 (f (v.get t.1) t.2)) v

def State.modTiles (s : State) (f : Vector Tile 64 → Vector Tile 64) : State :=
  { s with core := { s.core with tiles := f s.core.tiles } }

/-! Census and profile records (12 R378 to R380, 09 R300). -/

/-- Probes a census table of 2^lg entries from index `i` for a PC: the first entry that matches or is empty. -/
def censusProbe (s : State) (base : Word) (lg : Nat) (pc : Word) : Nat → Nat → Option (Nat × Bool)
  | 0, _ => none
  | fuel + 1, i =>
    let k := i % 2 ^ lg
    let p := field (devRead (engineAgent s 2 false) (base + BitVec.ofNat 64 (32 * k)) 8 s).1 0 8
    if p = pc.toNat then some (k, true) else if p = 0 then some (k, false) else censusProbe s base lg pc fuel (i + 1)

/-- The five counts of an entry. -/
def Counts.list (c : Counts) : List Nat := [c.nan, c.inf, c.sat, c.unf, c.miss]

def Counts.add (a b : Counts) : Counts := ⟨a.nan + b.nan, a.inf + b.inf, a.sat + b.sat, a.unf + b.unf, a.miss + b.miss⟩

/-- Records the first divergence from the reference (12 R380). -/
def censusDiverge (s : State) (pc : Word) (kind : Nat) : State :=
  if vget s.core.eng.cens 3 = 0 then
    report (s.modEng fun e => { e with cens := vset (vset e.cens 3 pc) 4 (BitVec.ofNat 64 kind) })
      (some s.core.partOf) (dieOf s.core.id) Cause.censusDiverge 4 (unitId s.core.id 0) false pc 0
  else s

/-- Compares the counts of a site with its reference entry. -/
def censusCompare (s : State) (lg : Nat) (pc : Word) (counts : List Nat) : State :=
  let ref := vget s.core.eng.cens 2
  match censusProbe s ref lg pc (2 ^ lg) (pc.toNat / 32) with
  | some (k, true) =>
    let e := (devRead (engineAgent s 2 false) (ref + BitVec.ofNat 64 (32 * k)) 32 s).1
    match (counts.zipIdx.find? fun c => field e (8 + 4 * c.2) 4 < c.1) with
    | some c => censusDiverge s pc (c.2 + 1)
    | none => s
  | _ => censusDiverge s pc 6

/-- Adds a command's counts to its site (12 R379). -/
def censusAdd (s : State) (pc : Word) (c : Counts) : State :=
  let ctl := vget s.core.eng.cens 1
  if !bitAt ctl 0 || bitAt ctl 2 then s else
  let base := vget s.core.eng.cens 0
  let lg := bits ctl 8 5
  match censusProbe s base lg pc (2 ^ lg) (pc.toNat / 32) with
  | none => s.modEng fun e => { e with cens := vset e.cens 1 (setBits ctl 2 1 1) }
  | some (k, _) =>
    let at_ := base + BitVec.ofNat 64 (32 * k)
    let old := (devRead (engineAgent s 2 false) at_ 32 s).1
    let new := c.list.mapIdx fun i n => min 0xFFFFFFFF (field old (8 + 4 * i) 4 + n)
    let s := devWrite (engineAgent s 2 false) at_ (toBytes 8 pc.toNat ++ new.flatMap (toBytes 4) ++ toBytes 4 0) s
    if bitAt ctl 1 then censusCompare s lg pc new else s

/-- Writes a profile record of the matrix engine (09 R300); `end_`: 0 complete, 1 stopped, 2 cancelled, 3 faulted. -/
def profileRecord (s : State) (c : Cmd) (clocks : List Nat) (end_ : Nat) : State :=
  let ctl := vget s.core.eng.cyc 6
  if !bitAt ctl 0 then s else
  let lg := bits ctl 1 5
  let prod := bits ctl 32 32
  if (prod + 2 ^ 32 - bits (vget s.core.eng.cyc 7) 0 32) % 2 ^ 32 = 2 ^ lg then
    s.modEng fun e => { e with cyc := vset e.cyc 6 (setBits ctl 16 16 (min 0xFFFF (bits ctl 16 16 + 1))) }
  else
    let rec_ := b8 c.pc ++ (padTo 5 0 clocks).flatMap n8 ++
      [BitVec.ofNat 8 (opCode c.instr), BitVec.ofNat 8 end_] ++ List.replicate 6 0 ++ n8 s.clock
    let s := devWrite (engineAgent s 2 false) (vget s.core.eng.cyc 5 + BitVec.ofNat 64 (64 * (prod % 2 ^ lg))) rec_ s
    s.modEng fun e => { e with cyc := vset e.cyc 6 (setBits ctl 32 32 (prod + 1)) }

/-- What every end of a command reports: its census counts, and for the matrix engine its profile record. -/
def endCounts (q end_ : Nat) (c : Cmd) (s : State) : State :=
  if 5 ≤ q then s else
  let w := s.work q
  let s := censusAdd s c.pc w.counts
  let s := if q = 0 then profileRecord s c w.clocks end_ else s
  s.modWork q fun w => { w with counts := zeroCounts, clocks := [0, 0, 0, 0, 0] }

/-! Queue status (01 R29) and ends of commands. -/

def State.modStat (s : State) (q : Nat) (f : QStat → QStat) : State :=
  s.modEng fun g => { g with stat := vset g.stat q (f (g.stat.toList.getD q ⟨0, false, 0, 0, 0⟩)) }

/-- The completed count of EQCNT (05 R148). -/
def State.eqDone (s : State) (q n : Nat) : State :=
  if q < 5 then
    let v := vget s.core.eqcnt q
    { s with core := { s.core with eqcnt := vset s.core.eqcnt q (setBits v 0 32 (bits v 0 32 + n)) } }
  else s

/-- The committed count of EQCNT. -/
def State.eqCommit (s : State) (q n : Nat) : State :=
  if q < 5 then
    let v := vget s.core.eqcnt q
    { s with core := { s.core with eqcnt := vset s.core.eqcnt q (setBits v 32 32 (bits v 32 32 + n)) } }
  else s

/-- The events of which one at most is pending: those of the core itself. Engine faults are told apart, and those of several
engines stay pending beside each other (05 R155). -/
def singleEvent (cause : BitVec 8) : Bool :=
  cause == Cause.watchdog || cause == Cause.timer || cause == Cause.hostRequest || cause == Cause.debugHalt || cause == Cause.singleStep

/-- An engine fault or other cause becomes pending for the strand (05 R155). -/
def State.pendEvent (s : State) (cause : BitVec 8) (addr : Word) : State :=
  if singleEvent cause && s.core.pend.any fun p => p.1 == cause then s
  else { s with core := { s.core with pend := s.core.pend ++ [(cause, addr)] } }

/-- The head of queue `q` completes: its last write is performed (01 R24 R35); a command that met TAG_MISMATCH records it
(03 R101 R108). -/
def completeCmd (q : Nat) (s : State) : State :=
  match s.head q with
  | none => s
  | some c =>
    let s := if (s.work q).mismatch || c.mismatch then s.record ⟨Ev.tagMismatch, 5, 0, c.pc⟩ else s
    let s := endCounts q 0 c s
    let s := s.modTiles (onTiles Tile.finish c.tiles)
    let s := s.dropHead q
    let s := s.eqDone q 1
    if q < 5 then (s.setWork q zeroWork).setProgState q 3 else s

/-- The running head of queue `q` stops at its pre-emption point with STATE 2; its phases are EMPTY again. `end_` is END of
its profile record. -/
def stopHeadAs (end_ : Nat) (q : Nat) (s : State) : State :=
  match s.runningCmd q with
  | none => s
  | some c =>
    let s := endCounts q end_ c s
    let s := s.modTiles (onTiles Tile.abandon ((s.work q).phases.map fun p => (p.tile, true)))
    let s := s.modTiles fun v => v.map fun t => if t.owner.toNat = q ∧ t.size ≠ 0 then { t with state := .empty } else t
    let w := s.work q
    let s := s.modHead q fun c =>
      { c with running := false, started := true, resume := false, mismatch := c.mismatch || w.mismatch, errors := w.errors }
    let s := if q = 4 then pauseExchange c.instr (s.work 4).prm s else s
    let s := if q ≤ 1 then s.setProg q 7 0 else s
    (s.setWork q zeroWork).setProgState q 2

/-- A stop that is no cancellation. -/
def stopHead (q : Nat) (s : State) : State := stopHeadAs 1 q s

/-- What a cancelled command reports: as the head what its work counted, behind the head a profile record without clocks (09 R300). A
running one has reported at its stop. -/
def cancelCounts (q : Nat) (c : Cmd) (s : State) : State :=
  if c.running || isEtrel c.instr then s
  else if (s.head q).any fun d => d.seq == c.seq then endCounts q 2 c s
  else if q = 0 then profileRecord s c [0, 0, 0, 0, 0] 2
  else s

/-- Cancels one command of queue `q` (04 R143); a running one is stopped first, and a fault of the head that waits for its reply ends
with it. An ETREL marker goes without effect (log 123). -/
def cancelCmd (q : Nat) (c : Cmd) (s : State) : State :=
  let s := cancelCounts q c s
  let s := if (s.head q).any fun d => d.seq == c.seq then s.modEng fun g => { g with faults := vset g.faults q none } else s
  let s := if c.running then stopHeadAs 2 q s else s
  let s := if c.started then s.modTiles (onTiles Tile.abandon c.tiles) else s
  let s := s.modEng fun g => g.setQueue q ((g.queue q).filter fun d => d.seq != c.seq)
  if isEtrel c.instr then s else
  (s.modStat q fun t => { t with lcause := Cause.engineCancelled, lpc := c.pc, lcv := true, canceln := t.canceln + 1 }).eqDone q 1

/-- FPEER and FPORT of a stop that names no peer (11 R346). -/
def noPeer : Word := BitVec.ofNat 64 0xFFFF00FF

/-- The causes of a stop of an exchange command that name a peer and a port (11 R339 R341 R344 R345). -/
def namesPeer (cause : BitVec 8) : Bool :=
  cause == Cause.exchangePeer || cause == Cause.exchangeLink || cause == Cause.exchangeTimeout

/-- The head of queue `q` ends by a fault (01 R29): it and every later command of the queue are held, and the cause is
delivered to the strand (14 R422 delivery E). `addr` is the progress word for the address, if any. The block keeps the position of
the last stop point. A cancellation that waits for the unit under way takes the command then (04 R143). -/
def faultNow (q : Nat) (cause : BitVec 8) (addr : Word) (s : State) : State :=
  match s.head q with
  | none => s
  | some c =>
    let s := endCounts q 3 c s
    let s := s.modTiles (onTiles Tile.abandon ((s.work q).phases.map fun p => (p.tile, true)))
    let s := s.modTiles fun v => v.map fun t => if t.owner.toNat = q ∧ t.size ≠ 0 then { t with state := .empty } else t
    let w := s.work q
    let s := s.modHead q fun c =>
      { c with running := false, started := c.started || c.running, resume := false, faulted := true, mismatch := c.mismatch || w.mismatch }
    let s := s.modStat q fun t => { t with lcause := cause, lpc := c.pc, lcv := true, faultn := t.faultn + 1 }
    let s := if q < 5 then
        let s := if q = 4 ∧ c.running then pauseExchange c.instr (s.work 4).prm s else s
        let s := if q ≤ 1 then s.setProg q 7 0 else s
        let s := (s.setWork q zeroWork).setProg q 0 (setBits (setBits (s.prog q 0) 0 4 4) 24 8 cause.toNat)
        if q = 2 then s.setProg 2 6 addr else if q = 4 ∧ !namesPeer cause then s.setProg 4 8 noPeer else s
      else s
    let s := s.pendEvent cause addr
    if w.stopReq = 2 then cancelCmd q { c with running := false, started := c.started || c.running, faulted := true } s else s

/-- A fault of the head of queue `q`. A SCOUT in sweep 1 stores its row state first (10 R314): its fault waits for that. Where the store
itself meets a fault, the pass goes back to its begin, whose row state needs no memory (log 113). -/
def faultHead (q : Nat) (cause : BitVec 8) (addr : Word) (s : State) : State :=
  if q = 1 ∧ (s.work 1).mid ∧ (s.runningCmd 1).isSome then
    if (s.work 1).deferred.isNone then s.modWork 1 fun w => { w with deferred := some (cause, addr) }
    else faultNow 1 cause addr (s.setProg 1 4 (word2 1 0))
  else faultNow q cause addr s

/-- The queues a command's image stands in: its own, or those its mask names. -/
def Cmd.queues (c : Cmd) : List Nat :=
  match c.instr with
  | .etrel _ _ _ e => [e.val]
  | i => if engineCode i < 6 then [engineCode i] else (List.range 5).filter fun q => markerMask i / 2 ^ q % 2 == 1

/-- A unit of work of the command is under way, or its commit waits for the log: no stop point (12 R365, 14 R427). -/
def Work.open_ (w : Work) : Bool := w.mid || w.logWait

/-- A unit of work may be tried: no stop is asked for, or the stop waits for the end of the unit under way (08 R260, 12 R365). -/
def Work.goesOn (w : Work) : Bool := w.stopReq == 0 || w.open_

/-- Removes every uncommitted command and marker (01 R26). -/
def discardUncommitted (s : State) : State :=
  s.modEng fun g => { g with queues := g.queues.map fun l => l.filter fun c => c.committed,
                             signals := g.signals.filter fun c => c.committed }

/-- Every running command is at a stop point. -/
def enginesAtStop (s : State) : Bool :=
  (List.range 5).all fun q => (s.runningCmd q).isNone || !(s.work q).open_

/-- Stops the engines at their pre-emption points: none while a unit of work is still to complete, with the request
recorded. -/
def requestStops (s : State) : State :=
  (List.range 5).foldl (fun s q => if (s.runningCmd q).isSome then s.modWork q fun w => { w with stopReq := max 1 w.stopReq } else s) s

/-- Stops or cancels the head of queue `q`, as its stop request says. -/
def endHead (q : Nat) (s : State) : State :=
  match s.head q with
  | some c => if (s.work q).stopReq = 2 then cancelCmd q c s else stopHead q s
  | none => s

/-- Stops every running command, once all are at stop points. -/
def stopEngines (s : State) : State := (List.range 5).foldl (fun s q => endHead q s) s

/-- Every committed command and marker is complete. -/
def enginesQuiet (s : State) : Bool :=
  (s.core.eng.queues.toList.all fun l => l.all fun c => !c.committed) && s.core.eng.signals.all fun c => !c.committed

end Sys2Proof.Machine
end

