-- ==== Sys2Proof/Machine/Shape.lean ====
section
/-! DEFINITION. Tensor shapes: fields, element addresses, bounding boxes and the tiles and intervals a command takes (08
R245 to R250, 01 R32 R35). -/

namespace Sys2Proof.Machine

/-! Fields (08 R245). -/

def Shape.word (h : Shape) (n : Nat) : Word := vget h.w n
def Shape.base (h : Shape) : Word := h.word 0
def Shape.extent (h : Shape) (k : Nat) : Nat := bits (h.word (k + 1)) 0 32
def Shape.stride (h : Shape) (k : Nat) : Int := sint 32 (bits (h.word (k + 1)) 32 32)
def Shape.esize (h : Shape) : Nat := bits (h.word 7) 0 3
def Shape.rank (h : Shape) : Nat := bits (h.word 7) 3 3 + 1
def Shape.wdim (h : Shape) : Nat := bits (h.word 7) 8 3
def Shape.wen (h : Shape) : Bool := bitAt (h.word 7) 11
def Shape.tile (h : Shape) : Fin 64 := Fin.ofNat 64 (bits (h.word 7) 12 6)
def Shape.ten (h : Shape) : Bool := bitAt (h.word 7) 18
def Shape.dten (h : Shape) : Bool := bitAt (h.word 7) 19
def Shape.dscale (h : Shape) : Nat := bits (h.word 7) 20 8
def Shape.dfmt (h : Shape) : Nat := bits (h.word 7) 28 8
def Shape.wmod (h : Shape) : Nat := bits (h.word 7) 36 14
def Shape.wpos (h : Shape) : Nat := bits (h.word 7) 50 14
/-- The shape is planar (08 R248). -/
def Shape.planar (h : Shape) : Bool := h.esize == 4
/-- Bytes of an element of a shape that is not planar. -/
def Shape.ebytes (h : Shape) : Nat := 2 ^ h.esize
/-- Elements of a shape. -/
def Shape.count (h : Shape) : Nat := ((List.range h.rank).map h.extent).foldl (· * ·) 1
def Shape.cols (h : Shape) : Nat := h.extent 0
/-- The product of the extents of dimensions 1 to RANKM1. -/
def Shape.rows (h : Shape) : Nat := ((List.range (h.rank - 1)).map fun k => h.extent (k + 1)).foldl (· * ·) 1
/-- Sub-tiles of a planar tensor (03 R96). -/
def subTiles (rows cols : Nat) : Nat := rows / 16 * (cols / 32)

/-- The address of the element with ordinal `n` (08 R246). -/
def Shape.addrOf (h : Shape) (n : Nat) : Word :=
  let go := (List.range h.rank).foldl (fun (acc : Int × Nat) k =>
    let i := acc.2 % h.extent k
    let j := if h.wen && k == h.wdim then (i + h.wpos) % h.wmod else i
    (acc.1 + (j : Int) * h.stride k, acc.2 / h.extent k)) ((h.base.toNat : Int), n)
  BitVec.ofInt 64 go.1

/-- The bounding box of a shape: its least address and the address past its greatest byte (08 R246 R248). -/
def Shape.box (h : Shape) : Nat × Nat :=
  if h.planar then (h.base.toNat, h.base.toNat + 8 * subTiles h.rows h.cols * 64)
  else
    let ends := (List.range h.rank).foldl (fun (acc : Int × Int) k =>
      let n : Int := if h.wen && k == h.wdim then h.wmod else h.extent k
      let d := (n - 1) * h.stride k
      (acc.1 + min 0 d, acc.2 + max 0 d)) ((h.base.toNat : Int), (h.base.toNat : Int))
    (ends.1.toNat, (ends.2 + h.ebytes).toNat)

/-- Whether a shape operand is read and written (01 R32): by operation, position and parameter record. -/
def shapeRole (i : Instr) (prm : List Byte) (pos : Nat) : Bool × Bool :=
  match i with
  | .vsort .. => if pos = 0 then (true, true) else if pos = 1 && field prm 6 1 != 0 then (true, true) else (false, false)
  | .vsoftmax .. | .vreduce .. => if pos = 0 then (true, false) else if pos = 2 then (false, true) else (false, false)
  | .mgemm _ _ _ _ _ _ _ acc | .mgemms _ _ _ _ _ _ _ acc | .mconv _ _ _ _ _ _ _ acc =>
    if pos = 2 then (acc == 1, true) else (true, false)
  | .xbcast .. => if pos = 2 then (false, true) else (xPeer prm == xMe prm, false)
  | _ => if pos = 2 then (false, true) else (true, false)

/-- The parameter register of an E-slot operation (02 R60). -/
def pregOf : Instr → Fin 64
  | .mgemm _ _ _ _ _ p _ _ | .mgemms _ _ _ _ _ p _ _ | .mconv _ _ _ _ _ p _ _ | .mattn _ _ _ _ _ p _ _ _
  | .sscore _ _ _ _ _ p _ | .cgather _ _ _ _ _ p _ | .cscatter _ _ _ _ _ p _ | .vsort _ _ _ _ _ p _
  | .vsoftmax _ _ _ _ _ p _ | .vnorm _ _ _ _ _ p _ | .vreduce _ _ _ _ _ p _ | .scout _ _ _ _ p _ | .ccopy _ _ _ _ p _
  | .ctrans _ _ _ _ p _ | .cplane _ _ _ _ p _ | .cflat _ _ _ _ p _ | .allred _ _ _ _ p _ | .allgath _ _ _ _ p _
  | .redscat _ _ _ _ p _ | .xbcast _ _ _ _ p _ | .alltoall _ _ _ _ p _ | .cfill _ _ _ p _ | .xrecv _ _ _ p _
  | .xsend _ _ _ p _ | .swin _ _ p _ | .smask _ _ p _ | .cpagein _ _ p _ | .cmigrate _ _ p _ | .ctags _ _ p _
  | .logmark _ _ p _ _ | .esignal _ _ p _ _ | .esignalAdd _ _ p _ _ => p
  | _ => 0

/-- The swap mask of an E-slot operation (02 R60). -/
def swapOf : Instr → Fin 16
  | .mgemm _ _ _ _ w .. | .mgemms _ _ _ _ w .. | .mconv _ _ _ _ w .. | .mattn _ _ _ _ w .. | .sscore _ _ _ _ w ..
  | .cgather _ _ _ _ w .. | .cscatter _ _ _ _ w .. | .vsort _ _ _ _ w .. | .vsoftmax _ _ _ _ w .. | .vnorm _ _ _ _ w ..
  | .vreduce _ _ _ _ w .. | .scout _ _ _ w .. | .ccopy _ _ _ w .. | .ctrans _ _ _ w .. | .cplane _ _ _ w ..
  | .cflat _ _ _ w .. | .allred _ _ _ w .. | .allgath _ _ _ w .. | .redscat _ _ _ w .. | .xbcast _ _ _ w ..
  | .alltoall _ _ _ w .. | .cfill _ _ w .. | .xrecv _ _ w .. | .xsend _ _ w .. | .swin _ w .. | .smask _ w ..
  | .cpagein _ w .. | .cmigrate _ w .. | .ctags _ w .. | .logmark _ w .. | .logflush _ w .. | .qfence _ w .. | .etrel _ w ..
  | .ecancel _ w .. | .esignal _ w .. | .esignalAdd _ w .. => w
  | _ => 0

/-- The bytes of the parameter record as they stand, for the operations whose record names intervals; with the communicator
header for XBCAST, whose shA only the root reads (11 R338). -/
def peekRecord (s : State) (i : Instr) (preg : Word) : List Byte :=
  if pregOf i = 0 then [] else
  match i with
  | .vsort .. | .cpagein .. | .cmigrate .. | .ctags .. => (devRead (engineAgent s 2 false) preg 64 s).1
  | .xbcast .. =>
    let r := (devRead (engineAgent s 2 false) preg 64 s).1
    r ++ (devRead (engineAgent s 2 false) (fw r 8) 64 s).1
  | _ => []

/-- The intervals of a command (01 R32, 08 R250). -/
def cmdBoxes (s : State) (i : Instr) (preg : Word) (shapes : List Shape) : List Box :=
  let prm := peekRecord s i preg
  match i with
  | .cpagein .. =>
    let src := field prm 8 8
    let n := field prm 24 4
    let tag := field prm 32 8
    [⟨src, src + n * 65536, false⟩, ⟨field prm 16 8, field prm 16 8 + n * 65536, true⟩] ++
      (if tag = 0 then [] else [⟨tag, tag + n * 4096, false⟩])
  | .cmigrate .. => let va := field prm 16 8; [⟨va, va + field prm 32 4 * 65536, true⟩]
  | .ctags .. =>
    let r := field prm 16 8
    let n := field prm 24 8
    let d := field prm 32 8
    let apply := field prm 8 1 != 0
    [⟨r, r + n * 64, apply⟩, ⟨d, d + n * 4, !apply⟩]
  | _ => ((shapeFields i).zip shapes).filterMap fun x =>
    let role := shapeRole i prm x.1.1
    if role.1 || role.2 then some ⟨x.2.box.1, x.2.box.2, role.2⟩ else none

/-- The tiles a command's shapes bind, each with whether the command writes it. A tile that a command both reads and writes counts as
written only (log 106). -/
def cmdTiles (s : State) (i : Instr) (preg : Word) (shapes : List Shape) : List (Fin 64 × Bool) :=
  let prm := peekRecord s i preg
  let all := ((shapeFields i).zip shapes).flatMap fun x =>
    let role := shapeRole i prm x.1.1
    if x.2.ten then (if role.2 then [(x.2.tile, true)] else if role.1 then [(x.2.tile, false)] else []) else []
  all.foldl (fun l t => if l.contains t then l else l ++ [t]) []

/-- SHDIG: CRC-32C of the captured descriptors at positions 0 to `n` - 1, 64 zero bytes for an unused one (08 R264). -/
def shapeDigest (i : Instr) (shapes : List Shape) (n : Nat) : Nat :=
  crc32c ((List.range n).flatMap fun p =>
    match ((shapeFields i).zip shapes).find? fun x => x.1.1 == p with
    | some x => x.2.bytes
    | none => List.replicate 64 0)

/-- The captured shape at a position. -/
def Cmd.shape (c : Cmd) (pos : Nat) : Shape :=
  match ((shapeFields c.instr).zip c.shapes).find? fun x => x.1.1 == pos with
  | some x => x.2
  | none => zeroShape

end Sys2Proof.Machine
end

