-- ==== Sys2Proof/Machine/Context.lean ====
section
/-! DEFINITION. Continuation records (01 R16 to R20), context frames (14 R428 to R432), the spill of live scratchpad (01
R21), pipeline state blocks (14 R443), pipeline faults (14 R440 R441), and a strand's leaving its core. -/

namespace Sys2Proof.Machine

noncomputable section

/-! Continuation records. -/

/-- A record with its CRC made right (01 R16). -/
def recSeal (b : List Byte) : List Byte := splice b 60 (toBytes 4 (crc32c (b.take 60)))

/-- A record with the `n` bytes at `o` replaced. -/
def recSet (b : List Byte) (o n v : Nat) : List Byte := splice b o (toBytes n v)

abbrev Status.new : Nat := 0
abbrev Status.ready : Nat := 1
abbrev Status.suspended : Nat := 2
abbrev Status.blocked : Nat := 3
abbrev Status.faulted : Nat := 4
abbrev Status.gangLost : Nat := 5
abbrev Status.done : Nat := 6

/-! Fields of SINFO (05 R151). -/

def Core.stageOf (c : Core) : Nat := bits c.sinfo 0 5
def Core.pipeOf (c : Core) : Nat := bits c.sinfo 16 16
def Core.gsizeOf (c : Core) : Nat := bits c.sinfo 35 4
def Core.gmemberOf (c : Core) : Nat := bits c.sinfo 39 3
def Core.gidOf (c : Core) : Nat := field c.record 20 4
/-- The core holds a strand. -/
def Core.holdsStrand (c : Core) : Bool := c.run == .strand || c.run == .stopped

/-- The cores that hold a strand of a pipeline. -/
def State.strandsOf (s : State) (part pipe : Nat) : List Nat :=
  s.liveCores.filter fun k =>
    let c := s.coreAt k
    c.holdsStrand && c.partOf.val == part && c.pipeOf == pipe && !c.record.isEmpty

def State.pipeline (s : State) (part pipe : Nat) : Option Pipeline := sfind (s.part part).pipes pipe
def State.modPipe (s : State) (part pipe : Nat) (f : Pipeline → Pipeline) : State :=
  match s.pipeline part pipe with
  | none => s
  | some p => s.modPart part fun q => { q with pipes := sput q.pipes pipe (f p) }

/-- Notes since when a record of a pipeline is ready, if it is (13 R411). -/
def State.readyTime (s : State) (part pipe : Nat) (at_ : Word) (since : Option Nat) : State :=
  s.modPipe part pipe fun p => { p with recs := p.recs.map fun r => if r.1 = at_ then (at_, since) else r }

/-- The write-back of the strand's record at a suspension point: a release at `package` scope, so its L1 holds nothing apart any more (01
R19). -/
def writeBack (status : Nat) (cause : BitVec 8) (pc : Word) (wait : Option (Word × W32)) (frame : Word) (s : State) :
    State :=
  let s := s.releaseL1
  let b := recSet s.core.record 0 8 pc.toNat
  let b := recSet b 8 8 frame.toNat
  let b := recSet b 18 1 (field b 18 1 % 4 + 8 * boolBit wait.isSome)
  let b := recSet b 24 1 status
  let b := recSet b 25 1 (if status = Status.faulted ∨ status = Status.gangLost then cause.toNat else 0)
  let b := recSet b 32 8 s.core.r.sr.win.toNat
  let b := match wait with
    | some (a, v) => recSet (recSet b 48 8 a.toNat) 56 4 v.toNat
    | none => b
  let b := recSeal b
  let s := s.readyTime s.core.partOf.val s.core.pipeOf s.core.crec (if status = Status.ready then some s.clock else none)
  devWrite (coreAgent s 2) s.core.crec b { s with core := { s.core with record := b } }

/-- Adds to the capture that the launch queue of the strand's pipeline has open (13 R401). -/
def State.capturing (s : State) (f : Capture → Capture) : State :=
  if s.core.record.isEmpty then s else
  match s.pipeline s.core.partOf.val s.core.pipeOf with
  | none => s
  | some p => s.modPart s.core.partOf.val fun q => match sfind q.queues p.queueK with
    | none => q
    | some k => { q with queues := sput q.queues p.queueK { k with capture := k.capture.map f } }

/-! Cycle classes (09 R299). -/

/-- The counter of a class in the order of 09 R299. -/
def classCounter (cls : Nat) : Nat := match cls with | 0 => 0 | 1 => 3 | 2 => 1 | 3 => 2 | _ => 4

/-- Charges clocks of a class to the running command, the core and an open capture (09 R299, 13 R401). -/
def chargeClocks (cls n : Nat) (s : State) : State :=
  let s := s.modWork 0 fun w => { w with clocks := (padTo 5 0 w.clocks).set cls (w.clocks.getD cls 0 + n) }
  let k := classCounter cls
  let add := fun (l : List Word) => (padTo 5 0 l).set cls (l.getD cls 0 + BitVec.ofNat 64 n)
  let s := s.capturing fun x => { x with clocks := add x.clocks }
  s.modEng fun g => { g with cyc := vset g.cyc k (vget g.cyc k + BitVec.ofNat 64 n) }

/-- The head of the matrix engine's queue would start but for an older command of the interval table or a tile (01 R33 R35). -/
def State.matrixHeld (s : State) : Bool :=
  ((s.head 0).any fun c => c.committed && !c.faulted && (!c.started || c.resume)) && (s.core.hold 0 == 1 || s.core.hold 0 == 2)

/-- One clock of a matrix engine whose core counts it (09 R299): without a running command it is NO_COMMAND, charged to the command that
is held at the head of its queue, if any. -/
def idleMatrix (s : State) : State :=
  if (s.runningCmd 0).isSome then s
  else if s.matrixHeld then chargeClocks 4 1 s
  else s.modEng fun g => { g with cyc := vset g.cyc 4 (vget g.cyc 4 + 1) }

/-! Spill (01 R21). -/

/-- The live tiles: READY or DRAINING strand tiles, and message rings that hold a message. -/
def liveTiles (tiles : Vector Tile 64) (rings : Vector MsgRing 4) : List (Fin 64) :=
  (List.finRange 64).filter fun t =>
    let e := tiles.get t
    e.size ≠ 0 && ((e.owner == 7 && (e.state == .ready || e.state == .draining)) ||
      (decide (60 ≤ t.val) && (let r := rings.toList.getD (t.val - 60) ⟨0, 0, 0, []⟩; r.head != r.tail)))

/-- The sender of the message in slot `i` of a ring, as bits [28:25] of its side entry. -/
def senderBits (r : MsgRing) (size i : Nat) : Nat :=
  match ((List.range (r.tail - r.head)).find? fun j => (r.head + j) % size == i) with
  | some j => r.senders.getD j 0 * 2 ^ 25
  | none => 0

/-- The spill bytes of one tile: payload, then side entries. -/
def spillTile (s : State) (t : Fin 64) : List Byte :=
  let e := s.core.tiles.get t
  let k := scratchKey s.core.id (e.base.toNat * 64)
  let r := s.core.rings.toList.getD (t.val - 60) ⟨0, 0, 0, []⟩
  s.peek k (e.size.toNat * 64) ++ (List.range e.size.toNat).flatMap fun i =>
    toBytes 4 ((s.mdata (k + 64 * i)).toNat + if 60 ≤ t.val then senderBits r e.size.toNat i else 0)

/-- The bytes of the whole spill. -/
def spillBytes (s : State) : List Byte := (liveTiles s.core.tiles s.core.rings).flatMap (spillTile s)

/-- Writes spilled tiles back at their places: payload, tags and poison. -/
def unspill (bytes : List Byte) : List (Fin 64) → Nat → State → State
  | [], _, s => s
  | t :: r, o, s =>
    let e := s.core.tiles.get t
    let n := e.size.toNat
    let k := scratchKey s.core.id (e.base.toNat * 64)
    let side := fun i => field bytes (o + n * 64 + 4 * i) 4
    let s := s.poke k (slice bytes o (n * 64))
    let s := (List.range n).foldl (fun s i => s.setMdata (k + 64 * i) (BitVec.ofNat 25 (side i))) s
    let s := if 60 ≤ t.val then
        let m := s.core.rings.toList.getD (t.val - 60) ⟨0, 0, 0, []⟩
        let snd := (List.range (m.tail - m.head)).map fun j => side ((m.head + j) % n) / 2 ^ 25 % 16
        { s with core := { s.core with rings := vset s.core.rings (t.val - 60) { m with senders := snd } } }
      else s
    unspill bytes r (o + n * 68) s

/-! Frames (14 R428 to R430). -/

/-- The state image: state registers 0 to 0x2FF; the loop state is TLOOP of a trapped strand (14 R425). -/
def stateImage (s : State) (trapped : Bool) : List Byte :=
  (List.range 0x300).flatMap fun n =>
    b8 (if trapped && decide (0x10 ≤ n) && decide (n ≤ 0x1C) then vget s.core.sup.tloop (n - 0x10)
        else (s.readState n).getD 0)

/-- The commands and markers of queue `q` (0 to 5) in issue order, a marker that names no queue with queue 5. -/
def queueImage (s : State) (q : Nat) : List Cmd :=
  let marks := s.core.eng.signals.filter fun c =>
    if c.queues.isEmpty then q == 5 else c.queues.contains q
  (sortOn (fun c : Cmd => c.seq) (s.core.eng.queue q ++ marks)).take 16

/-- One command image; `pool` is the number of descriptors before it (14 R430). -/
def cmdImage (c : Cmd) (pool : Nat) : List Byte :=
  let w := match encode c.instr with | some (.e w) => w | _ => 0
  let idx := (List.range 4).map fun p =>
    match ((shapeFields c.instr).findIdx? fun x => x.1 == p) with
    | some i => BitVec.ofNat 8 (pool + i)
    | none => 0xFF
  toBytes 5 w ++ [BitVec.ofNat 8 (1 + 2 * boolBit c.started), 0, 0] ++ b8 c.pc ++ b8 c.preg ++ idx ++ [0, 0, 0, 0]

/-- The 96 command images, the shape pool, and the number of images. -/
def cmdArea (s : State) : List Byte × List Byte × Nat :=
  (List.range 6).foldl (fun (acc : List Byte × List Byte × Nat) q =>
    let r := (queueImage s q).foldl (fun (a : List Byte × List Byte × Nat) c =>
      (a.1 ++ cmdImage c (a.2.1.length / 64), a.2.1 ++ c.shapes.flatMap Shape.bytes, a.2.2 + 1)) ([], acc.2.1, acc.2.2)
    (acc.1 ++ padTo 512 0 r.1, r.2.1, r.2.2)) ([], [], 0)

/-- Bytes 0x100 to 0x7FFF of a frame; `trapped`: the loop state is TLOOP's. -/
def frameBody (s : State) (trapped : Bool) : List Byte :=
  let c := s.core
  let r := c.r
  let xs := (List.finRange 64).flatMap fun k => b8 (if k.val < 60 then r.x.get k else 0)
  let sec := fun (n : Nat) (b : List Byte) => padTo n 0 b
  let area := cmdArea s
  xs ++ n8 (r.xv.toNat % 2 ^ 60) ++ toBytes 2 r.p.toNat ++ toBytes 2 r.pv.toNat ++ sec 4 (toBytes 1 r.btv.toNat) ++
  r.lc.toList.flatMap (fun v => toBytes 4 v.toNat) ++ r.bt.toList.flatMap b8 ++ r.vm.toList.flatMap (fun v => toBytes 4 v.toNat) ++
  sec 128 (r.m.toList.map fun m => BitVec.ofNat 8 m.mstate) ++
  (List.range 4).flatMap (fun k => (r.shA.toList.getD k zeroShape).bytes ++ (r.shS.toList.getD k zeroShape).bytes) ++
  c.tiles.toList.flatMap (fun t => b8 t.word) ++
  sec 256 (c.rings.toList.flatMap (fun q => sec 16 (toBytes 4 q.head ++ toBytes 4 q.tail)) ++
    (List.range 36).flatMap fun k => toBytes 4 (sget c.credits 0 k)) ++
  sec 3840 area.1 ++ stateImage s trapped ++ (List.range 8192).map (getByte c.pstore) ++ sec 12288 area.2.1

/-- The loop counters of a trapped strand's frame come from TLOOP (14 R425). -/
def frameLoops (s : State) (trapped : Bool) (b : List Byte) : List Byte :=
  if trapped then splice b (0x310 - 0x100) ((List.range 4).flatMap fun k => toBytes 4 (vget s.core.sup.tloop k).toNat) else b

/-- The data of matrix registers that are not GATED (14 R428 R429). -/
def liveMatrix (r : Regs) : List (Nat × List Byte) :=
  (List.finRange 16).filterMap fun k => if (r.m.get k).power = .gated then none else some (k.val, (r.m.get k).bytes)

/-- The header of a frame before its CRC (14 R429). -/
def frameHeader (s : State) (trapped held spilled : Bool) (stop : Option (BitVec 8)) (pc : Word) (nshape ncmd : Nat) :
    List Byte :=
  let t := s.core.sup
  let flags := boolBit held + 2 * boolBit trapped + 4 * boolBit spilled + 8 * boolBit stop.isSome
  let trap := if trapped then [t.tcause, t.tpc, t.tfpc, t.tslot, t.twin, t.taddr, t.targ, t.tstatus].flatMap b8
    else List.replicate 64 0
  let tl := if trapped then t.tloop.toList.flatMap b8 else List.replicate 104 0
  toBytes 4 0x46524D51 ++ toBytes 2 1 ++ [BitVec.ofNat 8 flags, stop.getD 0] ++ b8 s.core.crec ++ b8 pc ++
  b8 s.core.r.sr.win ++ trap ++ toBytes 4 ncmd ++ toBytes 4 nshape ++ toBytes 8 0 ++ b8 s.core.spill ++
  toBytes 4 s.core.spillSize ++ toBytes 4 0 ++ tl ++ List.replicate 24 0

/-- A frame's bytes 0 to 0x7FFF with its CRC. The loop state of a trapped strand is TLOOP's (14 R425), that of a double trap the
handler's own (14 R424). -/
def frameImage (s : State) (trapped held spilled : Bool) (stop : Option (BitVec 8)) (pc : Word) (loops : Bool := trapped) : List Byte :=
  let area := cmdArea s
  let low := frameHeader s trapped held spilled stop pc (area.2.1.length / 64) area.2.2 ++
    frameLoops s loops (frameBody s loops)
  splice low 104 (toBytes 4 (crc32c (low ++ (liveMatrix s.core.r).flatMap Prod.snd)))

/-- The registers once a context save or a PSWAP has read them: a DROWSY matrix register is woken, as by a strand's read (07 R223). -/
def Regs.awake (r : Regs) : Regs := { r with m := r.m.map fun m => if m.power = .drowsy then { m with power := .on } else m }

/-- Writes the context to `frame` (14 R428), with the spill of the live scratchpad when it fits. False: it does not fit,
and the frame is written without SPILLED, with the cause of the FAULTED write-back that follows (01 R21, 14 R429). -/
def saveContext (frame : Word) (trapped held : Bool) (stop : Option (BitVec 8)) (pc : Word) (s : State) (loops : Bool := trapped) :
    Bool × State :=
  let s := s.modR Regs.awake
  let live := spillBytes s
  let fits := live.isEmpty || (decide (s.core.spill ≠ 0) && decide (live.length ≤ s.core.spillSize))
  let spilled := fits && !live.isEmpty
  let s := if spilled then devWrite (coreAgent s 3) s.core.spill live s else s
  let s := devWrite (coreAgent s 3) frame
    (frameImage s trapped held spilled (if fits then stop else some Cause.contextRestore) pc loops) s
  let s := (liveMatrix s.core.r).foldl (fun s m =>
    devWrite (coreAgent s 3) (frame + BitVec.ofNat 64 (0x8000 + 4096 * m.1)) m.2 s) s
  (fits, s)

/-! Restoring a frame (14 R432). -/

/-- A frame in memory: its first 32 KiB and the matrix data. -/
structure FrameData where
  low : List Byte
  high : List Byte

/-- The state numbers below 0x300 that no table lists: first number and count (05 R148, 01 R29, 07 R240, 08 R264, 09 R297 R299, 10 R321,
11 R346, 12 R354 R378). -/
def stateGaps : List (Nat × Nat) :=
  [(0xE, 2), (0x1E, 2), (0x35, 11), (0x110, 16), (0x130, 16), (0x151, 15), (0x170, 16), (0x190, 16), (0x20A, 6), (0x213, 0x6D), (0x28D, 0x73)] ++
  (List.range 6).map fun q => (0x1A4 + 16 * q, 12)

/-- The reserved bytes of a frame are zero: the gaps of R428 to R430, the last eight bytes of a message queue's row, the upper bits of
MSTATE, and the state numbers that no table lists. -/
def frameReservedOk (b : List Byte) : Bool :=
  (List.range 4).all (fun k => zeroBytes b (0x808 + 16 * k) 8) && (List.range 16).all (fun k => decide (field b (0x380 + k) 1 < 8)) &&
  stateGaps.all (fun g => zeroBytes b (0x1800 + 8 * g.1) (8 * g.2)) &&
  zeroBytes b 108 4 && zeroBytes b 124 4 && zeroBytes b 232 24 && zeroBytes b 0x30D 3 && zeroBytes b 0x390 0x70 &&
  zeroBytes b 0x8D0 0x30 && zeroBytes b 0x1500 0x300 && decide (field b 6 1 < 16) &&
  (List.range 96).all fun i =>
    zeroBytes b (0x906 + 32 * i) 2 && zeroBytes b (0x91C + 32 * i) 4 && decide (field b (0x905 + 32 * i) 1 < 4)

/-- The check of R432. -/
def frameOk (f : FrameData) : Bool :=
  let b := f.low
  let live := (List.range 16).filter fun k => field b (0x380 + k) 1 % 4 ≠ 2
  let crc := crc32c (splice b 104 (toBytes 4 0) ++ live.flatMap fun k => slice f.high (4096 * k) 4096)
  field b 0 4 == 0x46524D51 && field b 4 2 == 1 && frameReservedOk b && decide (field b 96 4 ≤ 96) &&
  decide (field b 100 4 ≤ 192) && field b 104 4 == crc && (field b 6 1 / 4 % 2 == 0 || field b 112 8 != 0)

def readFrame (s : State) (frame : Word) : FrameData × State :=
  let a := devRead (coreAgent s 3) frame 0x8000 s
  let h := devRead (coreAgent s 3) (frame + 0x8000) 0x10000 a.2
  (⟨a.1, h.1⟩, h.2)

/-- The strand's registers from a frame. -/
def frameRegs (f : FrameData) : Regs :=
  let b := f.low
  let st := fun n => fw b (0x1800 + 8 * n)
  let shape := fun (o : Nat) => (⟨Vector.ofFn fun (i : Fin 8) => fw b (o + 8 * i.val)⟩ : Shape)
  let mreg := fun (k : Fin 16) =>
    let ms := field b (0x380 + k.val) 1
    let power : Power := if ms % 4 = 0 then .on else if ms % 4 = 1 then .drowsy else .gated
    let cells : SMap W32 := if ms % 4 = 2 then [] else
      ((List.range 1024).map fun i => (i, BitVec.ofNat 32 (field f.high (4096 * k.val + 4 * i) 4))).filter fun c => c.2 ≠ 0
    (⟨cells, decide (ms / 4 % 2 = 1), power⟩ : MReg)
  { pc := fw b 16, x := Vector.ofFn fun i => fw b (0x100 + 8 * i.val), xv := fw b 0x300,
    p := BitVec.ofNat 16 (field b 0x308 2), pv := BitVec.ofNat 16 (field b 0x30A 2),
    bt := Vector.ofFn fun i => fw b (0x320 + 8 * i.val), btv := BitVec.ofNat 8 (field b 0x30C 1),
    lc := Vector.ofFn fun i => BitVec.ofNat 32 (field b (0x310 + 4 * i.val) 4),
    vm := Vector.ofFn fun i => BitVec.ofNat 32 (field b (0x360 + 4 * i.val) 4), m := Vector.ofFn mreg,
    shA := Vector.ofFn fun i => shape (0x400 + 128 * i.val), shS := Vector.ofFn fun i => shape (0x440 + 128 * i.val),
    ag := Vector.ofFn fun i => st (0x40 + i.val), xp := Vector.ofFn fun i => st (0xC0 + i.val),
    sr := { fela := st 0, feli := st 1, fels := st 2, vctl := st 3, segexp := st 0xA, segrun := st 0xB, win := fw b 24,
            lstart := Vector.ofFn fun i => st (0x14 + i.val), lend := Vector.ofFn fun i => st (0x18 + i.val),
            lact := st 0x1C, txstate := st 0x1D } }

/-- The Retrograde registers from a frame. -/
def frameLog (b : List Byte) : LogRegs :=
  let st := fun n => fw b (0x1800 + 8 * n)
  { base := st 0x200, size := st 0x201, head := st 0x202, tail := st 0x203, mode := st 0x204 &&& 0x4F,
    horizon := st 0x205, done := st 0x206, stamp := st 0x207, irrcnt := st 0x208, cur := st 0x209, trbase := st 0x210,
    trctl := st 0x211, trcons := st 0x212, nextBase := none, nextSize := none, nextMode := none, fullPosted := bitAt (st 0x204) 6 }

/-- A command from an image, with its captured descriptors (14 R430). -/
def imageCmd (b : List Byte) (slot : Nat) : Option Cmd :=
  let o := 0x900 + 32 * slot
  let fl := field b (o + 5) 1
  if fl % 2 = 0 then none else
  match decodeE (field b o 5) with
  | .error _ => none
  | .ok i =>
    let shapes := (shapeFields i).map fun x =>
      let k := field b (o + 24 + x.1) 1
      (⟨Vector.ofFn fun (j : Fin 8) => fw b (0x5000 + 64 * k + 8 * j.val)⟩ : Shape)
    let started := decide (fl / 2 % 2 = 1)
    some { instr := i, seq := 0, win := 0, mode := .strand, pc := fw b (o + 8), preg := fw b (o + 16), shapes := shapes, boxes := [], tiles := [],
           committed := true, running := false, started := started, resume := started || resumeBit i, faulted := false,
           mismatch := false, errors := 0 }

/-- A marker shared by several queues: QFENCE or ESIGNAL. -/
def isMarker (c : Cmd) : Bool := engineCode c.instr == 6 && !isEtrel c.instr

/-- Puts the commands of the queues into one order: a marker is taken when it heads every queue it names (14 R432). -/
def mergeQueues : Nat → List (List Cmd) → List (Nat × Cmd)
  | 0, _ => []
  | fuel + 1, qs =>
    let heads := qs.zipIdx.filterMap fun x => x.1.head?.map fun c => (x.2, c)
    match heads.find? fun h => !isMarker h.2 with
    | some h => h :: mergeQueues fuel (qs.mapIdx fun i l => if i = h.1 then l.drop 1 else l)
    | none =>
      let whole := heads.find? fun h => h.2.queues.all fun q => heads.any fun g => g.1 == q && g.2 == h.2
      match whole.or heads.head? with
      | none => []
      | some h => h :: mergeQueues fuel (qs.map fun l => if l.head? = some h.2 then l.drop 1 else l)

/-- The commands of a frame, in the order of their reissue. -/
def frameCmds (b : List Byte) : List (Nat × Cmd) :=
  mergeQueues 97 ((List.range 6).map fun q => (List.range 16).filterMap fun i => imageCmd b (16 * q + i))

/-- Reissues saved commands (14 R432 step 3). -/
def reissue (cs : List (Nat × Cmd)) (s : State) : State :=
  cs.foldl (fun s x =>
    let seq := s.core.eng.nextSeq
    let c := { x.2 with seq := seq, win := s.core.r.sr.win, mode := s.core.mode, boxes := cmdBoxes s x.2.instr x.2.preg x.2.shapes,
                        tiles := cmdTiles s x.2.instr x.2.preg x.2.shapes }
    let s := s.modEng fun g => { g with nextSeq := seq + 1 }
    if isMarker c then s.modEng fun g => { g with signals := g.signals ++ [c] }
    else s.modEng fun g => g.setQueue x.1 (g.queue x.1 ++ [c])) s

/-- Restores everything of R428 but the commands: they are returned for reissue. -/
def restoreFrame (f : FrameData) (s : State) : List (Nat × Cmd) × State :=
  let b := f.low
  let st := fun n => fw b (0x1800 + 8 * n)
  let r := frameRegs f
  let blocks : Vector (Vector Word 16) 5 := Vector.ofFn fun e => Vector.ofFn fun j => st (0x100 + 32 * e.val + j.val)
  let stats := Vector.ofFn fun (q : Fin 6) =>
    let w := st (0x1A0 + 16 * q.val)
    (⟨BitVec.ofNat 8 (bits w 16 8), bitAt w 8, st (0x1A1 + 16 * q.val), st (0x1A2 + 16 * q.val), st (0x1A3 + 16 * q.val)⟩ : QStat)
  let ps := (List.range 8192).map fun i => (i, b.getD (0x3000 + i) 0)
  let c := s.core
  let s := { s with core := { c with
    r := r, bnd := r, y := Vector.replicate 4 ⟨0, none⟩, land := [], landed := [], group := 0, written := [], delay := none,
    win := emptyWindow, closing := false, tx := none, wdcnt := 0, hack := false, cir := st 4, crec := fw b 8,
    sinfo := st 6, mode := .strand,
    eqcnt := Vector.ofFn (fun i => st (0x30 + i.val)), pwbase := Vector.ofFn fun i => st (0x20 + 2 * i.val),
    pwsize := Vector.ofFn fun i => st (0x21 + 2 * i.val), pstore := ps.filter fun x => x.2 ≠ 0,
    log := frameLog b, tiles := Vector.ofFn (fun i => Tile.ofWord (fw b (0x600 + 8 * i.val))),
    tilesOpen := Vector.ofFn (fun i => Tile.ofWord (fw b (0x600 + 8 * i.val))), ttPend := [],
    rings := Vector.ofFn (fun k => ⟨field b (0x800 + 16 * k.val) 4, field b (0x804 + 16 * k.val) 4, 0, []⟩),
    credits := ((List.range 36).map fun k => (k, field b (0x840 + 4 * k) 4)).filter (fun x => x.2 ≠ 0),
    spill := fw b 112, spillSize := field b 120 4,
    eng := { c.eng with queues := Vector.replicate 6 [], signals := [], stat := stats, prog := blocks, fetches := st 0x150,
                        work := Vector.replicate 5 zeroWork, faults := Vector.replicate 6 none,
                        cyc := Vector.ofFn fun i => st (0x280 + i.val), cens := Vector.ofFn fun i => st (0x288 + i.val) } } }
  let s := if field b 6 1 / 4 % 2 = 1 then
      let live := liveTiles s.core.tiles s.core.rings
      let n := ((live.map fun t => (s.core.tiles.get t).size.toNat * 68)).sum
      let d := devRead (coreAgent s 3) (fw b 112) n s
      unspill d.1 live 0 d.2
    else s
  (frameCmds b, s)

/-! Pipeline faults (14 R440 R441). -/

/-- How much a requested stop outweighs others: a fault of the strand's own, then the loss of its gang, then any other (01 R22). -/
def stopRank (status : Nat) : Nat := if status = Status.faulted then 2 else if status = Status.gangLost then 1 else 0

/-- The core with a stop asked for, unless one that weighs as much is asked for already. -/
def Core.asked (c : Core) (status : Nat) (cause : BitVec 8) : Core :=
  match c.stopReq with
  | some r => if stopRank r.1.val < stopRank status then { c with stopReq := some (Fin.ofNat 8 status, cause) } else c
  | none => { c with stopReq := some (Fin.ofNat 8 status, cause) }

/-- Asks the strand on core `k` to stop at its next quiescent point and be written back with a status. -/
def askStop (status : Nat) (cause : BitVec 8) (s : State) (k : Nat) : State := s.modCoreAt k fun c => c.asked status cause

/-- The requested stop that a quiescent point makes: one of the strand itself, not of its handler (05 R157, 14 R426; log 119). -/
def Core.stopDue (c : Core) : Option (Fin 8 × BitVec 8) := if c.mode = .strand then c.stopReq else none

/-- A pipeline fault: nothing more is dispatched, other strands stop, the launch is marked and the fault is reported. The
faulting strand's own write-back is the caller's. `lost` names members of the struck gang (01 R22). -/
def pipelineFault (part : Fin 8) (pipe : Nat) (cause : BitVec 8) (pc : Word) (unit : Option (BitVec 16)) (self : Option Nat)
    (lost : List Nat) (s : State) : State :=
  let others := (s.strandsOf part.val pipe).filter fun k => some k ≠ self
  let s := others.foldl (fun s k =>
    if lost.contains k then askStop Status.gangLost Cause.gangLost s k else askStop Status.ready 0 s k) s
  let s := s.modPipe part.val pipe fun p => if p.cause.isSome then p else
    { p with cause := some cause, causePc := pc, unit := unit }
  report s (some part) (dieOf (self.getD 0)) cause 2 (match unit with | some u => u.toNat | none => unitId (self.getD 0) 0)
    unit.isSome pc 0

/-- The other members of the strand's gang that run (01 R22). -/
def gangPeers (s : State) : List Nat :=
  if s.core.gsizeOf ≤ 1 then [] else
  (s.strandsOf s.core.partOf.val s.core.pipeOf).filter fun k =>
    k != s.core.id && (s.coreAt k).gidOf == s.core.gidOf

/-! A strand leaves its core. -/

/-- The core lets go of its strand; registers and scratchpad stand until the next owner (04 R129), a host request until it is
taken (15 R446); a replay goes on at the next pickup (12 R374). -/
def releaseCore (s : State) : State :=
  let c := s.core
  let s := match c.replay with
    | some rp => s.modPart c.partOf.val fun p => { p with replays := (c.crec, rp) :: p.replays.filter fun e => e.1 != c.crec }
    | none => s
  { s with core := { c with
      run := .idle, mode := .strand, y := Vector.replicate 4 ⟨0, none⟩, land := [], landed := [], group := 0, written := [], delay := none,
      iss := { noIssue with gone := true }, win := emptyWindow, closing := false, post := none, tx := none, record := [], crec := 0,
      ttPend := [], pend := c.pend.filter (fun e => e.1 == Cause.hostRequest), fault := none, waitClocks := 0, wake := [], svc := none, frame := 0, spill := 0,
      spillSize := 0, stopReq := none, replay := none, evBeat := none,
      launch := some (c.partOf.val, c.pipeOf),
      eng := { c.eng with queues := Vector.replicate 6 [], signals := [], work := Vector.replicate 5 zeroWork,
                          faults := Vector.replicate 6 none, saved := [] } } }

/-- The pipeline state block (14 R443). -/
def writeStateBlock (s : State) (part : Fin 8) (pipe : Nat) : State :=
  match s.cfg part.val, s.pipeline part.val pipe with
  | some c, some p =>
    let base := c.pstate + BitVec.ofNat 64 (0x200000 * p.slots)
    let offs := p.queues.foldl (fun (a : List Nat × Nat) q => (a.1 ++ [a.2], a.2 + q.chip.length * q.esize)) ([], 4096)
    let head := toBytes 2 p.pipe ++ [BitVec.ofNat 8 p.queues.length, 1] ++ List.replicate 60 0 ++
      padTo 64 0 (p.stages.flatMap fun g => toBytes 2 g.deficit) ++
      (p.queues.zip offs.1).flatMap fun x =>
        n8 x.1.nextSeq ++ toBytes 4 x.1.chip.length ++ toBytes 4 x.1.ringCount ++ toBytes 4 x.1.ringHead ++
        [BitVec.ofNat 8 (boolBit x.1.latched + 2 * boolBit x.1.closed), 0, 0, 0] ++ n8 x.2
    let ag := partAgent s part s.core.id 3
    let s := devWrite ag base (padTo 4096 0 head) s
    (p.queues.flatMap fun q => q.chip).foldl (fun (a : State × Nat) e =>
      let at_ := base + BitVec.ofNat 64 a.2
      let s := devWrite ag at_ e.bytes a.1
      let s := e.mdata.zipIdx.foldl (fun s m =>
        match locate ag .write false (at_ + BitVec.ofNat 64 (64 * m.2)) s with
        | .ok l s => s.setMdata l.key m.1
        | x => x.state) s
      (s, a.2 + e.bytes.length)) (s, 4096) |>.1
  | _, _ => s

/-- A stopped strand of the pipeline keeps no running peer: this stop is the last (14 R426). -/
def lastStop (s : State) : Bool :=
  (s.strandsOf s.core.partOf.val s.core.pipeOf).all fun k => k == s.core.id

/-- The stops that YIELD, SUSPEND and RFT with TDISP 1 or 2 make of the other members of the gang (05 R183). -/
def stopGang (s : State) : State := (gangPeers s).foldl (askStop Status.ready 0) s

/-- A strand whose live scratchpad does not fit its spill area: it is written back FAULTED, its pipeline faults and the core is free (01
R21). -/
def spillFault (pc : Word) (s : State) : State :=
  let s := writeBack Status.faulted Cause.contextRestore pc none s.core.frame s
  releaseCore (pipelineFault s.core.partOf s.core.pipeOf Cause.contextRestore pc none (some s.core.id) [] s)

/-- What a leaving strand does: engines stop, the context goes to the frame, the record is written back, the core is
free. A spill that does not fit makes it FAULTED with CONTEXT_RESTORE (01 R21). -/
def leaveCore (status : Nat) (cause : BitVec 8) (stop : Option (BitVec 8)) (trapped held : Bool) (pc : Word)
    (wait : Option (Word × W32)) (block : Bool) (s : State) : State :=
  let s := stopEngines s
  match saveContext s.core.frame trapped held stop pc s with
  | (true, s) =>
    let s := if block then writeStateBlock s s.core.partOf s.core.pipeOf else s
    releaseCore (writeBack status cause pc wait s.core.frame s)
  | (false, s) => spillFault pc s

/-- As `leaveCore`, for a stop of the strand's own choice: a struck member of a gang, and one that lost its gang, is written back as such
(01 R22). -/
def leaveOrLost (status : Nat) (trapped held : Bool) (pc : Word) (wait : Option (Word × W32)) (s : State) : State :=
  match s.core.stopReq with
  | some (st, cause) =>
    if stopRank st.val = 0 then leaveCore status 0 none trapped held pc wait false s
    else leaveCore st.val cause (if st.val = Status.faulted then some cause else none) trapped held pc none false s
  | none => leaveCore status 0 none trapped held pc wait false s

/-- The strand faults its pipeline: its context is saved (or, for the causes of R440's last paragraph, not), its record is
written back FAULTED and the pipeline stops (14 R440 R441). -/
def faultStrand (cause : BitVec 8) (pc : Word) (save trapped struck : Bool) (s : State) (loops : Bool := trapped) : State :=
  let s := stopEngines s
  let fits := if save then saveContext s.core.frame trapped false (some cause) pc s loops else (true, s)
  let s := fits.2
  let cause := if fits.1 then cause else Cause.contextRestore
  let peers := if struck then gangPeers s else []
  let gang := struck && decide (1 < s.core.gsizeOf)
  let s := writeBack Status.faulted cause pc none s.core.frame s
  let unit := if struck then some (BitVec.ofNat 16 (unitId s.core.id 0)) else none
  releaseCore (pipelineFault s.core.partOf s.core.pipeOf (if gang then Cause.gangLost else cause) pc unit
    (some s.core.id) peers s)

end

end Sys2Proof.Machine
end

