-- ==== Sys2Proof/Machine/Queue.lean ====
section
/-! DEFINITION. Stage queues of a running pipeline: reservations, claims, entries on chip and in the overflow ring,
latching and closing (06 R207 to R210, 13 R409 R412 R416 R417 R418). -/

namespace Sys2Proof.Machine

noncomputable section

/-- The queue with id `q` of a pipeline. -/
def State.squeue (s : State) (part pipe q : Nat) : Option SQueue := (s.pipeline part pipe).bind fun p => p.queues[q]?

def State.modQueue (s : State) (part pipe q : Nat) (f : SQueue → SQueue) : State :=
  s.modPipe part pipe fun p => { p with queues := p.queues.mapIdx fun i v => if i = q then f v else v }

/-- Unclaimed entries on chip and in the ring, with reservations (13 R409). -/
def SQueue.occupancy (q : SQueue) : Nat :=
  (q.chip.filter fun e => e.claimed.isNone).length + q.ringCount + q.resvChip + q.resvRing

/-- A queue latches when its occupancy reaches HIGH and unlatches when it falls to LOW (13 R412). -/
def SQueue.relatch (q : SQueue) : SQueue :=
  let n := q.occupancy
  { q with latched := if q.high ≤ n then true else if n ≤ q.low then false else q.latched }

/-- The on-chip part has room beside its reservations. -/
def SQueue.chipRoom (q : SQueue) : Bool := decide (q.chip.length + q.resvChip < q.cap)

/-- A push reserves one place: on chip, else in the ring; none when the quota is reached (13 R417). -/
def SQueue.reserve (q : SQueue) : Option SQueue :=
  if q.chipRoom then some ({ q with resvChip := q.resvChip + 1 } : SQueue).relatch
  else if q.ringCount + q.resvRing < q.quota then some ({ q with resvRing := q.resvRing + 1 } : SQueue).relatch
  else none

/-- A reservation is given up or used. -/
def SQueue.unreserve (q : SQueue) (onChip : Bool) : SQueue :=
  if onChip then { q with resvChip := q.resvChip - 1 } else { q with resvRing := q.resvRing - 1 }

/-- The oldest unclaimed entry on chip. -/
def SQueue.oldest (q : SQueue) : Option QEntry := q.chip.find? fun e => e.claimed.isNone

/-- The scope of queue operations: die when the pipeline's clusters lie on one die (06 R207). -/
def Pipeline.scope (p : Pipeline) (clusters : List Nat) : Nat :=
  let used := (clusters.zipIdx.filter fun c => p.cmask == 0 || p.cmask / 2 ^ c.2 % 2 == 1).map fun c => dieOf c.1
  if used.all fun d => some d == used.head? then 2 else 3

/-- The scope of a pipeline's queues. -/
def State.queueScope (s : State) (part pipe : Nat) : Nat :=
  match s.pipeline part pipe, s.cfg part with
  | some p, some c => p.scope c.clusters
  | _, _ => 3

/-- Writes an entry to a ring slot, with the metadata of its blocks (13 R416). -/
def ringWrite (s : State) (part : Fin 8) (pipe : Nat) (q : SQueue) (slot : Nat) (e : QEntry) : State :=
  let ag := partAgent s part s.core.id (s.queueScope part.val pipe)
  let at_ := q.ring + BitVec.ofNat 64 (slot * q.esize)
  let s := devWrite ag at_ e.bytes s
  (blocksOf at_ q.esize).zipIdx.foldl (fun s b =>
    match locate ag .write false b.1.1 s with
    | .ok l s => s.setMdata l.key (e.mdata.getD b.2 0)
    | x => x.state) s

/-- Reads an entry from a ring slot. -/
def ringRead (s : State) (part : Fin 8) (pipe : Nat) (q : SQueue) (slot seq : Nat) : QEntry × State :=
  let ag := partAgent s part s.core.id (s.queueScope part.val pipe)
  let at_ := q.ring + BitVec.ofNat 64 (slot * q.esize)
  let d := devRead ag at_ q.esize s
  let m := (blocksOf at_ q.esize).foldl (fun (a : List (BitVec 25) × State) b =>
    match locate ag .read false b.1 a.2 with
    | .ok l s => (a.1 ++ [s.mdata l.key], s)
    | x => (a.1 ++ [0], x.state)) ([], d.2)
  (⟨seq, d.1, m.1, none⟩, m.2)

/-- The Remontoire moves the ring's head entry to the on-chip tail (13 R416). -/
def refill (s : State) (part : Fin 8) (pipe q : Nat) : State :=
  match s.squeue part.val pipe q with
  | none => s
  | some v =>
    if v.ringCount = 0 ∨ !v.chipRoom then s else
    let seq := (v.nextSeq + 2 ^ 64 - v.ringCount) % 2 ^ 64
    let r := ringRead s part pipe v v.ringHead seq
    let head := if v.ringcap = 0 then 0 else (v.ringHead + 1) % v.ringcap
    let v' := { v with chip := v.chip ++ [r.1], ringHead := head, ringCount := v.ringCount - 1 }
    r.2.modQueue part.val pipe q fun _ => v'.relatch

/-- An entry enters its queue at its tail (06 R208, 13 R416): on chip if there is room beside the other reservations and the ring is
empty. Where the ring is not empty, a place on chip takes the ring's head, and the entry goes to the ring's tail. -/
def enterQueue (s : State) (part : Fin 8) (pipe q : Nat) (bytes : List Byte) (md : List (BitVec 25)) (onChip : Bool) :
    State :=
  let s := refill (s.modQueue part.val pipe q fun v => v.unreserve onChip) part pipe q
  match s.squeue part.val pipe q with
  | none => s
  | some v =>
    let e : QEntry := ⟨v.nextSeq, bytes, md, none⟩
    let next := (v.nextSeq + 1) % 2 ^ 64
    if v.chipRoom ∧ v.ringCount = 0 then
      s.modQueue part.val pipe q fun _ => ({ v with chip := v.chip ++ [e], nextSeq := next } : SQueue).relatch
    else
      let slot := if v.ringcap = 0 then 0 else (v.ringHead + v.ringCount) % v.ringcap
      let s := ringWrite s part pipe v slot e
      s.modQueue part.val pipe q fun _ => ({ v with ringCount := v.ringCount + 1, nextSeq := next } : SQueue).relatch

/-- A claim of the oldest unclaimed entry by a core (06 R209). -/
def claimEntry (s : State) (part pipe q seq core : Nat) : State :=
  s.modQueue part pipe q fun v =>
    ({ v with chip := v.chip.map fun e => if e.seq == seq then { e with claimed := some core } else e } : SQueue).relatch

/-- A claim is released by a rollback. -/
def unclaimEntry (s : State) (part pipe q seq : Nat) : State :=
  s.modQueue part pipe q fun v =>
    ({ v with chip := v.chip.map fun e => if e.seq == seq then { e with claimed := none } else e } : SQueue).relatch

/-- A claim commits: the entry leaves the queue. -/
def takeEntry (s : State) (part pipe q seq : Nat) : State :=
  s.modQueue part pipe q fun v => ({ v with chip := v.chip.filter fun e => e.seq != seq } : SQueue).relatch

/-- The queue id of a port of the strand's stage, none if it is not declared (06 R207). -/
def State.portQueue (s : State) (port : Nat) : Option Nat :=
  match s.pipeline s.core.partOf.val s.core.pipeOf with
  | none => none
  | some p =>
    match p.stages[s.core.stageOf]? with
    | none => none
    | some g =>
      let q := if port < 4 then g.inq.getD port 0xFF else g.outq.getD (port - 4) 0xFF
      if q = 0xFF then none else some q

/-- The stage and status of the records of a pipeline. -/
def State.recStates (s : State) (part : Fin 8) (p : Pipeline) : List (Nat × Nat) :=
  p.recs.map fun r =>
    let b := (devRead (partAgent s part s.core.id 2) r.1 64 s).1
    (field b 16 2, field b 24 1)

/-- One round of 13 R418: queues all of whose producers are finished become closed. -/
def closeRound (live : List Nat) (p : Pipeline) : Pipeline :=
  let finished := fun (g : Nat) => !live.contains g && match p.stages[g]? with
    | none => true
    | some st => st.inq.all fun q => q == 0xFF || match p.queues[q]? with
      | some v => v.closed && v.occupancy == 0 && v.chip.isEmpty
      | none => true
  { p with queues := p.queues.mapIdx fun q v =>
      let producers := (p.stages.zipIdx.filter fun g => g.1.outq.contains q).map fun g => g.2
      if producers.all finished then { v with closed := true } else v }

/-- Closes every queue that 13 R418 closes. -/
def updateClosed (s : State) (part : Fin 8) (pipe : Nat) : State :=
  match s.pipeline part.val pipe with
  | none => s
  | some p =>
    let live := (s.recStates part p).filterMap fun r => if r.2 == Status.done then none else some r.1
    s.modPipe part.val pipe fun p => (List.range (p.queues.length + 1)).foldl (fun p _ => closeRound live p) p

end

end Sys2Proof.Machine
end

