-- ==== Sys2Proof/Machine/Ops.lean ====
section
/-! DEFINITION. The shared operations of a core: results and their landing (02 R44 R48), rollback (05 R152), the close of
a window (04 R134, 12 R352 to R366), taking a trap and returning from one (05 R154 R155, 14 R424 R425), transaction aborts
(12 R387), and the stops of the hack flag (05 R157, 14 R426). -/

namespace Sys2Proof.Machine

noncomputable section

/-! Results and their landing. -/

/-- Adds a result of the present slot to the landing buffer: `lat` beats from now, or interlocked (02 R44 R72). -/
def State.result (s : State) (lat : Option Nat) (w : Write) (es : List LogEvent) : State :=
  let c := s.core
  let r : Result := ⟨lat.map (c.beat + ·), c.seq, c.iss.slot, c.iss.pc, w, es ++ c.iss.stale⟩
  { s with core := { c with land := c.land ++ [r], seq := c.seq + 1, iss := { c.iss with stale := [] } } }

/-- The destination of a result, as a name of 02 R47. -/
def Write.dest : Write → List Reg
  | .x r _ => [.x r]
  | .y r _ => [.y r]
  | .p r _ => [.p r]
  | .bt r _ => [.bt r]
  | .vm r _ _ => [.vm r]
  | .cells m _ | .mreg m _ | .power m _ | .wake m => [.m m]
  | .state n _ => if 0x10 ≤ n ∧ n < 0x14 then [.lc (Fin.ofNat 4 (n - 0x10))] else [.state n]
  | .shadow k n _ => [.shadow k n]
  | .loop _ _ _ _ | .seg _ => []
  | .push _ _ => []

def State.modWin (s : State) (f : Window → Window) : State := { s with core := { s.core with win := f s.core.win } }

/-- Writes a result where it belongs. -/
def applyWrite (w : Write) (s : State) : State :=
  match w with
  | .x r v =>
    if r = 0 then s else
    (s.modR fun g => { g with x := g.x.set r v, xv := setBit g.xv r.val true }).modWin fun n => { n with wx := setBit n.wx r.val true }
  | .y k v => { s with core := { s.core with y := s.core.y.set k ⟨v, some s.core.beat⟩ } }
  | .p r v => if r = 0 then s else s.modR fun g => { g with p := setBit g.p r.val v, pv := setBit g.pv r.val true }
  | .bt r v =>
    (s.modR fun g => { g with bt := g.bt.set r v, btv := setBit g.btv r.val true }).modWin fun n => { n with wbt := setBit n.wbt r.val true }
  | .vm r v lanes =>
    (s.modR fun g => { g with vm := g.vm.set r ((g.vm.get r &&& ~~~lanes) ||| (v &&& lanes)) }).modWin fun n =>
      { n with wvm := setBit n.wvm r.val true }
  | .cells m cs => s.modR fun g => { g with m := g.m.set m ((g.m.get m).write cs) }
  | .mreg m v => s.modR fun g => { g with m := g.m.set m v }
  | .power m v => s.modR fun g => { g with m := g.m.set m { g.m.get m with power := v } }
  | .wake _ => s
  | .state n v =>
    let s := writeState n v (s.keepUndo n)
    if 0x10 ≤ n ∧ n < 0x14 then s.modWin fun w => { w with wlc := setBit w.wlc (n - 0x10) true } else s
  | .shadow k n v => s.modR fun g => { g with shS := g.shS.set k ⟨(g.shS.get k).w.set n v⟩ }
  | .push items scope => s.hold (mkStores s scope items.length false (items.map fun x => (x.1.toNat, x.2.1, x.2.2)))
  | .loop k first last lact => s.modSr fun r => { r with lstart := r.lstart.set k first, lend := r.lend.set k last, lact := lact }
  | .seg v => s.modSr fun r => { r with segexp := v, segrun := 0 }

/-- Lands one result: its write, as of its own bundle and slot. -/
def landOne (r : Result) (s : State) : State :=
  let iss := s.core.iss
  let s := { s with core := { s.core with iss := { iss with pc := r.pc, slot := r.slot } } }
  let s := applyWrite r.write s
  { s with core := { s.core with iss := iss } }

/-- Two results meet on one register; results on a matrix register meet element by element (02 R48, 07 R217). -/
def Write.meets (a b : Write) : Bool :=
  match a, b with
  | .cells m cs, .cells n ds => m == n && cs.any fun c => ds.any fun d => d.1 == c.1
  | a, b => a.dest.any fun d => b.dest.contains d

/-- Lands the results of beat `b`, oldest first; where two results of different bundles and one beat meet, the later-issued one stands
and WAW_COLLIDE is recorded (02 R48). An older result of the beat may have landed already, while the bundle of the beat waited for an
interlocked one. -/
def landAll (b : Nat) (rs : List Result) (s : State) : State :=
  let old := s.core.landed.filter fun (r : Result) => r.due == some b
  let collide := rs.filter fun q => q.due.isSome && (old ++ rs).any fun (r : Result) => r.due == q.due && decide (r.seq < q.seq) && r.write.meets q.write
  let s := rs.foldl (fun s r => landOne r s) s
  let s : State := { s with core := { s.core with landed := old ++ rs.filter fun r => r.due.isSome } }
  s.recordAllAt b (rs.flatMap Result.events ++ collide.map fun r => ⟨Ev.wawCollide, r.slot, 0, r.pc⟩)

/-- Lands every exposed result whose beat is at most `b`, in beat order (02 R44). -/
def landUpTo (b : Nat) (s : State) : State :=
  let due := sortOn (fun r : Result => r.due.getD 0) (s.core.land.filter fun r => match r.due with | some d => decide (d ≤ b) | none => false)
  let s := { s with core := { s.core with land := s.core.land.filter fun r => match r.due with
    | some d => decide (b < d)
    | none => true } }
  (due.map (fun r => r.due.getD 0)).dedup.foldl (fun s d => landAll d (due.filter fun r => r.due == some d) s) s

/-- The interlocked result number `k` of the buffer arrives: it lands at the present beat, with the exposed results of that beat (02 R48
R73). -/
def landInterlocked (k : Nat) (s : State) : State :=
  match (s.core.land.filter fun r => r.due.isNone)[k]? with
  | none => s
  | some r => landUpTo s.core.beat { s with core := { s.core with
      land := s.core.land.map fun q => if q.seq = r.seq then { q with due := some s.core.beat } else q } }

/-- Drains the landing buffer: the late results land, in beat order, interlocked ones first (02 R74; log 121). -/
def drain (s : State) : State :=
  let locked := s.core.land.filter fun r => r.due.isNone
  let s := landAll s.core.beat locked { s with core := { s.core with land := s.core.land.filter fun r => r.due.isSome } }
  landUpTo ((s.core.land.map fun r => r.due.getD 0).foldl max 0) s

/-! Rollback (05 R152 R153). -/

/-- Gives back what a held item had taken: reservations, claims and credits (05 R152, 06 R208 R209 R212 R213). -/
def releaseHeld (h : Held) (s : State) : State :=
  let p := s.core.partOf.val
  let pipe := s.core.pipeOf
  match h with
  | .push q _ _ onChip => if s.core.replay.isSome then s else s.modQueue p pipe q fun v => (v.unreserve onChip).relatch
  | .claim q seq => if s.core.replay.isSome then s else unclaimEntry s p pipe q seq
  | .send target k _ _ =>
    if s.core.replay.isSome then s else
    let key := 9 * k.val + siteOf target
    { s with core := { s.core with credits := sset s.core.credits 0 key (sget s.core.credits 0 key + 1) } }
  | .receive k _ =>
    if s.core.replay.isSome then s else
    let r := s.core.rings.get k
    { s with core := { s.core with rings := s.core.rings.set k { r with claimed := r.claimed - 1 } } }
  | _ => s

/-- Undoes what the open window did outside the registers of `Regs`: the state registers it wrote, the writes that wait for its
boundary, and the wakes it began (05 R152). -/
def undoWindow (s : State) : State :=
  let s := s.core.win.undo.foldl (fun s x => restoreState x.1 x.2 s) s
  let s := s.modLog fun l => { l with nextBase := none, nextSize := none, nextMode := none }
  let s := s.modSup fun t => { t with trootNext := none }
  { s with core := { s.core with wake := s.core.wake.filter fun w => !s.core.win.wakes.contains w.1 } }

/-- The transaction that is open: one whose commit waits for its window's close is (12 R365 R386 R387). -/
def Core.openTx (c : Core) : Option Tx := c.tx.or c.win.commit

/-- Restores the state of the last quiescent boundary and discards the open window; a transaction whose commit it holds is open again. -/
def rollback (s : State) : State :=
  let s := s.core.win.held.foldr releaseHeld s
  let s := undoWindow (discardUncommitted s)
  { s with core := { s.core with
      tx := s.core.openTx,
      r := s.core.bnd, y := Vector.replicate 4 ⟨0, none⟩, land := [], landed := [], group := 0, written := [], delay := none,
      win := emptyWindow, closing := false, post := none, ttPend := [], fault := none, waitClocks := 0 } }

/-! Resolvable faults (04 R119, 14 R436). -/

/-- Posts a pending fault's entry to the translation-fault ring, if it can be posted. -/
def tfEntry (s : State) (f : PendingFault) (unit : Nat) : List Byte :=
  b8 f.va ++ [f.cause, f.kind] ++ toBytes 2 (unitId s.core.id unit) ++ [0, 0, 0, 0] ++ b8 f.pc ++ n8 s.clock

/-- A fault of the strand's access becomes pending and is posted; the access stalls (log 17 for UNIT). -/
def strandFault (cause : BitVec 8) (va : Word) (kind : AKind) (s : State) : State :=
  let f : PendingFault := ⟨va, cause, kind.code, s.core.iss.pc, s.core.iss.slot, none⟩
  let unit := if s.core.iss.slot = 3 then 7 else 0
  match postRing s s.core.partOf 1 false (tfEntry s f unit) with
  | (.done i, s) => { s with core := { s.core with fault := some { f with ring := some i } } }
  | (_, s) => { s with core := { s.core with fault := some f } }

/-! Taking a trap (14 R424). -/

/-- The loop state of 14 R423 TLOOP. -/
def loopState (r : Regs) : Vector Word 13 :=
  Vector.ofFn fun (i : Fin 13) =>
    if i.val < 4 then (r.lc.toList.getD i.val 0).setWidth 64
    else if i.val < 8 then vget r.sr.lstart (i.val - 4)
    else if i.val < 12 then vget r.sr.lend (i.val - 8)
    else r.sr.lact

/-- Enters the trap handler: the trap registers, PMODE, TBUSY, supervisor mode, TVEC; the loop state is saved and LACT is
cleared (14 R424, 05 R154). -/
def enterTrap (cause : BitVec 8) (restart fpc : Word) (slot : Nat) (win addr arg : Word) (s : State) : State :=
  let c := s.core
  let st := setBits (setBits c.sup.tstatus 1 2 c.mode.code) 0 1 1
  let sup := { c.sup with tcause := cause.setWidth 64, tpc := restart, tfpc := fpc, tslot := BitVec.ofNat 64 slot, twin := win,
                          taddr := addr, targ := arg, tstatus := st, tloop := loopState c.r }
  let r := { c.r with pc := c.sup.tvec, sr := { c.r.sr with lact := 0 } }
  { s with core := { c with sup := sup, mode := .supervisor, r := r, bnd := r, tilesOpen := c.tiles, group := 0, written := [], delay := none,
                            iss := { c.iss with gone := true } } }

/-- TSTATUS.TBUSY. -/
def Core.tbusy (c : Core) : Bool := bitAt c.sup.tstatus 0

/-- A precise trap in supervisor mode with TBUSY = 1 (14 R424): DOUBLE is set, the context is saved as it stood at the handler's last
boundary, loop state included, and the strand is written back FAULTED. -/
def doubleTrap (cause : BitVec 8) (s : State) : State :=
  let s := s.modSup fun t => { t with tstatus := setBits t.tstatus 7 1 1 }
  faultStrand cause s.core.r.pc true true false s (loops := false)

/-- A trap on a firmware core (14 R424, 13 R420). -/
def firmwareFault (pc addr : Word) (s : State) : State :=
  let s := report s none (dieOf s.core.id) Cause.fwCoreFault 3 (unitId s.core.id 0) false pc addr
  { s with core := { s.core with run := .dead, iss := { s.core.iss with gone := true } } }

/-- Delivers a trap after the strand stands at its boundary: precise (05 R154) or after the bundle (05 R156). -/
def deliverTrap (cause : BitVec 8) (fpc : Word) (slot : Nat) (win addr arg : Word) (s : State) : State :=
  let c := s.core
  if c.mode = .service then firmwareFault fpc addr s
  else if c.mode = .supervisor ∧ c.tbusy then doubleTrap cause s
  else enterTrap cause c.r.pc fpc slot win addr arg s

/-! Transactions: the abort (12 R387). -/

/-- TXSTATE after an abort. -/
def txAborted (st : Word) (reason code cause n : Nat) : Word :=
  let st := setBits (setBits st 0 2 3) 16 4 reason
  let st := setBits (setBits st 24 8 (min n 64)) 32 8 (if reason = 3 then code else 0)
  setBits st 40 8 (if reason = 5 then cause else 0)

/-- The strand's state at btK after an abort, but for the log (12 R387). -/
def txState (t : Tx) (reason : Fin 8) (code cause : BitVec 8) (s : State) : Regs :=
  let c := s.core
  let k := bits c.r.sr.txstate 5 3
  let st := txAborted c.r.sr.txstate reason.val code.toNat cause.toNat t.footprint.length
  { t.save with pc := vget t.save.bt k, m := c.r.m, sr := { t.save.sr with win := c.r.sr.win, txstate := st } }

/-- Registers of two states that differ, as the masks of a window. -/
def diffMasks (o r : Regs) : Window :=
  { emptyWindow with
    wx := BitVec.ofNat 64 (((List.finRange 64).map fun k => if o.x.get k = r.x.get k && o.xv.getLsbD k.val == r.xv.getLsbD k.val then 0 else 2 ^ k.val).sum)
    wbt := BitVec.ofNat 8 (((List.finRange 8).map fun k => if o.bt.get k = r.bt.get k && o.btv.getLsbD k.val == r.btv.getLsbD k.val then 0 else 2 ^ k.val).sum)
    wvm := BitVec.ofNat 8 (((List.finRange 8).map fun k => if o.vm.get k = r.vm.get k then 0 else 2 ^ k.val).sum)
    wlc := BitVec.ofNat 4 (((List.finRange 4).map fun k => if o.lc.get k = r.lc.get k then 0 else 2 ^ k.val).sum) }

/-- LOGBASE, LOGSIZE and LOGMODE written in the window take effect; TROOT too, discarding entries with G = 0 (12 R353, 14
R423, 04 R121). -/
def boundaryWrites (s : State) : State :=
  let s := if s.core.log.nextBase.isSome || s.core.log.nextSize.isSome then s.noteEdge s.core.r.pc (enginesQuiet s) else s
  let s := s.modLog fun l =>
    let moved := l.nextBase.isSome || l.nextSize.isSome
    let l := { l with base := l.nextBase.getD l.base, size := l.nextSize.getD l.size,
                      mode := (match l.nextMode with | some m => (l.mode &&& 0x48) ||| m | none => l.mode),
                      nextBase := none, nextSize := none, nextMode := none }
    if moved then { l with head := 0, tail := 0, done := 0, cur := 0, horizon := s.core.r.sr.win, mode := setBits l.mode 6 1 0,
                           fullPosted := false } else l
  match s.core.sup.trootNext with
  | none => s
  | some v =>
    let s := s.modSup fun t => { t with troot := v, trootNext := none }
    { s with core := { s.core with tlb := s.core.tlb.filter fun e => leafG e.leaf } }

/-- A trace record's bytes (12 R377): KIND, PC and last word. -/
def traceBytes (kind : Nat) (pc last : Word) (s : State) : List Byte :=
  toBytes 2 s.core.id ++ [BitVec.ofNat 8 kind, 0] ++ toBytes 4 s.core.win.beats ++ b8 s.core.r.sr.win ++ b8 pc ++ b8 last

/-- Appends a record to the trace ring, unless the ring is full (12 R377). -/
def traceWrite (b : List Byte) (s : State) : State :=
  let l := s.core.log
  let n := 2 ^ bits l.trctl 8 5
  let prod := bits l.trctl 32 32
  if (prod + 2 ^ 32 - bits l.trcons 0 32) % 2 ^ 32 = n then s else
  let s := devWrite (strandAgent s 0) (l.trbase + BitVec.ofNat 64 (32 * (prod % n))) b s
  s.modLog fun l => { l with trctl := setBits l.trctl 32 32 (prod + 1) }

/-- A trace record of the open window: it is written when the window closes, for a window that is rolled back leaves none (12 R377). -/
def traceRecord (kind : Nat) (pc last : Word) (s : State) : State :=
  if s.core.win.bundles = 0 then traceWrite (traceBytes kind pc last s) s else
  let b := traceBytes kind pc last s
  s.modWin fun w => { w with held := w.held ++ [.trace b] }

/-- What every quiescent boundary does beside: the record of the close, and SINGLE_STEP (12 R377, 14 R424). -/
def boundaryMarks (s : State) : State :=
  let s := if bitAt s.core.log.trctl 2 then traceWrite (traceBytes 3 s.core.r.pc (BitVec.ofNat 64 s.clock) s) s else s
  if bitAt s.core.sup.tstatus 3 && s.core.mode == .strand then s.pendEvent Cause.singleStep 0 else s

/-- The boundary that an abort makes: the strand stands at btK and WIN advances; FULL records the outcome and the boundary
(12 R387 R388). Where the entries cannot be appended yet, they stand in the next window, whose close takes the stop that kept them
from it; a translation fault stalls the strand at once (12 R355; log 21). -/
def txRestore (t : Tx) (reason : Fin 8) (code cause : BitVec 8) (s : State) : State :=
  let c := s.core
  let at_ := c.r.pc
  let beats := c.win.beats
  let r := txState t reason code cause s
  let s := undoWindow (discardUncommitted s)
  let s := { s with core := { s.core with
      r := r, y := Vector.replicate 4 ⟨0, none⟩, land := [], landed := [], group := 0, written := [], delay := none,
      win := { diffMasks c.bnd r with beats := beats }, closing := false, post := none, ttPend := [], tx := none, fault := none, waitClocks := 0,
      iss := { s.core.iss with gone := true } } }
  let ents := ({ kind := Ent.inrec, flags := 0, src := 3, win := r.sr.win, pc := c.iss.pc, body := n8 8 ++ b8 r.sr.txstate ++ b8 at_ } : LogEnt) ::
    boundaryEnts s c.bnd r.pc (enginesQuiet s)
  let moved := fun (s : State) =>
    let s := boundaryWrites ((boundaryMarks s).modSr fun q => { q with win := q.win + 1 })
    { s with core := { s.core with bnd := s.core.r, tilesOpen := s.core.tiles, win := emptyWindow } }
  let later := fun (s : State) => (moved s).modWin fun w => { w with held := ents.map fun e => .entry e.kind false e.pc e.src e.body }
  if !s.logOn 2 then moved s
  else if s.core.replay.isSome then
    match (windowEntries s).getLast? with
    | some x => moved (s.modLog fun l => { l with cur := BitVec.ofNat 64 (x.1 + x.2.2) })
    | none => moved s
  else match logReady ents s with
    | (none, s) => moved (ents.foldl logAppend s)
    | (some (.fault f va), s) => strandFault f va .write (later s)
    | (some _, s) => later s

/-- Aborts the open transaction. A NESTING abort is followed by TX_NESTING at the abort target (12 R384). -/
def txAbortNow (reason : Fin 8) (code cause : BitVec 8) (s : State) : State :=
  match s.core.openTx with
  | none => s
  | some t =>
    let pc := s.core.iss.pc
    let s := txRestore t reason code cause s
    if reason = 7 then deliverTrap Cause.txNesting pc 3 s.core.r.sr.win 0 0 s else s

/-- A precise trap of the bundle at the present issue (05 R154): rollback, then the handler; inside a transaction, an
abort with reason FAULT (12 R384). -/
def takeTrap (cause : BitVec 8) (slot : Nat) (addr arg : Word) (s : State) : State :=
  match s.core.openTx with
  | some t => txRestore t 5 0 cause s
  | none =>
    let pc := s.core.iss.pc
    let s := rollback s
    deliverTrap cause pc slot s.core.r.sr.win addr arg s

/-- An asynchronous event (05 R155): the window is rolled back, and the restart and faulting addresses are the boundary.
Inside a transaction it aborts with reason EVENT first (12 R384). -/
def takeAsync (cause : BitVec 8) (addr : Word) (s : State) : State :=
  let s := match s.core.openTx with
    | some t => txRestore t 6 0 0 s
    | none => rollback s
  deliverTrap cause s.core.r.pc 7 s.core.r.sr.win addr 0 s

/-- The pending asynchronous event of lowest cause, deliverable outside a busy handler (05 R155, 14 R424). On a firmware core it is a trap
like any other, reported as FW_CORE_FAULT. -/
def Core.nextAsync (c : Core) : Option (BitVec 8 × Word) :=
  if c.tbusy then none
  else (sortOn (fun e : BitVec 8 × Word => e.1.toNat) c.pend).head?

/-- The index of a core in its partition's register block: 9 times its cluster's ordinal plus its site (15 R446). -/
def PartCfg.hostIndex (c : PartCfg) (core : Nat) : Option Nat :=
  (c.clusters.findIdx? fun k => k == clusterId core).map fun i => 9 * i + siteOf core

/-- The HREQ word of the focused core as the host wrote it. Its upper bits are for the handler, by a state number that no table gives (15 R446;
log 92). -/
def hreqImage (s : State) : Word :=
  match (s.cfg s.core.partOf.val).bind fun c => c.hostIndex s.core.id with
  | none => 0
  | some n => sget (s.part s.core.partOf.val).hreq 0 n

/-- The core takes HOST_REQUEST: bit 0 of its register reads 0 again (15 R446). -/
def takeHostRequest (s : State) : State :=
  match (s.cfg s.core.partOf.val).bind fun c => c.hostIndex s.core.id with
  | none => s
  | some n => s.modPart s.core.partOf.val fun p => { p with hreq := sset p.hreq 0 n (setBits (sget p.hreq 0 n) 0 1 0) }

/-- A delivered UE_ACCUMULATOR strikes a gang's member: it is written back FAULTED, the others GANG_LOST (01 R22, 14 R441). -/
def strikeMember (cause : BitVec 8) (s : State) : State :=
  let s := match s.core.openTx with
    | some t => txRestore t 6 0 0 s
    | none => rollback s
  faultStrand cause s.core.r.pc true false true s

/-- Delivers the event of lowest cause; the others stay pending (05 R155). -/
def deliverAsync (s : State) : State :=
  match s.core.nextAsync with
  | none => s
  | some e =>
    let s := if e.1 = Cause.hostRequest then takeHostRequest s else s
    let s : State := { s with core := { s.core with pend := s.core.pend.erase e } }
    if e.1 = Cause.ueAccumulator ∧ 1 < s.core.gsizeOf then strikeMember e.1 s else takeAsync e.1 e.2 s

/-! The close of a window. -/

/-- The metadata a held store leaves in its block: far memory holds none (04 R124). -/
def storeMdata (h : HStore) (old : BitVec 25) (s : State) : State :=
  if h.far then s else s.setMdata h.key (h.apply old)

/-- The ATOMIC entry of a transaction's atomic (12 R388). -/
def atomicEnt (s : State) (h : HStore) : LogEnt :=
  let old := s.peek h.key h.size
  { kind := Ent.atomic, flags := 1 + 2 * boolBit h.far, src := h.slot.val, win := s.core.r.sr.win, pc := h.pc,
    body := b8 h.va ++ n8 h.size ++ n8 (ofBytes old) ++ n8 (ofBytes (if h.bytes = [] then old else h.bytes)) }

/-- L1 keeps a core-scope store to a cached page; it writes through while dirty logging is on (04 R127). -/
def State.l1Keeps (s : State) (h : HStore) : Bool :=
  h.cached && !(match s.cfg s.core.partOf.val with | some c => c.dlog | none => false)

/-- Performs a held store, whose dirty bit is set, and gives its log entry; the failed compare of a transaction reads only. -/
def performStore (h : HStore) (tx dry : Bool) (s : State) : List LogEnt × State :=
  let ents := [if h.atom then atomicEnt s h else undoEnt s h tx]
  if dry || (h.atom && h.bytes.isEmpty) then (ents, s) else
  let old := s.mdata h.key
  let s := noteAccess s s.core.id (some s.core.id) h.scope h.key true
  let s := s.noteL1 s.core.id (s.l1Keeps h) h.key h.bytes.length
  let s := if h.far && h.lead then s.countFar (dieOf s.core.id) s.core.partOf h.va 1 else s
  (ents, storeMdata h old (s.poke h.key h.bytes))

/-- A message enters the target's ring, as one cluster-scope store before which every earlier access of the sender has its place
(06 R211 R212). -/
def performSend (target : Nat) (k : Fin 4) (bytes : List Byte) (md : BitVec 25) (s : State) : State :=
  let t := s.coreAt target
  let e := t.tiles.toList.getD (60 + k.val) zeroTile
  let r := t.rings.get k
  let key := scratchKey target ((e.base.toNat + r.tail % max 1 e.size.toNat) * 64)
  let s := noteAccess s.releaseL1 s.core.id (some s.core.id) 1 key true
  let s := (s.poke key bytes).setMdata key md
  s.modCoreAt target fun c => { c with rings := c.rings.set k { r with tail := r.tail + 1, senders := r.senders ++ [siteOf s.core.id] } }

/-- A received message's slot is freed and a credit returns to its sender (06 R213). HEAD is the slot of the oldest message: past the last
slot both counts start again (log 122). -/
def performReceive (k : Fin 4) (sender : Nat) (s : State) : State :=
  let r := s.core.rings.get k
  let n := max 1 (s.core.tiles.toList.getD (60 + k.val) zeroTile).size.toNat
  let turn := if n ≤ r.head + 1 then n else 0
  let s := { s with core := { s.core with
    rings := s.core.rings.set k { r with head := r.head + 1 - turn, tail := r.tail - turn, claimed := r.claimed - 1, senders := r.senders.drop 1 } } }
  let key := 9 * k.val + siteOf s.core.id
  s.modCoreAt (coreNumber (clusterId s.core.id) sender) fun c =>
    { c with credits := sset c.credits 0 key (sget c.credits 0 key + 1) }

/-- The comparison of every entry of the census with the reference (12 R380): the first unequal index. -/
def censusCheck (s : State) : State :=
  let lg := bits (vget s.core.eng.cens 1) 8 5
  let rd := fun (base : Word) k => (devRead (engineAgent s 2 false) (base + BitVec.ofNat 64 (32 * k)) 32 s).1
  match (List.range (2 ^ lg)).find? fun k => rd (vget s.core.eng.cens 0) k != rd (vget s.core.eng.cens 2) k with
  | none => s
  | some k =>
    let a := rd (vget s.core.eng.cens 0) k
    let b := rd (vget s.core.eng.cens 2) k
    if field a 0 8 ≠ field b 0 8 then censusDiverge s (fw (if field a 0 8 = 0 then b else a) 0) 6
    else censusDiverge s (fw a 0) (((List.range 5).find? fun i => field a (8 + 4 * i) 4 != field b (8 + 4 * i) 4).getD 0 + 1)

/-- The Retrograde unit performs no command: it is disabled, or its queue is held behind a command that ended by a fault (14 R439, 01
R29). -/
def State.unitHeld (s : State) : Bool := s.core.eng.disabled.getLsbD 6 || (s.head 5).any fun d => d.faulted

/-- A command that commits to the queue of a Retrograde unit that performs none: at the head it is the queue's fault. -/
def commitHeld (c : Cmd) (s : State) : State :=
  let s := s.modEng fun g => g.setQueue 5 ((g.queue 5).map fun d => if d.seq == c.seq then { d with committed := true } else d)
  if (s.head 5).any fun d => d.seq == c.seq then faultNow 5 Cause.quarantinedUnit 0 s else s

/-- One command of the closing window commits (01 R26, 04 R140 R143, 12 R381). -/
def commitOne (c : Cmd) (s : State) : State :=
  match c.instr with
  | .ecancel _ _ mask =>
    let named := fun (q : Nat) => mask.val / 2 ^ q % 2 == 1
    let s := (List.range 5).foldl (fun s q =>
      if named q then ((s.core.eng.queue q).filter fun d => decide (d.seq < c.seq)).foldr (fun d s =>
        if d.running && (s.work q).open_ then s.modWork q fun w => { w with stopReq := 2 } else cancelCmd q d s) s else s) s
    let goes := fun (d : Cmd) => decide (d.seq < c.seq) && (List.range 5).any fun q => named q && markerMask d.instr / 2 ^ q % 2 == 1
    let held := match s.core.eng.faults.toList.getD 5 none with
      | some f => s.core.eng.signals.any fun d => goes d && d.pc == f.pc
      | none => false
    s.modEng fun g => { g with signals := g.signals.filter (fun d => !(d.seq == c.seq || goes d)),
                               faults := if held then vset g.faults 5 none else g.faults }
  | .logmark _ _ _ _ chk =>
    if s.unitHeld then commitHeld c s else
    let s := if chk = 1 then censusCheck s else s
    s.modEng fun g => g.setQueue 5 ((g.queue 5).filter fun d => d.seq != c.seq)
  | .logflush _ _ _ =>
    if s.unitHeld then commitHeld c s else
    let s := s.modEng fun g => g.setQueue 5 ((g.queue 5).filter fun d => d.seq != c.seq)
    s.modLog fun l => { l with done := l.head }
  | i =>
    let mark := fun (d : Cmd) => if d.seq == c.seq then { d with committed := true } else d
    let s := s.modEng fun g => { g with queues := g.queues.map fun l => l.map mark, signals := g.signals.map mark }
    if isEtrel i then s else s.eqCommit (engineCode i) 1

/-- The oldest pending tile change commits; a TTDEF of a message ring empties it and sets every credit for it (06 R211 R214). -/
def commitTile (c : TileChange) (s : State) : State :=
  let k := s.core
  let s := { s with core := { k with tiles := applyTile k.tiles c, ttPend := k.ttPend.drop 1 } }
  match c with
  | .define t v =>
    if t.val < 60 then s else
    let s := { s with core := { s.core with rings := vset s.core.rings (t.val - 60) ⟨0, 0, 0, []⟩ } }
    (List.range 9).foldl (fun s site => s.modCoreAt (coreNumber (clusterId k.id) site) fun c =>
      { c with credits := sset c.credits 0 (9 * (t.val - 60) + siteOf k.id) (v.size.toNat / 9) }) s
  | _ => s

/-- The window's command with this number commits. -/
def commitSeq (seq : Nat) (s : State) : State :=
  match (s.core.eng.queues.toList.flatten ++ s.core.eng.signals).find? fun c => c.seq == seq && !c.committed with
  | some c => commitOne c s
  | none => s

/-- Performs one held item and gives its log entries, in replay without effects that leave the chip (12 R374). -/
def performHeld (h : Held) (s : State) : List LogEnt × State :=
  let p := s.core.partOf
  let pipe := s.core.pipeOf
  let replay := s.core.replay.isSome
  match h with
  | .load _ _ _ _ => ([], s)
  | .tile c => ([], commitTile c s)
  | .command seq => ([], commitSeq seq s)
  | .store h => performStore h false (replay && h.far) s
  | .txstore h => performStore h true (replay && h.far) s
  | .push q bytes md onChip => ([], if replay then s else enterQueue s p pipe q bytes md onChip)
  | .claim q seq => ([], if replay then s else updateClosed (takeEntry s p.val pipe q seq) p pipe)
  | .send target k bytes md => ([], if replay then s else performSend target k bytes md s)
  | .receive k sender => ([], if replay then s else performReceive k sender s)
  | .flush _ key => ([], s.cleanBlock (· == s.core.id) key)
  | .trace b => ([], traceWrite b s)
  | .entry kind irr pc slot body =>
    ([{ kind := kind, flags := 2 * boolBit irr, src := slot, win := s.core.r.sr.win, pc := pc, body := body }], s)

/-- Performs the held items in program order and collects their entries. -/
def performAll : List Held → State → List LogEnt × State
  | [], s => ([], s)
  | h :: r, s =>
    let a := performHeld h s
    let b := performAll r a.2
    (a.1 ++ b.1, b.2)

/-- The items of a window in the order in which its close performs them: a flush applies after the stores (06 R203). -/
def closeOrder (hs : List Held) : List Held :=
  let isFlush := fun (h : Held) => match h with | .flush _ _ => true | _ => false
  hs.filter (fun h => !isFlush h) ++ hs.filter isFlush

/-- The places that the close of the window writes through the dirty bitmap (04 R127). -/
def State.closeKeys (s : State) : List Nat :=
  s.core.win.held.filterMap fun h => match h with
    | .store h | .txstore h => if s.core.replay.isSome && h.far then none else some h.key
    | _ => none

/-- What a close of the window ends in: it is made; it waits; an append traps; or a load of the window no longer holds, and the
window is rolled back to be issued again. -/
inductive Closed where
  | done (s : State)
  | wait (s : State)
  | trap (cause : BitVec 8) (addr : Word) (s : State)
  | redo (s : State)

/-- What a replay must match of an entry: the address and NEW of an UNDO entry, a tag store's new tag included, the address of an ATOMIC
entry, and the whole of others (12 R374). -/
def replayKey (e : LogEnt) : List Byte :=
  if e.kind = Ent.undo then
    let n := field e.body 8 1 % 128
    slice e.body 0 9 ++ (if n = 0 then n8 (field e.body 8 8 / 2 ^ 33 % 2 ^ 24) else slice e.body (16 + (pad16 (List.replicate n 0)).length) n)
  else if e.kind = Ent.atomic then slice e.body 0 8
  else if e.kind = Ent.regs ∨ e.kind = Ent.sregs ∨ e.kind = Ent.mreg ∨ e.kind = Ent.mark ∨ e.kind = Ent.irrev then pad16 e.body
  else []

/-- The value that the response of a diverged replay shows of an entry: the first bytes an UNDO entry writes, else the word after its
address (12 R371). -/
def LogEnt.shown (e : LogEnt) : Word := fw (replayKey e) (if e.kind = Ent.undo then 9 else 8)

/-- The first mismatch of a replayed window with the log: PC, address, recorded and replayed values (12 R371 R374). -/
def replayDiff : List LogEnt → List LogEnt → Option (Word × Word × Word × Word)
  | [], [] => none
  | g :: _, [] => some (g.pc, fw g.body 0, 0, g.shown)
  | [], w :: _ => some (w.pc, fw w.body 0, w.shown, 0)
  | g :: gs, w :: ws =>
    if g.kind = w.kind ∧ g.pc = w.pc ∧ replayKey g = replayKey w ∧ g.flags / 2 % 2 = w.flags / 2 % 2 then replayDiff gs ws
    else some (w.pc, fw w.body 0, w.shown, g.shown)

/-- The close of a replayed window: its entries but the engines' are compared; LOGCUR passes them all (12 R374). -/
def replayClose (got : List LogEnt) (s : State) : Option (Word × Word × Word × Word) × State :=
  let want := windowEntries s
  let d := replayDiff got ((want.filter fun x => x.2.1.src % 8 != 6).map fun x => x.2.1)
  let stop := match want.getLast? with
    | some x => x.1 + x.2.2
    | none => s.core.log.cur.toNat
  (d, s.modLog fun l => { l with cur := BitVec.ofNat 64 stop })

/-- The boundary itself: WIN advances and the present state becomes the boundary state (05 R152, 12 R363). -/
def makeBoundary (s : State) : State :=
  let s := s.modSr fun r => { r with win := r.win + 1 }
  let s := boundaryWrites s
  { s with core := { s.core with bnd := s.core.r, tilesOpen := s.core.tiles, win := emptyWindow, closing := false } }

/-- The entries that the close appends: those of its items, and in FULL those of the boundary (12 R352 R357). -/
def closeEntries (held : List LogEnt) (s : State) : List LogEnt :=
  (held.filter fun e => if e.kind = Ent.inrec then s.logOn 2 else s.logOn 1) ++
  (if s.logOn 2 then boundaryEnts s s.core.bnd s.core.r.pc (enginesQuiet s) else [])

/-- The window has closed: the last of its effects, and the boundary. -/
def finishClose (s : State) : State := makeBoundary (boundaryMarks s)

/-- The reads of a transaction take their places as it commits (12 R386). -/
def commitReads (s : State) : State :=
  match s.core.win.commit with
  | none => s
  | some t => t.reads.foldl (fun s k => noteAccess s s.core.id (some s.core.id) (bits s.core.r.sr.txstate 3 2) (64 * k) false) s

/-- A window that waits for its close. -/
def closingNow (s : State) : State := { s with core := { s.core with closing := true } }

/-- Closes the window at the present boundary, with the next bundle's address in the pc (04 R134). A window with no bundle is
closed already (12 R363). Nothing is performed until the dirty bits are set and the log has room (04 R128, 12 R365). `base` is
the machine that waits or traps where the close cannot be made: before a bundle that performs an access at its issue, so that
this access waits too (04 R135), else the present one. A transaction that meets a conflict before its commit is made aborts (12 R386
R387). -/
def closeOver (base s : State) : Closed :=
  if s.core.win.bundles = 0 ∧ s.core.win.held = [] then .done { s with core := { s.core with closing := false } }
  else if s.core.win.commit.any Tx.conflict then .redo (txAbortNow 1 0 0 s)
  else if !s.core.win.acted && !loadsStand s [] s.core.win.held then .redo (rollback s) else
  match markDirty s s.core.partOf s.closeKeys with
  | (false, _) => .wait (closingNow (markDirty base s.core.partOf s.closeKeys).2)
  | (true, s) =>
    let r := performAll (closeOrder s.core.win.held) (commitReads s)
    let s1 := r.2
    let ents := closeEntries r.1 s1
    match s.core.replay with
    | some rp =>
      match replayClose ents s1 with
      | (none, s2) => .done (finishClose s2)
      | (some d, _) =>
        let s := rollback s
        .done { s with core := { s.core with replay := some { rp with diverged := some d } } }
    | none =>
      if ents.isEmpty then .done (finishClose s1)
      else match logReady ents s1 with
        | (none, s2) => .done (finishClose (ents.foldl logAppend s2))
        | (some (.trap c a), _) => .trap c a base
        | (some .blocked, _) => .wait (closingNow (logReady ents base).2)
        | (some (.fault c a), _) => .wait (closingNow (if base.core.fault.isSome then base else strandFault c a .write base))

/-- Closes the window at the present boundary. -/
def closeWindow (s : State) : Closed := closeOver s s

/-! The hack flag and other stops at a boundary (05 R157, 14 R426 R440). -/

/-- The partition's MIGR flag. -/
def State.migrating (s : State) : Bool :=
  match s.cfg s.core.partOf.val with
  | some c => c.migr
  | none => false

/-- Stops the strand at its boundary because of HACK (14 R426): its context is written to its frame with STOPCAUSE HACK_STOP (01 R21, 14
R429; log 107) and HACK_STOP goes to the supervisor, or with MIGR the strand leaves the core. -/
def hackStop (s : State) : State :=
  let s := match s.core.openTx with
    | some t => txRestore t 6 0 0 s
    | none => s
  if !enginesAtStop s then requestStops s
  else if s.migrating then
    let s := s.modPipe s.core.partOf.val s.core.pipeOf fun p => { p with migrating := true }
    leaveCore Status.ready 0 (some Cause.migrationStop) false false s.core.r.pc none (lastStop s) s
  else
    let s := stopEngines s
    let pc := s.core.r.pc
    let win := s.core.r.sr.win
    if s.core.record.isEmpty then deliverTrap Cause.hackStop pc 7 win 0 0 s else
    match saveContext s.core.frame false false (some Cause.hackStop) pc s with
    | (true, s) => deliverTrap Cause.hackStop pc 7 win 0 0 s
    | (false, s) => spillFault pc s

/-- Stops the strand at its boundary on request of another unit; a CKPT of the state stops as a MIGR stop does (14 R442), and a FAULTED
write-back leaves its cause in the frame (14 R429). -/
def stopNow (status : Fin 8) (cause : BitVec 8) (s : State) : State :=
  let s := match s.core.openTx with
    | some t => txRestore t 6 0 0 s
    | none => s
  if !enginesAtStop s then requestStops s
  else if cause = Cause.migrationStop then leaveCore status.val 0 (some cause) false false s.core.r.pc none (lastStop s) s
  else leaveCore status.val cause (if status.val = Status.faulted then some cause else none) false false s.core.r.pc none false s

/-! Return from a trap (14 R425). -/

/-- Restores loop state from TLOOP. -/
def Regs.withLoops (r : Regs) (t : Vector Word 13) : Regs :=
  { r with lc := Vector.ofFn (fun i => (vget t i.val).setWidth 32),
           sr := { r.sr with lstart := Vector.ofFn (fun i => vget t (4 + i.val)),
                             lend := Vector.ofFn (fun i => vget t (8 + i.val)), lact := vget t 12 } }

/-- RFT with TDISP 0: the mode before the trap, the loop state and the saved commands return; execution goes on at TPC. -/
def resumeStrand (s : State) : State :=
  let c := s.core
  let t := c.sup
  let r := { c.r.withLoops t.tloop with pc := t.tpc }
  let cmds := c.eng.saved
  let again := fun (q : Nat) (d : Cmd) => if d.started && !d.running && !d.faulted && s.progState q == 2 then { d with resume := true } else d
  let s := { s with core := { c with
    mode := Mode.ofCode (bits t.tstatus 1 2), r := r, bnd := r, sup := { t with tstatus := setBits (setBits t.tstatus 0 1 0) 4 3 0 },
    group := 0, written := [], iss := { c.iss with gone := true },
    eng := { c.eng with saved := [], queues := c.eng.queues.mapFinIdx fun q l _ => l.map (again q) } } }
  reissue (cmds.map fun d => (d.queues.headD 5, d)) s

/-- RFT with TDISP 1 to 4 (14 R425): the save proceeds as for YIELD, with PC = TPC. -/
def leaveFromTrap (d : Nat) (s : State) : State :=
  let t := s.core.sup
  let cause := BitVec.ofNat 8 t.tcause.toNat
  let s := s.modSup fun t => { t with tstatus := setBits (setBits t.tstatus 0 1 0) 4 3 0 }
  let s := stopGang s
  if d = 1 then leaveOrLost Status.ready true false t.tpc none s
  else if d = 2 then leaveOrLost Status.suspended true false t.tpc none s
  else if d = 3 then faultStrand cause t.tpc true true false s
  else leaveOrLost Status.suspended true true t.tpc none s

end

end Sys2Proof.Machine
end

