-- ==== Sys2Proof/Machine/Operands.lean ====
section
/-! DEFINITION. Operands: guards, the registers an instruction reads and writes, its mode, what a slot checks before it
acts, and vector operands (02 R46 R47 R52 R62 to R64 R67 R72 R76, 07 R218 R219 R224 to R226, 12 R384). -/

namespace Sys2Proof.Machine

noncomputable section

abbrev Ends := Host.Outcome State Fault Refusal

/-! The guard. -/

/-- The guard of a syllable, 0 for a tree or NOP (02 R52 R54 R56 R57 R60). -/
def guardOf : Instr → Fin 8
  | .add g .. | .sub g .. | .mul g .. | .mulh g .. | .mulhn g .. | .div g .. | .divn g .. | .rem g .. | .remn g ..
  | .andOp g .. | .orOp g .. | .xorOp g .. | .andn g .. | .sll g .. | .srl g .. | .sra g .. | .rol g .. | .minOp g ..
  | .maxOp g .. | .minn g .. | .maxn g .. | .absOp g .. | .clz g .. | .ctz g .. | .popc g .. | .sext g ..
  | .zext g .. | .bfx g .. | .bfi g .. | .sel g .. | .addi g .. | .andi g .. | .ori g .. | .xori g .. | .slli g ..
  | .srli g .. | .srai g .. | .muli g .. | .limm g .. | .limmPair g .. | .lihi g .. | .lihiPair g .. | .pcadd g ..
  | .cmpeq g .. | .cmpne g .. | .cmplt g .. | .cmple g .. | .cmpltn g .. | .cmplen g .. | .cmpeqi g .. | .cmplti g ..
  | .cmpltni g .. | .pand g .. | .por g .. | .pxor g .. | .pandn g .. | .tstbit g .. | .mfs g .. | .mts g ..
  | .shw g .. | .btmovToBt g .. | .btmovFromBt g .. | .btset g .. | .agw g .. | .xpw g .. | .chkerr g ..
  | .segset g .. | .cvtaOff g .. | .cvtaOwn g .. | .cvtaCl g .. | .isap g .. | .rdpw g .. | .rdtime g .. | .ecnt g ..
  | .rdwin g .. | .tlbinvPage g .. | .tlbinvAll g .. | .cinvWbinv g | .cinvInv g | .cinvWbpage g .. | .ctxsave g ..
  | .ctxload g .. | .pswap g .. | .quarantine g .. | .svc g .. | .hackset g .. | .dirtyclr g .. | .br g ..
  | .bri g .. | .call g .. | .calli g .. | .ret g .. | .loopOp g .. | .yield g | .suspend g | .fork g .. | .exitOp g
  | .trapOp g .. | .waitMem g .. | .waitEng g .. | .rftResume g | .rftYield g | .rftSuspend g | .rftFault g
  | .rftHold g | .idle g | .ldB g .. | .ldH g .. | .ldW g .. | .ldD g .. | .ldnB g .. | .ldnH g .. | .ldnW g ..
  | .ldtag g .. | .stB g .. | .stH g .. | .stW g .. | .stD g .. | .sttag g .. | .ldv g .. | .stv g .. | .ldvs g ..
  | .stvs g .. | .ldg g .. | .stg g .. | .ldx g .. | .aadd g .. | .aand g .. | .aor g .. | .axor g .. | .amin g ..
  | .amax g .. | .aminn g .. | .amaxn g .. | .axchg g .. | .acas g .. | .afadd g .. | .fenceOp g .. | .promote g ..
  | .prefetch g .. | .cflushWb g .. | .cflushInv g .. | .cflushMem g .. | .barinit g .. | .bararr g ..
  | .barwait g .. | .qpush g .. | .qpop g .. | .qtry g .. | .rsend g .. | .rrecv g .. | .ttdef g ..
  | .ttsetReady g .. | .ttsetEmpty g .. | .ttrel g .. | .ttstat g .. | .txbegin g .. | .txend g | .txabort g ..
  | .txstat g .. | .fadd g .. | .fsub g .. | .fmul g .. | .ffma g .. | .ffms g .. | .fmax g .. | .fmin g ..
  | .fabs g .. | .fneg g .. | .fcpys g .. | .frcp g .. | .frsq g .. | .fexp2 g .. | .flog2 g .. | .frint g ..
  | .fcmpeq g .. | .fcmplt g .. | .fcmple g .. | .fcmpun g .. | .hadd g .. | .hmul g .. | .hfma g .. | .hmax g ..
  | .iadd g .. | .isub g .. | .imul g .. | .imulh g .. | .imad g .. | .imax g .. | .imin g .. | .imaxn g ..
  | .iminn g .. | .iand g .. | .ior g .. | .ixor g .. | .ishl g .. | .ishr g .. | .isra g .. | .iabs g ..
  | .icmpeq g .. | .icmplt g .. | .icmpltn g .. | .cvt g .. | .qnt g .. | .dqnt g .. | .bscale g .. | .plpack g ..
  | .plunpk g .. | .vmov g .. | .vbcast g .. | .vshuf g .. | .vrot g .. | .vsel g .. | .vred g .. | .vscan g ..
  | .viota g .. | .vmask g .. | .vpopc g .. | .vext g .. | .mmr g .. | .mzero g .. | .mgate g .. | .mdrowsy g ..
  | .mwake g .. | .minval g .. | .mgemm g .. | .mgemms g .. | .mconv g .. | .mattn g .. | .scout g .. | .swin g ..
  | .smask g .. | .sscore g .. | .ccopy g .. | .cgather g .. | .cscatter g .. | .cfill g .. | .ctrans g ..
  | .cplane g .. | .cflat g .. | .cpagein g .. | .cmigrate g .. | .ctags g .. | .vsort g .. | .vsoftmax g ..
  | .vnorm g .. | .vreduce g .. | .allred g .. | .allgath g .. | .redscat g .. | .xbcast g .. | .alltoall g ..
  | .xsend g .. | .xrecv g .. | .logmark g .. | .logflush g .. | .qfence g .. | .etrel g .. | .ecancel g ..
  | .esignal g .. | .esignalAdd g .. => g
  | _ => 0

/-- Whether the guard is true: the taken leaf in a bundle with a tree, else a predicate (02 R52). -/
def State.guardTrue (s : State) (g : Fin 8) : Bool :=
  if g = 0 then true
  else if s.core.iss.tree then
    (let k := s.core.iss.taken.val
     if g.val ≤ 5 then k == g.val else if g = 6 then k == 1 || k == 2 else k == 3 || k == 4 || k == 5)
  else s.p (Fin.ofNat 16 g.val)

/-- The predicate a guard reads. -/
def State.guardReads (s : State) (g : Fin 8) : List Reg :=
  if g = 0 || s.core.iss.tree then [] else [.p (Fin.ofNat 16 g.val)]

/-! Trees (02 R49 R50). -/

/-- A test: the predicate exclusive-or the invert bit. -/
def State.test (s : State) (t : Fin 32) : Bool := s.p (Fin.ofNat 16 t.val) != decide (16 ≤ t.val)

/-- The tests that a shape uses (02 R50). -/
def testsUsed (shape : Fin 8) (t1 t2 t3 t4 : Fin 32) : List (Fin 32) :=
  match shape with
  | 0 => []
  | 1 => [t1]
  | 2 => [t1, t2]
  | 3 | 5 => [t1, t2, t3]
  | 4 | 6 | 7 => [t1, t2, t3, t4]

/-- The taken leaf, 1 to 5, of a tree. -/
def State.leafOf (s : State) (shape : Fin 8) (t1 t2 t3 t4 : Fin 32) : Nat :=
  let a := s.test t1
  let b := s.test t2
  let c := s.test t3
  let d := s.test t4
  match shape with
  | 0 => 1
  | 1 => if a then 1 else 2
  | 2 => if a then 1 else if b then 2 else 3
  | 3 => if a then 1 else if b then 2 else if c then 3 else 4
  | 4 => if a then 1 else if b then 2 else if c then 3 else if d then 4 else 5
  | 5 => if a then (if b then 1 else 2) else (if c then 3 else 4)
  | 6 => if a then (if b then 1 else 2) else (if c then 3 else (if d then 4 else 5))
  | 7 => if a then (if b then 1 else (if c then 2 else 3)) else (if d then 4 else 5)

/-! What an instruction reads and writes. -/

/-- The operands of a V-slot operation of opcodes 0x01 to 0x4A: destination, sources, and whether it reads d (02 R59). -/
def vslot : Instr → Option (VOp × List VOp × Bool)
  | .fadd _ d a b | .fsub _ d a b | .fmul _ d a b | .fmax _ d a b | .fmin _ d a b | .fcpys _ d a b | .fcmpeq _ d a b
  | .fcmplt _ d a b | .fcmple _ d a b | .fcmpun _ d a b | .imax _ d a b | .imin _ d a b | .imaxn _ d a b | .iminn _ d a b
  | .iand _ d a b | .ior _ d a b | .ixor _ d a b | .ishr _ d a b | .isra _ d a b | .icmpeq _ d a b | .icmplt _ d a b
  | .icmpltn _ d a b | .qnt _ d a b | .dqnt _ d a b | .vbcast _ d a b | .vshuf _ d a b | .vrot _ d a b | .vsel _ d a b
  | .viota _ d a b => some (d, [a, b], false)
  | .hadd _ d a b _ | .hmul _ d a b _ | .hmax _ d a b _ | .iadd _ d a b _ | .isub _ d a b _ | .imul _ d a b _
  | .imulh _ d a b _ | .ishl _ d a b _ | .bscale _ d a b _ | .vext _ d a b _ => some (d, [a, b], false)
  | .ffma _ d a b | .ffms _ d a b | .hfma _ d a b _ | .imad _ d a b _ => some (d, [a, b], true)
  | .fabs _ d a | .fneg _ d a | .frcp _ d a | .frsq _ d a | .fexp2 _ d a | .flog2 _ d a | .vmov _ d a | .vpopc _ d a =>
    some (d, [a], false)
  | .frint _ d a _ | .iabs _ d a _ | .cvt _ d a _ _ _ | .plpack _ d a _ | .plunpk _ d a _ | .vred _ d a _
  | .vscan _ d a _ _ => some (d, [a], false)
  | .vmask _ d a b _ => some (d, if d.within [.M] && a.within [.M] then [a, b] else [a], false)
  | _ => none

/-- BSCALE with S = 1 reads its destination (07 R232). -/
def readsDest : Instr → Bool
  | .bscale _ _ _ _ s => s == 1
  | _ => false

/-- The registers a vector source names. -/
def vopReads (nm : Fin 64 → Reg) : VOp → List Reg
  | .line l => [.m l.m]
  | .xreg r => [nm r]
  | .mask k => [.vm k]
  | _ => []

/-- The register a vector destination names. -/
def vopWrites (nm : Fin 64 → Reg) : VOp → List Reg
  | .line l => [.m l.m]
  | .xdest r => [nm r]
  | .mask k => [.vm k]
  | _ => []

/-- The x fields an A-, X- or L-slot instruction or an E-slot PREG reads. -/
def xReads : Instr → List (Fin 64)
  | .add _ _ a b | .sub _ _ a b | .mul _ _ a b | .mulh _ _ a b | .mulhn _ _ a b | .div _ _ a b | .divn _ _ a b
  | .rem _ _ a b | .remn _ _ a b | .andOp _ _ a b | .orOp _ _ a b | .xorOp _ _ a b | .andn _ _ a b | .sll _ _ a b
  | .srl _ _ a b | .sra _ _ a b | .rol _ _ a b | .minOp _ _ a b | .maxOp _ _ a b | .minn _ _ a b | .maxn _ _ a b
  | .cvtaCl _ _ a b => [a, b]
  | .absOp _ _ a | .clz _ _ a | .ctz _ _ a | .popc _ _ a | .sext _ _ a _ | .zext _ _ a _ | .cvtaOff _ _ a | .cvtaOwn _ _ a
  | .addi _ _ a _ | .andi _ _ a _ | .ori _ _ a _ | .xori _ _ a _ | .slli _ _ a _ | .srli _ _ a _ | .srai _ _ a _
  | .muli _ _ a _ | .lihi _ _ a _ | .lihiPair _ _ a _ => [a]
  | .bfx _ _ a b _ | .sel _ _ a b _ => [a, b]
  | .bfi _ d a b => [a, b, d]
  | .cmpeq _ _ a b | .cmpne _ _ a b | .cmplt _ _ a b | .cmple _ _ a b | .cmpltn _ _ a b | .cmplen _ _ a b => [a, b]
  | .cmpeqi _ _ a _ | .cmplti _ _ a _ | .cmpltni _ _ a _ | .tstbit _ _ a _ | .isap _ _ a _ => [a]
  | .mts _ a _ | .shw _ _ a _ | .btmovToBt _ _ a | .agw _ _ a _ | .xpw _ _ a _ | .rdpw _ _ a _ _ => [a]
  | .tlbinvPage _ a _ | .cinvWbpage _ a | .ctxsave _ a | .ctxload _ a | .quarantine _ a | .hackset _ a _ => [a]
  | .pswap _ a b | .dirtyclr _ a b | .waitMem _ a b => [a, b]
  | .bri _ a | .calli _ a | .fork _ a _ => [a]
  | .loopOp _ n _ _ => [n]
  | .ldB _ _ b _ | .ldH _ _ b _ | .ldW _ _ b _ | .ldD _ _ b _ | .ldnB _ _ b _ | .ldnH _ _ b _ | .ldnW _ _ b _
  | .ldtag _ _ b _ | .ldv _ _ b _ | .stv _ _ b _ | .ldg _ _ b _ | .stg _ _ b _ | .ldx _ _ b _ | .promote _ _ b _
  | .prefetch _ _ b _ | .cflushWb _ b _ | .cflushInv _ b _ | .cflushMem _ b _ | .bararr _ _ b _ | .qpush _ _ b
  | .qpop _ _ _ b | .qtry _ _ _ b | .rrecv _ _ _ b | .ttsetReady _ b _ | .ttsetEmpty _ b _ | .ttrel _ b _
  | .ttstat _ _ b _ => [b]
  | .ldvs _ _ b st | .stvs _ _ b st => [b, st]
  | .stB _ d b _ | .stH _ d b _ | .stW _ d b _ | .stD _ d b _ | .sttag _ d b _ | .aadd _ d b _ | .aand _ d b _
  | .aor _ d b _ | .axor _ d b _ | .amin _ d b _ | .amax _ d b _ | .aminn _ d b _ | .amaxn _ d b _ | .axchg _ d b _
  | .afadd _ d b _ | .barinit _ d b _ | .barwait _ d b _ | .ttdef _ d b _ | .rsend _ d _ b => [d, b]
  | .acas _ d b _ => [d, Fin.ofNat 64 (d.val + 1), b]
  | i => if engineCode i < 7 then [pregOf i] else []

/-- The x field an A- or L-slot instruction writes. -/
def xWrites : Instr → List (Fin 64)
  | .add _ d _ _ | .sub _ d _ _ | .mul _ d _ _ | .mulh _ d _ _ | .mulhn _ d _ _ | .div _ d _ _ | .divn _ d _ _
  | .rem _ d _ _ | .remn _ d _ _ | .andOp _ d _ _ | .orOp _ d _ _ | .xorOp _ d _ _ | .andn _ d _ _ | .sll _ d _ _
  | .srl _ d _ _ | .sra _ d _ _ | .rol _ d _ _ | .minOp _ d _ _ | .maxOp _ d _ _ | .minn _ d _ _ | .maxn _ d _ _
  | .cvtaCl _ d _ _ | .absOp _ d _ | .clz _ d _ | .ctz _ d _ | .popc _ d _ | .sext _ d _ _ | .zext _ d _ _
  | .cvtaOff _ d _ | .cvtaOwn _ d _ | .addi _ d _ _ | .andi _ d _ _ | .ori _ d _ _ | .xori _ d _ _ | .slli _ d _ _
  | .srli _ d _ _ | .srai _ d _ _ | .muli _ d _ _ | .lihi _ d _ _ | .lihiPair _ d _ _ | .limm _ d _ | .limmPair _ d _
  | .pcadd _ d _ | .bfx _ d _ _ _ | .sel _ d _ _ _ | .bfi _ d _ _ | .mfs _ d _ | .btmovFromBt _ d _ | .chkerr _ d _
  | .rdpw _ d _ _ _ | .rdtime _ d | .ecnt _ d _ | .rdwin _ d | .ldB _ d _ _ | .ldH _ d _ _ | .ldW _ d _ _ | .ldD _ d _ _
  | .ldnB _ d _ _ | .ldnH _ d _ _ | .ldnW _ d _ _ | .ldtag _ d _ _ | .aadd _ d _ _ | .aand _ d _ _ | .aor _ d _ _
  | .axor _ d _ _ | .amin _ d _ _ | .amax _ d _ _ | .aminn _ d _ _ | .amaxn _ d _ _ | .axchg _ d _ _ | .acas _ d _ _
  | .afadd _ d _ _ | .bararr _ d _ _ | .qpop _ d _ _ | .qtry _ d _ _ | .rrecv _ d _ _ | .ttstat _ d _ _ | .txstat _ d => [d]
  | _ => []

/-- The other registers an instruction reads: predicates, branch targets, loop counters, matrix registers and masks. -/
def otherReads (c : Core) (i : Instr) : List Reg :=
  let nm := c.xname
  match i with
  | .sel _ _ _ _ n => [.p n]
  | .pand _ _ a b | .por _ _ a b | .pxor _ _ a b | .pandn _ _ a b => [.p a, .p b]
  | .btmovFromBt _ _ k => [.bt k]
  | .ret _ k => [.bt k]
  | .txbegin _ k _ => [.bt k]
  | .mfs _ _ n => if 0x10 ≤ n.val ∧ n.val < 0x14 then [.lc (Fin.ofNat 4 (n.val - 0x10))] else []
  | .stv _ m _ _ | .stvs _ m _ _ => [.m m.m]
  | .stg _ m _ ix => [.m m.m, .m ix.m]
  | .ldg _ _ _ ix => [.m ix.m]
  | .mmr _ _ a b _ => vopReads nm a ++ vopReads nm b
  | i => match vslot i with
    | some (d, src, rd) =>
      src.flatMap (vopReads nm) ++ (if rd || readsDest i then vopWrites nm d else []) ++
        (if (bitAt c.r.sr.vctl 7 && !(match i with | .vmask .. => true | _ => false)) || (match i with | .vsel .. => true | _ => false) then [.vm (Fin.ofNat 8 (bits c.r.sr.vctl 4 3))] else [])
    | none => []

/-- The other registers an instruction writes. -/
def otherWrites (c : Core) (i : Instr) : List Reg :=
  match i with
  | .cmpeq _ d _ _ | .cmpne _ d _ _ | .cmplt _ d _ _ | .cmple _ d _ _ | .cmpltn _ d _ _ | .cmplen _ d _ _
  | .cmpeqi _ d _ _ | .cmplti _ d _ _ | .cmpltni _ d _ _ | .pand _ d _ _ | .por _ d _ _ | .pxor _ d _ _ | .pandn _ d _ _
  | .tstbit _ d _ _ | .isap _ d _ _ => [.p d]
  | .mts _ _ n => if 0x10 ≤ n.val ∧ n.val < 0x14 then [.lc (Fin.ofNat 4 (n.val - 0x10))] else [.state n.val]
  | .shw _ k _ n => [.shadow k n]
  | .btmovToBt _ k _ | .btset _ k _ => [.bt k]
  | .agw _ k _ n => [.state (0x40 + 16 * k.val + n.val)]
  | .xpw _ k _ n => [.state (0xC0 + 16 * k.val + n.val)]
  | .call _ _ | .calli _ _ => [.bt 0]
  | .loopOp _ _ k _ => [.lc k]
  | .acas _ _ _ _ => []
  | .ldv _ m _ _ | .ldvs _ m _ _ | .ldg _ m _ _ | .ldx _ m _ _ => [.m m.m]
  | .mmr _ m _ _ _ | .mzero _ m | .mgate _ m | .mdrowsy _ m | .mwake _ m | .minval _ m => [.m m]
  | i => match vslot i with
    | some (d, _, _) => vopWrites c.xname d
    | none => []

/-- The registers an executing instruction reads (02 R46 R63), but for its guard. -/
def Core.reads (c : Core) (i : Instr) : List Reg := (xReads i).map c.xname ++ otherReads c i

/-- The registers whose reads count for a group: MMR reads its matrix register too, whose valid bit it does not need (02 R46, 07
R237). -/
def Core.groupReads (c : Core) (i : Instr) : List Reg :=
  c.reads i ++ (match i with | .mmr _ m _ _ _ => [.m m] | _ => [])

/-- The registers an executing instruction writes (02 R46 R47). -/
def Core.writes (c : Core) (i : Instr) : List Reg := (xWrites i).map c.xname ++ otherWrites c i

/-- The result of the instruction is always interlocked (02 R72). -/
def interlocked : Instr → Bool
  | .div .. | .divn .. | .rem .. | .remn .. | .aadd .. | .aand .. | .aor .. | .axor .. | .amin .. | .amax .. | .aminn ..
  | .amaxn .. | .axchg .. | .acas .. | .afadd .. | .bararr .. | .qpop .. | .qtry .. | .rrecv .. | .ttstat .. | .txstat .. => true
  | _ => false

/-- The lowest mode that may execute an instruction (02 R67, 05 R177 R178). -/
def minMode : Instr → Nat
  | .tlbinvPage .. | .tlbinvAll .. | .cinvWbinv .. | .cinvInv .. | .cinvWbpage .. | .ctxsave .. | .ctxload .. | .hackset ..
  | .dirtyclr .. | .rftResume .. | .rftYield .. | .rftSuspend .. | .rftFault .. | .rftHold .. => 1
  | .pswap .. | .quarantine .. | .idle .. => 2
  | .mts _ _ n => if 0x380 ≤ n.val then 2 else if 0x300 ≤ n.val then 1 else 0
  | .mfs _ _ n => if 0x380 ≤ n.val then 2 else 0
  | _ => 0

/-- Atomics. -/
def isAtomic : Instr → Bool
  | .aadd .. | .aand .. | .aor .. | .axor .. | .amin .. | .amax .. | .aminn .. | .amaxn .. | .axchg .. | .acas .. | .afadd .. => true
  | _ => false

/-- The forms that depend on the mode or the state registers: an interlocked result may not name a y register, nor may any field of an
atomic, and a state number must be listed (02 R64, 05 R148 R171, 06 R197). -/
def modeFormOk (i : Instr) (s : State) : Bool :=
  match i with
  | .mfs _ _ n => (s.readState n.val).isSome
  | .mts _ _ n => (s.readState n.val).isSome
  | i => !(isAtomic i && (xReads i).any fun r => match s.core.xname r with | .y _ => true | _ => false) &&
    !(interlocked i && (xWrites i).any fun r => match s.core.xname r with | .y _ => true | _ => false)

/-- The instruction aborts a transaction as UNSUPPORTED (12 R384). -/
def txUnsupported (i : Instr) : Bool :=
  match i with
  | .fenceOp .. | .promote .. | .cflushWb .. | .cflushInv .. | .cflushMem .. | .barinit .. | .bararr .. | .barwait ..
  | .qpush .. | .qpop .. | .qtry .. | .rsend .. | .rrecv .. | .ttdef .. | .ttsetReady .. | .ttsetEmpty .. | .ttrel ..
  | .ttstat .. | .mmr .. | .mzero .. | .mgate .. | .mdrowsy .. | .mwake .. | .minval .. | .yield .. | .suspend .. | .fork ..
  | .exitOp .. | .trapOp .. | .waitMem .. | .waitEng .. | .rftResume .. | .rftYield .. | .rftSuspend .. | .rftFault ..
  | .rftHold .. | .idle .. | .tlbinvPage .. | .tlbinvAll .. | .cinvWbinv .. | .cinvInv .. | .cinvWbpage .. | .ctxsave ..
  | .ctxload .. | .pswap .. | .quarantine .. | .svc .. | .hackset .. | .dirtyclr .. => true
  | .ldv .. | .ldvs .. | .ldg .. | .ldx .. => false
  | i => if engineCode i < 7 then true else
    match vslot i with
    | some (d, src, _) => d.within [.L, .P] || src.any fun o => o.within [.P]
    | none => false

/-- A serialising bundle's instruction (05 R156, 04 R135, 06 R204, 12 R382). -/
def serialising (i : Instr) (inTx : Bool) : Bool :=
  match i with
  | .yield .. | .suspend .. | .fork .. | .exitOp .. | .trapOp .. | .waitMem .. | .waitEng .. | .rftResume .. | .rftYield ..
  | .rftSuspend .. | .rftFault .. | .rftHold .. | .idle .. | .tlbinvPage .. | .tlbinvAll .. | .cinvWbinv .. | .cinvInv ..
  | .cinvWbpage .. | .ctxsave .. | .ctxload .. | .pswap .. | .quarantine .. | .svc .. | .hackset .. | .dirtyclr ..
  | .promote .. | .barinit .. | .bararr .. | .txbegin .. | .txend .. => true
  | .fenceOp _ sc => sc.val ≠ 0
  | .aadd .. | .aand .. | .aor .. | .axor .. | .amin .. | .amax .. | .aminn .. | .amaxn .. | .axchg .. | .acas ..
  | .afadd .. => !inTx
  | _ => false

/-! How a slot ends. -/

/-- A precise trap of the slot, with its place in 02 R76's order. -/
def trapOut (rank : Nat) (cause : BitVec 8) (addr arg : Word) (s : State) : Ends :=
  let t := takeTrap cause s.core.iss.slot.val addr arg s
  .next { t with core := { t.core with iss := { t.core.iss with trapped := true, rank := rank } } }

/-- The slot has to wait; nothing of it is done. -/
def stallOut (s : State) : Ends := .next { s with core := { s.core with iss := { s.core.iss with stalled := true } } }

/-- Goes on with the value of an access, or ends the slot as the access does (04 R118 R119). Inside a transaction a
resolvable fault is posted and aborts it (12 R384). -/
def Act.out {α : Type} (kind : AKind) (a : Act α) (f : α → State → Ends) : Ends :=
  match a with
  | .ok v s => f v s
  | .trap c v s => trapOut 12 c v 0 s
  | .fault c v s =>
    let s := strandFault c v kind s
    if s.core.tx.isSome then trapOut 12 c v 0 { s with core := { s.core with fault := none } } else stallOut s
  | .wait s => stallOut s

/-- A register that the slot names waits for an interlocked result of an earlier bundle (02 R73). -/
def Core.pendingOn (c : Core) (rs : List Reg) : Bool :=
  c.land.any fun r => r.due.isNone && decide (r.seq < c.iss.first) && r.write.dest.any fun d => rs.contains d

/-- DROWSY matrix registers that a slot's reads and writes wake (07 R222). -/
def wakes (c : Core) (i : Instr) : List (Fin 16) :=
  match i with
  | .mgate .. | .mdrowsy .. | .mwake .. | .minval .. => []
  | i => (c.reads i ++ c.writes i).filterMap fun r => match r with
    | .m k => if (c.r.m.get k).power = .drowsy then some k else none
    | _ => none

/-- Starts the wake of DROWSY registers: 4 clocks (07 R222 R223). -/
def startWake (ms : List (Fin 16)) (s : State) : State :=
  ms.foldl (fun s m => if s.core.wake.any fun w => w.1 == m then s
    else { s with core := { s.core with wake := s.core.wake ++ [(m, s.clock + 4)],
                                        win := { s.core.win with wakes := m :: s.core.win.wakes } } }) s

/-! Address-generator ports (07 R224 R225). -/

def Regs.agw (r : Regs) (k w : Nat) : Word := vget r.ag (16 * k + w)
def portType (r : Regs) (k : Nat) : Nat := bits (r.agw k 1) 0 3
def portLoops (r : Regs) (k : Nat) : Nat := bits (r.agw k 1) 4 2 + 1
def portCount (r : Regs) (k l : Nat) : Nat := bits (r.agw k (2 + l)) 0 32
def portStride (r : Regs) (k l : Nat) : Int := sint 32 (bits (r.agw k (2 + l)) 32 32)
def portSize (r : Regs) (k : Nat) : Nat := match portType r k with | 0 => 4 | 1 => 2 | 2 => 2 | 3 => 1 | 4 => 1 | _ => 2

/-- The port can be used as a source or destination (07 R225). -/
def portUsable (r : Regs) (k : Nat) (dest : Bool) : Bool :=
  let w := r.agw k 1
  bitAt w 7 && portType r k != 7 && bitAt w 6 == dest && bits w 8 56 == 0 && !bitAt w 3 &&
  ((List.range 8).all fun i => r.agw k (8 + i) == 0) && (List.range (portLoops r k)).all fun l => portCount r k l != 0

/-- The indices I0 to I3. -/
def portIndices (r : Regs) (k : Nat) : List Nat :=
  [bits (r.agw k 6) 0 32, bits (r.agw k 6) 32 32, bits (r.agw k 7) 0 32, bits (r.agw k 7) 32 32]

/-- The address of the position at indices. -/
def portAddr (r : Regs) (k : Nat) (ix : List Nat) : Word :=
  BitVec.ofInt 64 ((List.range (portLoops r k)).foldl (fun a l => a + (ix.getD l 0 : Int) * portStride r k l) ((r.agw k 0).toNat : Int))

/-- The indices one position on: the carry of 07 R225. -/
def portStep (r : Regs) (k : Nat) (ix : List Nat) : List Nat :=
  let n := portLoops r k
  let ix := ix.set 0 (ix.getD 0 0 + 1)
  let ix := (List.range (n - 1)).foldl (fun ix l =>
    if ix.getD l 0 = portCount r k l then (ix.set l 0).set (l + 1) (ix.getD (l + 1) 0 + 1) else ix) ix
  if ix.getD (n - 1) 0 = portCount r k (n - 1) then ix.set (n - 1) 0 else ix

/-- The 32 addresses from the current indices and the indices after them. -/
def portWalk (r : Regs) (k : Nat) : List Word × List Nat :=
  (List.range 32).foldl (fun (a : List Word × List Nat) _ => (a.1 ++ [portAddr r k a.2], portStep r k a.2)) ([], portIndices r k)

/-- Advances the port over 32 positions and gives their places: ALIGN and APERTURE_ACCESS by the lowest failing lane (07
R226). -/
def portTake (k : Nat) (s : State) : Act (List (Word × Nat)) :=
  let r := s.core.r
  let w := portWalk r k
  let bad := fun (a : Word) =>
    if a.toNat % portSize r k ≠ 0 then some Cause.align
    else match region a with
      | .own off => if s.core.spadSize ≤ off then some Cause.apertureAccess else none
      | _ => some Cause.apertureAccess
  match w.1.findSome? fun a => (bad a).map fun c => (c, a) with
  | some (c, a) => .trap c a s
  | none =>
    let i := w.2
    let s := s.modR fun g => { g with ag := vset (vset g.ag (16 * k + 6) (word2 (i.getD 1 0) (i.getD 0 0))) (16 * k + 7) (word2 (i.getD 3 0) (i.getD 2 0)) }
    .ok (w.1.map fun a => (a, scratchKey s.core.id (a.toNat % 2 ^ 21))) s

/-- What a popped element gives its lane, with its event (07 R224). -/
def popValue (ty v : Nat) : W32 × Flags :=
  match ty with
  | 0 => (BitVec.ofNat 32 v, noFlags)
  | 1 => (sext32 16 v, noFlags)
  | 3 => (sext32 8 v, noFlags)
  | 5 => let r := f32.convV 0 (f16.decode v); (BitVec.ofNat 32 r.1, r.2)
  | 6 => let r := f32.convV 0 (bf16.decode v); (BitVec.ofNat 32 r.1, r.2)
  | _ => (BitVec.ofNat 32 v, noFlags)

/-- What a push stores for a lane, with its event (07 R224). VCTL.FTZ does not flush an f16 or bf16 result: R224 names the conversion and
VCTL.RM only (log 108). -/
def pushValue (ty rm : Nat) (v : W32) : Nat × Flags :=
  let satur := fun (n : Nat) (lo hi : Int) =>
    let x := clampInt v.toInt lo hi
    (wrap n x, { noFlags with sat := decide (x ≠ v.toInt) })
  match ty with
  | 1 => satur 16 (-32768) 32767
  | 2 => satur 16 0 65535
  | 3 => satur 8 (-128) 127
  | 4 => satur 8 0 255
  | 5 => f16.convV rm (f32.decode v.toNat)
  | 6 => bf16.convV rm (f32.decode v.toNat)
  | _ => (v.toNat, noFlags)

/-! Vector operands. -/

/-- How a broadcast is read (07 R219). -/
inductive VType where
  | int | f32 | half (bf : Bool)
  deriving DecidableEq, Repr

/-- An immediate broadcast as its operation reads it (07 R219). -/
def immLane (ty : VType) (v : Fin 256) : W32 :=
  let i := sint 8 v.val
  match ty with
  | .int => sext32 8 v.val
  | .f32 => BitVec.ofNat 32 (f32.convV 0 (ofIntV i)).1
  | .half bf =>
    let h := if bf then (bf16.convV 0 (ofIntV i)).1 else (f16.convV 0 (ofIntV i)).1
    BitVec.ofNat 32 (h + h * 2 ^ 16)

/-- The lanes that are active (07 R221). -/
def State.active (s : State) : W32 :=
  let v := s.core.r.sr.vctl
  if bitAt v 7 then s.core.r.vm.get (Fin.ofNat 8 (bits v 4 3)) else 0xFFFFFFFF

/-- The 32 lanes of a source; a port pops its next vector (07 R219 R224 R226). -/
def vsource (ty : VType) (o : VOp) (s : State) : Act (List W32 × List LogEvent) :=
  match o with
  | .line l => .ok (s.lineElems l, []) s
  | .port k =>
    (portTake k.val s).bind fun as s =>
      let t := portType s.core.r k.val
      let n := portSize s.core.r k.val
      let vs := as.map fun a => popValue t (ofBytes (s.viewBytes a.2 n))
      .ok (vs.map Prod.fst, (vs.zipIdx.flatMap fun v => laneEvent s v.2 v.1.2)) s
  | .xreg r => .ok (List.replicate 32 ((s.x r).setWidth 32), []) s
  | .imm v => .ok (List.replicate 32 (immLane ty v), []) s
  | .mask k => .ok ((List.range 32).map (fun j => if (s.core.r.vm.get k).getLsbD j then 1 else 0), []) s
  | .xdest _ => .ok (List.replicate 32 0, []) s

/-- Delivers a vector result: to a line's active lanes, a port's active positions, or as a mask (07 R221 R226). Events of
inactive lanes are not recorded. -/
def vresult (lat : Nat) (d : VOp) (act : W32) (vs : List (W32 × Flags)) (es : List LogEvent) (s : State) : Ends :=
  let on := fun (j : Nat) => act.getLsbD j
  let own := vs.zipIdx.flatMap fun v => if on v.2 then laneEvent s v.2 v.1.2 else []
  let es := es.filter fun e => on e.lane.val
  match d with
  | .line l =>
    let cs := (vs.zipIdx.filter fun v => on v.2).map fun v => (lineKey l v.2, v.1.1)
    .next (s.result (some lat) (.cells l.m cs) (firstConditions (es ++ own)))
  | .port k =>
    (portTake k.val s).out .write fun as s =>
      let t := portType s.core.r k.val
      let n := portSize s.core.r k.val
      let rm := bits s.core.r.sr.vctl 0 2
      let st := (as.zip vs).map fun x => (x.1, pushValue t rm x.2.1)
      let items := (st.zipIdx.filter fun x => on x.2).flatMap fun x =>
        (toBytes n x.1.2.1).zipIdx.map fun b => (x.1.1.1 + BitVec.ofNat 64 b.2, x.1.1.2 + b.2, b.1)
      let ev := st.zipIdx.flatMap fun x => if on x.2 then laneEvent s x.2 x.1.2.2 else []
      .next (s.result (some lat) (.push items 0) (firstConditions (es ++ own ++ ev)))
  | .mask k =>
    let v := (vs.zipIdx.map fun x => if x.1.1 = 0 then 0 else 2 ^ x.2).sum
    .next (s.result (some lat) (.vm k (BitVec.ofNat 32 v) act) (firstConditions (es ++ own)))
  | _ => .next s

/-- Delivers a scalar result of the V slot to a D destination, which may be a y name (07 R219), with the first condition of each lane
(03 R108). -/
def dresult (lat : Nat) (d : VOp) (v : Word) (es : List LogEvent) (s : State) : Ends :=
  match d with
  | .xdest r => .next (s.result (some lat) (match s.core.xname r with | .y k => .y k v | _ => .x r v) (firstConditions es))
  | _ => .next s

/-- Delivers a scalar result to an x field: an x register or a y name (02 R62). -/
def xresult (lat : Option Nat) (d : Fin 64) (v : Word) (s : State) : Ends :=
  .next (s.result lat (match s.core.xname d with | .y k => .y k v | _ => .x d v) [])

/-! What a slot checks before it acts. -/

/-- A port operand that cannot be used (07 R225). -/
def badPort (s : State) (i : Instr) : Bool :=
  match vslot i with
  | some (d, src, rd) =>
    (src.any fun o => match o with | .port k => !portUsable s.core.r k.val false | _ => false) ||
    (match d with | .port k => !portUsable s.core.r k.val true || rd | _ => false)
  | none => match i with
    | .mmr _ _ a b _ => [a, b].any fun o => match o with | .port k => !portUsable s.core.r k.val false | _ => false
    | _ => false

/-- BYPASS_STALE for each y name the slot reads outside its beats (02 R64), counted as 03 R108 says. -/
def staleReads (s : State) (i : Instr) : State :=
  (s.core.reads i).foldl (fun s r => match r with
    | .y k => if s.core.yLive k then s else s.event Ev.bypassStale
    | _ => s) s

/-- A read register that raises a fault: OPCODE_UNDEF for an index line in an invalid register (06 R194), BT_INVALID for a
branch target (02 R51), REG_INVALID else (02 R63). -/
def badRead (s : State) (i : Instr) : Option (BitVec 8) :=
  if (match i with | .ldg _ _ _ ix | .stg _ _ _ ix => !(s.core.r.m.get ix.m).valid | _ => false) then some Cause.opcodeUndef else
  ((s.core.reads i).find? fun r => !s.core.valid r).map fun r => match r with
    | .bt _ => Cause.btInvalid
    | _ => Cause.regInvalid

/-- What every slot instruction does around its own effect: the encoding checks, whatever its guard; then, when the guard
is true, its mode, its registers and ports, interlocks and DROWSY registers; then `body` (02 R42 R52 R63 R73 R76). An
instruction that waits for its bundle's close goes on directly. -/
def slotOp (i : Instr) (s : State) (body : State → Ends) : Ends :=
  if s.core.closing && s.core.post == some i then body s
  else if !i.reservedOk then trapOut 4 Cause.bundleReserved 0 0 s
  else if !i.formOk || !modeFormOk i s then trapOut 4 Cause.opcodeUndef 0 0 s
  else if (s.guardReads (guardOf i)).any fun r => !s.core.valid r then trapOut 10 Cause.regInvalid 0 0 s
  else if !s.guardTrue (guardOf i) then .next s
  else if s.core.tx.isSome && txUnsupported i then .next (s.txDue 4 0 0)
  else if s.core.mode.code < minMode i then trapOut 6 Cause.priv 0 0 s
  else if s.core.pendingOn (s.core.reads i ++ s.core.writes i) then stallOut s
  else match badRead s i with
    | some c => trapOut 10 c 0 0 s
    | none =>
      if badPort s i then trapOut 10 Cause.regInvalid 0 0 s
      else if !(wakes s.core i).isEmpty then stallOut (startWake (wakes s.core i) s)
      else body (staleReads s i)

end

end Sys2Proof.Machine
end

