-- ==== Sys2Proof/Machine/Bundle.lean ====
section
/-! DEFINITION. The end of a bundle: results that meet on one register (02 R47), the segment check (05 R160 R161), the
beat, the next address with delay bundles and loops (05 R178 to R182), and the quiescent point that a bundle makes (02 R74
R75, 05 R156 R157). -/

namespace Sys2Proof.Machine

noncomputable section

/-! Loops (05 R148 LACT, R180 R182). -/

/-- The active loop counters, innermost first. -/
def activeLoops (lact : Word) : List Nat :=
  if bits lact 0 4 = 0 then [] else (List.range (bits lact 4 2 + 1)).map fun i => bits lact (8 + 2 * i) 2

/-- LACT for the active counters, innermost first. -/
def lactOf (ks : List Nat) : Word :=
  if ks.isEmpty then 0 else
  BitVec.ofNat 64 ((ks.map fun k => 2 ^ k).sum + (ks.length - 1) * 16 + ((ks.zipIdx.map fun x => x.1 * 2 ^ (8 + 2 * x.2)).sum))

/-- The active loops with LSTART and LEND as the next bundle will see them: a LOOP in flight counts (05 R181). -/
def loopBounds (r : StrandRegs) (k : Nat) : Word × Word := (vget r.lstart k, vget r.lend k)

/-- A taken transfer to `t` deactivates every active loop whose range does not hold it, with the loops nested inside (05
R180). -/
def leaveLoops (t : Word) (s : State) : State :=
  s.modSr fun r =>
    let ks := activeLoops r.lact
    let out := fun k => decide (t < (loopBounds r k).1) || decide ((loopBounds r k).2 < t)
    match (ks.zipIdx.filter fun x => out x.1).getLast? with
    | none => r
    | some x => { r with lact := lactOf (ks.drop (x.2 + 1)) }

/-- The steps at the completion of a loop-end bundle, innermost loop first: the back edge's target, if there is one (05
R182). -/
def stepLoops (pc : Word) : List Nat → State → Option Word × State
  | [], s => (none, s)
  | k :: rest, s =>
    if (loopBounds s.core.r.sr k).2 ≠ pc then stepLoops pc rest s else
    let n := s.core.r.lc.toList.getD k 0 - 1
    let s := (s.modR fun r => { r with lc := vset r.lc k n }).modWin fun w => { w with wlc := setBit w.wlc k true }
    if n ≠ 0 then (some (loopBounds s.core.r.sr k).1, s)
    else stepLoops pc rest (s.modSr fun r => { r with lact := lactOf ((activeLoops r.lact).filter fun j => j != k) })

/-- The bundle is the end of an active loop. -/
def atLoopEnd (s : State) (pc : Word) : Bool := (activeLoops s.core.r.sr.lact).any fun k => (loopBounds s.core.r.sr k).2 == pc

/-! Results of one bundle that meet (02 R47). -/

/-- The two results name one register; a matrix register counts as a whole. -/
def Write.sameReg (a b : Write) : Bool := a.dest.any fun d => b.dest.contains d

/-- Where executing slots of the bundle name one destination, the highest-numbered slot's result is delivered, and
WAW_COLLIDE is counted with it, once for the slot. -/
def collide (s : State) : State :=
  let mine := fun (r : Result) => decide (s.core.iss.first ≤ r.seq)
  let own := s.core.land.filter mine
  let loses := fun (r : Result) => own.any fun q => decide (r.slot < q.slot) && r.write.sameReg q.write
  let wins := fun (r : Result) => mine r && !loses r && own.any fun q => decide (q.slot < r.slot) && r.write.sameReg q.write
  let first := fun (r : Result) => wins r && !(own.any fun q => wins q && q.slot == r.slot && decide (q.seq < r.seq))
  let land := (s.core.land.filter fun r => !(mine r && loses r)).map fun r =>
    if first r then { r with events := r.events ++ [⟨Ev.wawCollide, r.slot, 0, r.pc⟩] } else r
  { s with core := { s.core with land := land } }

/-! The segment check. -/

/-- ARMED of SEGEXP. -/
def segArmed (r : StrandRegs) : Bool := bitAt r.segexp 31

/-- Counts the bundle and feeds its bytes to the running CRC: every bundle after the strand's first SEGSET, whether or not the
check is still armed; SEGEXP holds a count of 1 or more from then on (05 R160). -/
def segCount (s : State) : State :=
  s.modSr fun r =>
    if bits r.segexp 0 10 = 0 then r else
    let n := min 1023 (bits r.segrun 0 10 + 1)
    { r with segrun := BitVec.ofNat 64 (n + crcMore (bits r.segrun 32 32) s.core.iss.bytes * 2 ^ 32) }

/-- The check of a G-marked bundle: the cause of a mismatch (05 R161). -/
def segCheck (s : State) : Option (BitVec 8) :=
  let r := s.core.r.sr
  if !s.core.iss.g || !segArmed r then none
  else if bits r.segrun 0 10 ≠ bits r.segexp 0 10 then some Cause.countMismatch
  else if bits r.segrun 32 32 ≠ bits r.segexp 32 32 then some Cause.sigMismatch
  else none

/-- A mismatch (05 R161, 14 R441): the core leaves service and the strand is written back FAULTED, its context not saved. -/
def segFault (cause : BitVec 8) (s : State) : State :=
  let pc := s.core.iss.pc
  let d := dieOf s.core.id
  let b := siteBit s.core.id
  let s := s.modDie d fun e => { e with qmask := setBit e.qmask b false }
  faultStrand cause pc false false true (rollback s)

/-! Landing before a target (05 R159). -/

/-- The result goes to a landing register, x48 to x55. -/
def Write.landing : Write → Bool
  | .x r _ => decide (48 ≤ r.val) && decide (r.val ≤ 55)
  | _ => false

/-- Delivers every exposed result in flight that does not go to a landing register. -/
def settle (s : State) : State :=
  let keep := s.core.land.filter fun r => r.due.isNone || r.write.landing
  let late := s.core.land.filter fun r => !(r.due.isNone || r.write.landing)
  let s := { s with core := { s.core with land := late } }
  let s := landUpTo ((late.map fun r => r.due.getD 0).foldl max 0) s
  { s with core := { s.core with land := keep ++ s.core.land } }

/-! The bundle's end. -/

/-- One issued beat: BEAT, WDCNT, the window's bundles and beats, an open capture, and a clock of the matrix engine (02 R44, 05 R158, 09
R299, 12 R377, 13 R401). -/
def countBeat (s : State) : State :=
  let c := s.core
  let n := c.wdcnt + 1
  let s := { s with core := { c with beat := c.beat + 1, wdcnt := n,
                                     win := { c.win with bundles := c.win.bundles + 1, beats := c.win.beats + 1 } },
                    clock := s.clock + 1 }
  let s := idleMatrix (s.capturing fun k => { k with beats := k.beats + 1 })
  if n = c.sup.wdlimit then s.pendEvent Cause.watchdog 0 else s

/-- The address that a bundle hands over to: its own or a delayed transfer's target, a back edge's, or the next bundle's;
and whether it is a transfer, and a backward one (05 R157 R178 R179 R182). -/
def nextPc (s : State) : Word × Bool × Bool × State :=
  let pc := s.core.iss.pc
  let s' := { s with core := { s.core with delay := match s.core.iss.call, s.core.delay with
    | some t, _ => some (3, t)
    | none, some (n, t) => some (n - 1, t)
    | none, none => none } }
  match s.core.iss.target, s.core.delay with
  | some t, _ => (t, true, decide (t ≤ pc), leaveLoops t (if s.core.iss.settle then settle s' else s'))
  | none, some (1, t) =>
    let s' := { s' with core := { s'.core with delay := none } }
    (t, true, decide (t ≤ pc - 96), leaveLoops t (settle s'))
  | none, _ =>
    if s.core.iss.call.isSome then (pc + 32, false, false, s') else
    match stepLoops pc (activeLoops s.core.r.sr.lact) s' with
    | (some t, s') => (t, true, true, s')
    | (none, s') => (pc + 32, false, false, s')

/-- Ends the group when the bundle ends it: a transfer does, the transferring bundle of a CALL included, and so does a
transfer to the very next bundle (02 R45; log 102). -/
def endGroup (moved : Bool) (s : State) : State :=
  let c := s.core
  if c.iss.s || c.iss.q || moved || c.iss.call.isSome || decide (3 ≤ c.group) then { s with core := { c with group := 0, written := [] } }
  else { s with core := { c with group := c.group + 1 } }

/-- The bundle completes: every slot has acted. The second component: a backward transfer was taken. -/
def bundleEnd (s : State) : State × Bool :=
  let s := segCount (collide (countEvents s))
  match segCheck s with
  | some cause => (segFault cause s, false)
  | none =>
    let s := if s.core.iss.g && segArmed s.core.r.sr then s.modSr fun r => { r with segexp := setBits r.segexp 31 1 0 } else s
    let s := countBeat s
    let (t, moved, back, s) := nextPc s
    let s := endGroup moved s
    let s := if moved && bitAt s.core.log.trctl 0 then traceRecord 1 s.core.iss.pc t s else s
    ((s.modR fun r => { r with pc := t }), back)

/-! Quiescent points. -/

/-- A result is late for the quiescent point after the bundle: issued before it and still in flight, or not of latency 1
(02 R74). -/
def lateResults (s : State) : Bool :=
  s.core.land.any fun r => r.due.isNone || !(decide (s.core.iss.first ≤ r.seq) && r.due == some s.core.beat)

/-- Whether the strand is to stop at a boundary: a unit asked for it, its die is over its trip temperature, or HACK in strand
mode (05 R157, 14 R422 R440). -/
def stopHere (s : State) : State :=
  if s.core.iss.gone then s else
  match s.core.stopDue with
  | some (st, cause) => stopNow st cause s
  | none =>
    if (s.die (dieOf s.core.id)).hot && !isFirmware s.core.id then { s with core := { s.core with run := .stopped, iss := { s.core.iss with gone := true } } }
    else if s.core.hack && s.core.mode == .strand then hackStop s else s

/-- A quiescent point at the present pc: the buffer drains, the window closes, and a requested stop is made. -/
def quiesce (s : State) : State :=
  match closeWindow (drain s) with
  | .done s => stopHere s
  | .wait s => s
  | .trap c a s => takeTrap c 7 a 0 s
  | .redo s => s

/-- The quiescent point after a bundle that performed an access at its issue. Where its window cannot close, the bundle stalls:
`base` is the machine before it, and nothing of it is performed (04 R135, 12 R365). -/
def quiesceActed (base s : State) : State :=
  match closeOver base (drain s) with
  | .done s => stopHere s
  | .wait s => { s with clock := s.clock + 1, core := { s.core with closing := false, iss := { noIssue with stalled := true } } }
  | .trap c a s => takeTrap c 7 a 0 s
  | .redo s => s

/-- Whether the strand stands at a closed boundary. -/
def atBoundary (s : State) : Bool :=
  s.core.win.bundles == 0 && s.core.win.held.isEmpty && s.core.land.isEmpty && !s.core.closing

/-- The effect of an instruction that takes place after its bundle has become quiescent (05 R156 R183, 14 R424): the
bundle ends, the window closes, and once `ready` holds the effect follows. Until then the instruction stays pending, and an event
that comes before it finds the strand at the instruction's bundle (log 110). -/
def postOp (i : Instr) (ready : State → Bool) (effect : State → State) (s : State) : Ends :=
  let s := if s.core.closing then s else (bundleEnd s).1
  if s.core.iss.gone then .next s else
  match closeWindow (drain s) with
  | .wait s => .next { s with core := { s.core with closing := true, post := some i } }
  | .trap c a s => trapOut 12 c a 0 s
  | .redo s => .next s
  | .done s =>
    if ready s then .next (effect { s with core := { s.core with post := none } })
    else
      let r := { s.core.r with pc := s.core.iss.pc }
      .next { s with core := { s.core with r := r, bnd := r, closing := true, post := some i } }

/-- As `postOp`, for an instruction that first stops the engines at their pre-emption points: it stalls until they stand
there (05 R183). -/
def stopOp (i : Instr) (effect : State → State) (s : State) : Ends :=
  if !s.core.closing && !enginesAtStop s then stallOut (requestStops s) else postOp i (fun _ => true) effect s

/-- The machine that keeps x[a] as an instruction that acts after its bundle reads it: at its issue, before the bundle's own
results land (02 R44). -/
def State.keepArg (s : State) (a : Fin 64) : State :=
  if s.core.closing then s else { s with core := { s.core with postArg := s.x a } }

/-- The instruction acts after its bundle. -/
def isPost : Instr → Bool
  | .yield .. | .suspend .. | .fork .. | .exitOp .. | .trapOp .. | .svc .. | .rftResume .. | .rftYield .. | .rftSuspend .. | .rftFault ..
  | .rftHold .. | .idle .. | .ctxsave .. | .ctxload .. => true
  | _ => false

end

end Sys2Proof.Machine
end

