-- ==== Sys2Proof/Machine/Inputs.lean ====
section
/-! DEFINITION. Input records (12 R362): what FULL logging records of a strand's inputs, and what a replay supplies (12
R374). -/

namespace Sys2Proof.Machine

noncomputable section

/-- What an instruction that takes an input meets: the live input, the recorded one, or a mismatch in replay. -/
inductive Input where
  | live
  | given (data : List Byte)
  | diverged (addr recorded : Word)

/-- The number of held entries of a kind in the open window. -/
def State.heldEntries (s : State) (kind : BitVec 8) : Nat :=
  (s.core.win.held.filter fun h => match h with | .entry k _ _ _ _ => k == kind | _ => false).length

/-- The next recorded entry of the strand of a kind in the open window of a replay: an engine's entries stand apart (12 R374). -/
def State.recorded (s : State) (kind : BitVec 8) : Option LogEnt :=
  (((windowEntries s).filter fun x => x.2.1.kind == kind && x.2.1.src % 8 != 6)[s.heldEntries kind]?).map fun x => x.2.1

/-- What an input of kind `sub` meets: SUB and PC of the record must match (12 R374). -/
def State.input (s : State) (sub : Nat) : Input :=
  if s.core.replay.isNone || !s.logOn 2 then .live else
  match s.recorded Ent.inrec with
  | none => .diverged 0 0
  | some e => if field e.body 0 8 = sub ∧ e.pc = s.core.iss.pc then .given (e.body.drop 8)
    else .diverged (fw e.body 8) (fw e.body 0)

/-- Records an input in FULL (12 R362): it stands in the window's log entries. -/
def State.recordInput (s : State) (sub : Nat) (data : List Byte) : State :=
  if s.logOn 2 then s.modWin fun w => { w with
    held := w.held ++ [.entry Ent.inrec false s.core.iss.pc s.core.iss.slot.val (n8 sub ++ data)] } else s

/-- A divergence of a replay at the present bundle (12 R371 R374). -/
def State.diverge (s : State) (addr recorded replayed : Word) : State :=
  { s with core := { s.core with replay := s.core.replay.map fun r =>
      if r.diverged.isSome then r else { r with diverged := some (s.core.iss.pc, addr, recorded, replayed) } } }

/-- Goes on with the recorded data in a replay, else with `live`. -/
def withInput (sub : Nat) (s : State) (live : State → Ends) (given : List Byte → State → Ends) : Ends :=
  match s.input sub with
  | .live => live s
  | .given d => given d (s.recordInput sub d)
  | .diverged a v => stallOut (s.diverge a v 0)

end

end Sys2Proof.Machine
end

