-- ==== Sys2Proof/Machine/Scalar.lean ====
section
/-! DEFINITION. The A-slot integer instructions (05 R164 to R168). -/

namespace Sys2Proof.Machine

noncomputable section

/-- The shape of a two-source instruction: a result of latency `lat` from x[a] and x[b]. -/
def alu2 (lat : Nat) (i : Instr) (d a b : Fin 64) (f : Word → Word → Word) (s : State) : Ends :=
  slotOp i s fun s => xresult (some lat) d (f (s.x a) (s.x b)) s

/-- The shape of a one-source instruction. -/
def alu1 (lat : Nat) (i : Instr) (d a : Fin 64) (f : Word → Word) (s : State) : Ends :=
  slotOp i s fun s => xresult (some lat) d (f (s.x a)) s

/-! Values. -/

/-- The shift amount: the low six bits (05 R164). -/
def shamt (b : Word) : Nat := b.toNat % 64

def mulhV (a b : Word) : Word := BitVec.ofInt 64 (a.toInt * b.toInt / (2 ^ 64 : Nat))
def mulhnV (a b : Word) : Word := BitVec.ofNat 64 (a.toNat * b.toNat / 2 ^ 64)
def rolV (a b : Word) : Word := a.rotateLeft (shamt b)
def minV (a b : Word) : Word := if a.toInt ≤ b.toInt then a else b
def maxV (a b : Word) : Word := if a.toInt ≤ b.toInt then b else a
def minnV (a b : Word) : Word := if a.toNat ≤ b.toNat then a else b
def maxnV (a b : Word) : Word := if a.toNat ≤ b.toNat then b else a
def absV (a : Word) : Word := if a.toInt < 0 then 0 - a else a
def clzV (a : Word) : Word := BitVec.ofNat 64 (64 - bitLen a.toNat)
/-- The place of the lowest one bit, 64 for 0. -/
def ctzV (a : Word) : Word := BitVec.ofNat 64 (((List.range 64).find? fun k => bitAt a k).getD 64)
def popcV (a : Word) : Word := BitVec.ofNat 64 ((List.range 64).filter fun k => bitAt a k).length
/-- Width of SEXT and ZEXT: 8, 16 or 32 bits. -/
def extWidth (w : Fin 3) : Nat := 8 * 2 ^ w.val

/-- Division truncates toward zero; by 0 the result is all ones (05 R165). -/
def divV (a b : Word) : Word := if b = 0 then BitVec.allOnes 64 else BitVec.ofInt 64 (a.toInt.tdiv b.toInt)
def divnV (a b : Word) : Word := if b = 0 then BitVec.allOnes 64 else BitVec.ofNat 64 (a.toNat / b.toNat)
/-- The remainder takes the sign of the dividend; by 0 it is the dividend. -/
def remV (a b : Word) : Word := if b = 0 then a else BitVec.ofInt 64 (a.toInt.tmod b.toInt)
def remnV (a b : Word) : Word := if b = 0 then a else BitVec.ofNat 64 (a.toNat % b.toNat)

/-- An imm10, sign-extended (05 R167). -/
def imm10 (i : Fin 1024) : Word := sext64 10 i.val

/-- A division: the interlocked result, with DIVZERO when the divisor is 0 (05 R165). -/
def divide (i : Instr) (d a b : Fin 64) (f : Word → Word → Word) (s : State) : Ends :=
  slotOp i s fun s =>
    .next (s.result none (.x d (f (s.x a) (s.x b))) (if s.x b = 0 then [⟨Ev.divzero, s.core.iss.slot, 0, s.core.iss.pc⟩] else []))

/-! Meanings. -/

/-- NOP (02 R42). -/
def execNop (s : State) : Ends := slotOp .nop s .next

def execAdd (g : Fin 8) (d a b : Fin 64) (s : State) : Ends := alu2 1 (.add g d a b) d a b (· + ·) s
def execSub (g : Fin 8) (d a b : Fin 64) (s : State) : Ends := alu2 1 (.sub g d a b) d a b (· - ·) s
def execMul (g : Fin 8) (d a b : Fin 64) (s : State) : Ends := alu2 3 (.mul g d a b) d a b (· * ·) s
def execMulh (g : Fin 8) (d a b : Fin 64) (s : State) : Ends := alu2 3 (.mulh g d a b) d a b mulhV s
def execMulhn (g : Fin 8) (d a b : Fin 64) (s : State) : Ends := alu2 3 (.mulhn g d a b) d a b mulhnV s
def execDiv (g : Fin 8) (d a b : Fin 64) (s : State) : Ends := divide (.div g d a b) d a b divV s
def execDivn (g : Fin 8) (d a b : Fin 64) (s : State) : Ends := divide (.divn g d a b) d a b divnV s
def execRem (g : Fin 8) (d a b : Fin 64) (s : State) : Ends := divide (.rem g d a b) d a b remV s
def execRemn (g : Fin 8) (d a b : Fin 64) (s : State) : Ends := divide (.remn g d a b) d a b remnV s
def execAndOp (g : Fin 8) (d a b : Fin 64) (s : State) : Ends := alu2 1 (.andOp g d a b) d a b (· &&& ·) s
def execOrOp (g : Fin 8) (d a b : Fin 64) (s : State) : Ends := alu2 1 (.orOp g d a b) d a b (· ||| ·) s
def execXorOp (g : Fin 8) (d a b : Fin 64) (s : State) : Ends := alu2 1 (.xorOp g d a b) d a b (· ^^^ ·) s
def execAndn (g : Fin 8) (d a b : Fin 64) (s : State) : Ends := alu2 1 (.andn g d a b) d a b (fun x y => x &&& ~~~y) s
def execSll (g : Fin 8) (d a b : Fin 64) (s : State) : Ends := alu2 1 (.sll g d a b) d a b (fun x y => x <<< shamt y) s
def execSrl (g : Fin 8) (d a b : Fin 64) (s : State) : Ends := alu2 1 (.srl g d a b) d a b (fun x y => x >>> shamt y) s
def execSra (g : Fin 8) (d a b : Fin 64) (s : State) : Ends :=
  alu2 1 (.sra g d a b) d a b (fun x y => x.sshiftRight (shamt y)) s
def execRol (g : Fin 8) (d a b : Fin 64) (s : State) : Ends := alu2 1 (.rol g d a b) d a b rolV s
def execMinOp (g : Fin 8) (d a b : Fin 64) (s : State) : Ends := alu2 1 (.minOp g d a b) d a b minV s
def execMaxOp (g : Fin 8) (d a b : Fin 64) (s : State) : Ends := alu2 1 (.maxOp g d a b) d a b maxV s
def execMinn (g : Fin 8) (d a b : Fin 64) (s : State) : Ends := alu2 1 (.minn g d a b) d a b minnV s
def execMaxn (g : Fin 8) (d a b : Fin 64) (s : State) : Ends := alu2 1 (.maxn g d a b) d a b maxnV s
def execAbsOp (g : Fin 8) (d a : Fin 64) (s : State) : Ends := alu1 1 (.absOp g d a) d a absV s
def execClz (g : Fin 8) (d a : Fin 64) (s : State) : Ends := alu1 1 (.clz g d a) d a clzV s
def execCtz (g : Fin 8) (d a : Fin 64) (s : State) : Ends := alu1 1 (.ctz g d a) d a ctzV s
def execPopc (g : Fin 8) (d a : Fin 64) (s : State) : Ends := alu1 1 (.popc g d a) d a popcV s
def execSext (g : Fin 8) (d a : Fin 64) (w : Fin 3) (s : State) : Ends :=
  alu1 1 (.sext g d a w) d a (fun x => sext64 (extWidth w) x.toNat) s
def execZext (g : Fin 8) (d a : Fin 64) (w : Fin 3) (s : State) : Ends :=
  alu1 1 (.zext g d a w) d a (fun x => BitVec.ofNat 64 (bits x 0 (extWidth w))) s

/-! Bit fields and selection (05 R166). -/

/-- Position and length of a field from x[b]. -/
def fieldOf (b : Word) : Nat × Nat := let pos := bits b 0 6; (pos, min (bits b 8 7) (64 - pos))

def bfxV (sign : Bool) (a b : Word) : Word :=
  let f := fieldOf b
  if f.2 = 0 then 0 else if sign then sext64 f.2 (bits a f.1 f.2) else BitVec.ofNat 64 (bits a f.1 f.2)

def bfiV (d a b : Word) : Word :=
  let f := fieldOf b
  if f.2 = 0 then d else setBits d f.1 f.2 (bits a 0 f.2)

def execBfx (g : Fin 8) (d a b : Fin 64) (sg : Fin 2) (s : State) : Ends :=
  alu2 1 (.bfx g d a b sg) d a b (bfxV (sg == 1)) s
def execBfi (g : Fin 8) (d a b : Fin 64) (s : State) : Ends :=
  slotOp (.bfi g d a b) s fun s => xresult (some 1) d (bfiV (s.x d) (s.x a) (s.x b)) s
def execSel (g : Fin 8) (d a b : Fin 64) (n : Fin 16) (s : State) : Ends :=
  slotOp (.sel g d a b n) s fun s => xresult (some 1) d (if s.p n then s.x a else s.x b) s

/-! Immediate forms (05 R167 R168). -/

def execAddi (g : Fin 8) (d a : Fin 64) (i : Fin 1024) (s : State) : Ends := alu1 1 (.addi g d a i) d a (· + imm10 i) s
def execAndi (g : Fin 8) (d a : Fin 64) (i : Fin 1024) (s : State) : Ends := alu1 1 (.andi g d a i) d a (· &&& imm10 i) s
def execOri (g : Fin 8) (d a : Fin 64) (i : Fin 1024) (s : State) : Ends := alu1 1 (.ori g d a i) d a (· ||| imm10 i) s
def execXori (g : Fin 8) (d a : Fin 64) (i : Fin 1024) (s : State) : Ends := alu1 1 (.xori g d a i) d a (· ^^^ imm10 i) s
def execSlli (g : Fin 8) (d a i : Fin 64) (s : State) : Ends := alu1 1 (.slli g d a i) d a (· <<< i.val) s
def execSrli (g : Fin 8) (d a i : Fin 64) (s : State) : Ends := alu1 1 (.srli g d a i) d a (· >>> i.val) s
def execSrai (g : Fin 8) (d a i : Fin 64) (s : State) : Ends := alu1 1 (.srai g d a i) d a (fun x => x.sshiftRight i.val) s
def execMuli (g : Fin 8) (d a : Fin 64) (i : Fin 1024) (s : State) : Ends := alu1 3 (.muli g d a i) d a (· * imm10 i) s

/-- LIHI: the high 22 bits from the immediate, the low 42 from x[a]. -/
def lihiV (i : Word) (a : Word) : Word := BitVec.ofNat 64 (bits i 0 22 * 2 ^ 42 + bits a 0 42)

def execLimm (g : Fin 8) (d : Fin 64) (i : Fin 1024) (s : State) : Ends :=
  slotOp (.limm g d i) s fun s => xresult (some 1) d (imm10 i) s
def execLimmPair (g : Fin 8) (d : Fin 64) (i : Fin 4398046511104) (s : State) : Ends :=
  slotOp (.limmPair g d i) s fun s => xresult (some 1) d (sext64 42 i.val) s
def execLihi (g : Fin 8) (d a : Fin 64) (i : Fin 1024) (s : State) : Ends :=
  alu1 1 (.lihi g d a i) d a (lihiV (imm10 i)) s
def execLihiPair (g : Fin 8) (d a : Fin 64) (i : Fin 4398046511104) (s : State) : Ends :=
  alu1 1 (.lihiPair g d a i) d a (lihiV (sext64 42 i.val)) s
/-- PCADD adds to the bundle's own address. -/
def execPcadd (g : Fin 8) (d : Fin 64) (i : Fin 1024) (s : State) : Ends :=
  slotOp (.pcadd g d i) s fun s => xresult (some 1) d (s.core.iss.pc + imm10 i * 32) s

end

end Sys2Proof.Machine
end

