-- ==== Sys2Proof/Machine/Predicate.lean ====
section
/-! DEFINITION. The A-slot predicate instructions (05 R169). -/

namespace Sys2Proof.Machine

noncomputable section

/-- A predicate result of latency 1. -/
def presult (d : Fin 16) (v : Bool) (s : State) : Ends := .next (s.result (some 1) (.p d v) [])

/-- A compare of two x registers. -/
def compare (i : Instr) (d : Fin 16) (a b : Fin 64) (f : Word → Word → Bool) (s : State) : Ends :=
  slotOp i s fun s => presult d (f (s.x a) (s.x b)) s

/-- A compare with an immediate. -/
def compareImm (i : Instr) (d : Fin 16) (a : Fin 64) (f : Word → Bool) (s : State) : Ends :=
  slotOp i s fun s => presult d (f (s.x a)) s

/-- A logical operation on two predicates. -/
def plogic (i : Instr) (d a b : Fin 16) (f : Bool → Bool → Bool) (s : State) : Ends :=
  slotOp i s fun s => presult d (f (s.p a) (s.p b)) s

def execCmpeq (g : Fin 8) (d : Fin 16) (a b : Fin 64) (s : State) : Ends :=
  compare (.cmpeq g d a b) d a b (fun x y => x == y) s
def execCmpne (g : Fin 8) (d : Fin 16) (a b : Fin 64) (s : State) : Ends :=
  compare (.cmpne g d a b) d a b (fun x y => x != y) s
def execCmplt (g : Fin 8) (d : Fin 16) (a b : Fin 64) (s : State) : Ends :=
  compare (.cmplt g d a b) d a b (fun x y => x.slt y) s
def execCmple (g : Fin 8) (d : Fin 16) (a b : Fin 64) (s : State) : Ends :=
  compare (.cmple g d a b) d a b (fun x y => x.sle y) s
def execCmpltn (g : Fin 8) (d : Fin 16) (a b : Fin 64) (s : State) : Ends :=
  compare (.cmpltn g d a b) d a b (fun x y => x.ult y) s
def execCmplen (g : Fin 8) (d : Fin 16) (a b : Fin 64) (s : State) : Ends :=
  compare (.cmplen g d a b) d a b (fun x y => x.ule y) s
def execCmpeqi (g : Fin 8) (d : Fin 16) (a : Fin 64) (i : Fin 1024) (s : State) : Ends :=
  compareImm (.cmpeqi g d a i) d a (fun x => x == imm10 i) s
def execCmplti (g : Fin 8) (d : Fin 16) (a : Fin 64) (i : Fin 1024) (s : State) : Ends :=
  compareImm (.cmplti g d a i) d a (fun x => x.slt (imm10 i)) s
/-- The immediate of CMPLTNI is unsigned. -/
def execCmpltni (g : Fin 8) (d : Fin 16) (a : Fin 64) (i : Fin 1024) (s : State) : Ends :=
  compareImm (.cmpltni g d a i) d a (fun x => x.ult (BitVec.ofNat 64 i.val)) s
def execPand (g : Fin 8) (d a b : Fin 16) (s : State) : Ends := plogic (.pand g d a b) d a b (fun x y => x && y) s
def execPor (g : Fin 8) (d a b : Fin 16) (s : State) : Ends := plogic (.por g d a b) d a b (fun x y => x || y) s
def execPxor (g : Fin 8) (d a b : Fin 16) (s : State) : Ends := plogic (.pxor g d a b) d a b (fun x y => x != y) s
def execPandn (g : Fin 8) (d a b : Fin 16) (s : State) : Ends := plogic (.pandn g d a b) d a b (fun x y => x && !y) s
def execTstbit (g : Fin 8) (d : Fin 16) (a n : Fin 64) (s : State) : Ends :=
  compareImm (.tstbit g d a n) d a (fun x => bitAt x n.val) s

end

end Sys2Proof.Machine
end

