-- ==== Sys2Proof/Machine/StateRegs.lean ====
section
/-! DEFINITION. State registers, descriptors, branch targets, segments, parameter windows, addresses and counters (05
R160 R163 R171 to R176). -/

namespace Sys2Proof.Machine

noncomputable section

/-- MFS: x[d] := state[n] with latency 2. -/
def execMfs (g : Fin 8) (d : Fin 64) (n : Fin 1024) (s : State) : Ends :=
  slotOp (.mfs g d n) s fun s => xresult (some 2) d ((s.readState n.val).getD 0) s

/-- MTS takes effect for the bundles after it. -/
def execMts (g : Fin 8) (a : Fin 64) (n : Fin 1024) (s : State) : Ends :=
  slotOp (.mts g a n) s fun s => .next (s.result (some 1) (.state n.val (s.x a)) [])

/-- SHW writes a word of the shadow copy of a shape. -/
def execShw (g : Fin 8) (k : Fin 4) (a : Fin 64) (n : Fin 8) (s : State) : Ends :=
  slotOp (.shw g k a n) s fun s => .next (s.result (some 1) (.shadow k n (s.x a)) [])
def execAgw (g : Fin 8) (k : Fin 8) (a : Fin 64) (n : Fin 16) (s : State) : Ends :=
  slotOp (.agw g k a n) s fun s => .next (s.result (some 1) (.state (0x40 + 16 * k.val + n.val) (s.x a)) [])
def execXpw (g : Fin 8) (k : Fin 4) (a : Fin 64) (n : Fin 16) (s : State) : Ends :=
  slotOp (.xpw g k a n) s fun s => .next (s.result (some 1) (.state (0xC0 + 16 * k.val + n.val) (s.x a)) [])

def execBtmovToBt (g : Fin 8) (k : Fin 8) (a : Fin 64) (s : State) : Ends :=
  slotOp (.btmovToBt g k a) s fun s => .next (s.result (some 1) (.bt k (s.x a)) [])
def execBtmovFromBt (g : Fin 8) (d : Fin 64) (k : Fin 8) (s : State) : Ends :=
  slotOp (.btmovFromBt g d k) s fun s => xresult (some 1) d (s.core.r.bt.get k) s
def execBtset (g : Fin 8) (k : Fin 8) (i : Fin 1024) (s : State) : Ends :=
  slotOp (.btset g k i) s fun s => .next (s.result (some 1) (.bt k (s.core.iss.pc + imm10 i * 32)) [])

/-- CHKERR reads CIR and, with the clear bit, clears CIR[3:0] and COUNT. -/
def execChkerr (g : Fin 8) (d : Fin 64) (c : Fin 2) (s : State) : Ends :=
  slotOp (.chkerr g d c) s fun s =>
    let v := s.core.cir
    let s := if c = 1 then { s with core := { s.core with cir := setBits (setBits v 0 4 0) 16 16 0 } } else s
    xresult (some 2) d v s

/-- SEGSET arms a segment check: CRC in [41:10], count in [9:0] (05 R160). -/
def execSegset (g : Fin 8) (i : Fin 4398046511104) (s : State) : Ends :=
  slotOp (.segset g i) s fun s =>
    .next (s.result (some 1) (.seg (BitVec.ofNat 64 (i.val % 1024 + 2 ^ 31 + i.val / 1024 * 2 ^ 32))) [])

/-! Addresses (05 R175). -/

def cvtaOffV (a : Word) : Word :=
  match region a with
  | .own off => BitVec.ofNat 64 off
  | .cluster site off => BitVec.ofNat 64 (site * 2 ^ 21 + off)
  | _ => BitVec.allOnes 64

def execCvtaOff (g : Fin 8) (d a : Fin 64) (s : State) : Ends := alu1 1 (.cvtaOff g d a) d a cvtaOffV s
def execCvtaOwn (g : Fin 8) (d a : Fin 64) (s : State) : Ends :=
  alu1 1 (.cvtaOwn g d a) d a (fun x => 0xF000000000000000 + BitVec.ofNat 64 (bits x 0 21)) s
def execCvtaCl (g : Fin 8) (d a b : Fin 64) (s : State) : Ends :=
  alu2 1 (.cvtaCl g d a b) d a b
    (fun x y => 0xF100000000000000 + BitVec.ofNat 64 (bits y 0 4 * 2 ^ 21 + bits x 0 21)) s

/-- The kind of an address: 0 global, 1 own aperture, 2 cluster aperture, 3 NONCANONICAL. -/
def regionKind (a : Word) : Nat :=
  match region a with
  | .glob => 0 | .own _ => 1 | .cluster _ _ => 2 | .bad => 3

def execIsap (g : Fin 8) (d : Fin 16) (a : Fin 64) (k : Fin 4) (s : State) : Ends :=
  compareImm (.isap g d a k) d a (fun x => regionKind x == k.val) s

/-! Parameter windows (05 R163). -/

/-- Where window `k` starts in the parameter store: windows are packed in order (log 18). -/
def paramStart (c : Core) (k : Nat) : Nat :=
  ((List.range k).map fun j => let w := vget c.pwsize j; if bitAt w 63 then bits w 0 13 else 0).sum

/-- A byte of window `k`: 0 beyond its size. -/
def paramByte (c : Core) (k off : Nat) : Byte :=
  if off < bits (vget c.pwsize k) 0 13 then getByte c.pstore (paramStart c k + off) else 0

def execRdpw (g : Fin 8) (d a : Fin 64) (sz : Fin 4) (k : Fin 8) (s : State) : Ends :=
  slotOp (.rdpw g d a sz k) s fun s =>
    if !bitAt (vget s.core.pwsize k.val) 63 then trapOut 10 Cause.paramUnbound 0 0 s else
    let off := (s.x a).toNat
    let n := 2 ^ sz.val
    let v := ofBytes ((List.range n).map fun i => paramByte s.core k.val (off + i))
    let ev : List LogEvent :=
      if bits (vget s.core.pwsize k.val) 0 13 < off + n then [⟨Ev.paramOob, s.core.iss.slot, 0, s.core.iss.pc⟩] else []
    .next (s.result (some 2) (match s.core.xname d with | .y y => .y y (BitVec.ofNat 64 v) | _ => .x d (BitVec.ofNat 64 v)) ev)

/-! Counters (05 R176). -/

/-- RDTIME reads the time base; in FULL logging the value is an input record. -/
def execRdtime (g : Fin 8) (d : Fin 64) (s : State) : Ends :=
  slotOp (.rdtime g d) s fun s => withInput 1 s
    (fun s => xresult (some 2) d (BitVec.ofNat 64 s.clock) (s.recordInput 1 (n8 (s.clock % 2 ^ 64))))
    (fun v s => xresult (some 2) d (fw v 0) s)
def execEcnt (g : Fin 8) (d : Fin 64) (e : Fin 5) (s : State) : Ends :=
  slotOp (.ecnt g d e) s fun s => xresult (some 2) d (s.core.eqcnt.get e) s
def execRdwin (g : Fin 8) (d : Fin 64) (s : State) : Ends :=
  slotOp (.rdwin g d) s fun s => xresult (some 1) d s.core.r.sr.win s

end

end Sys2Proof.Machine
end

