-- ==== Sys2Proof/Machine/LoadStore.lean ====
section
/-! DEFINITION. Scalar and line accesses of the L slot (06 R188 to R196). -/

namespace Sys2Proof.Machine

noncomputable section

/-! Addresses and scopes. -/

/-- The scope of the bundle's accesses: the transaction's inside one, die for a promoted access (02 R41, 12 R384, 04
R145). -/
def State.scopeNow (s : State) : Nat :=
  if s.core.tx.isSome then bits s.core.r.sr.txstate 3 2
  else if s.core.iss.scope = 5 then 2 else s.core.iss.scope.val

/-- The strand as an agent at the bundle's scope. -/
def State.agent (s : State) : Agent := strandAgent s s.scopeNow

/-- The scope of a load at `va`: through the cluster aperture it is `cluster` (04 R114). -/
def State.loadScope (s : State) (va : Word) : Nat :=
  match region va with
  | .cluster _ _ => 1
  | _ => s.scopeNow

/-- The strand as the agent of a load at `va`. -/
def State.loadAgent (s : State) (va : Word) : Agent := strandAgent s (s.loadScope va)

/-- A promoted access of a bundle with SCOPE 0b101: every earlier access of its die to the block has its place in L2 (04 R145). -/
def State.promote (s : State) (key : Nat) : State :=
  if s.core.iss.scope = 5 then s.cleanBlock (sameInstance 2 s.core.id) key else s

/-- EA of a sized address (06 R188). -/
def State.ea (s : State) (b : Fin 64) (disp : Fin 4096) (size : Nat) : Word :=
  s.x b + sext64 12 disp.val * BitVec.ofNat 64 size

/-- The checks of one piece of an access before translation (06 R189 orders 1 to 3); `base` is the base of a line access,
whose region every byte must share. -/
def pieceFault (base : Option Word) (al : Nat) (va : Word) (n : Nat) : Option (BitVec 8) :=
  let last := va + BitVec.ofNat 64 (n - 1)
  match base with
  | none => if region va = .bad then some Cause.noncanonical else if va.toNat % al ≠ 0 then some Cause.align else none
  | some b =>
    if region b = .bad then some Cause.noncanonical
    else if region b = .glob && !(region va = .glob && region last = .glob) then some Cause.noncanonical
    else if va.toNat % al ≠ 0 then some Cause.align
    else if !(sameRegion b va && sameRegion b last) then some Cause.apertureAccess
    else none

/-- Finds every byte run of an access, piece by piece in order (06 R189). -/
def locatePieces (ag : Agent) (k : AKind) (load : Bool) (base : Option Word) (al : Nat) (ps : List (Word × Nat)) (s : State) :
    Act (List (Word × Nat × Loc)) :=
  (Act.mapM (fun p s =>
    match pieceFault base al p.1 p.2 with
    | some c => .trap c p.1 s
    | none => locateAll ag k load p.1 p.2 s) ps s).map List.flatten

/-- The distinct blocks of an access, in the order of the first piece that touches each (06 R194). -/
def distinctBlocks (ls : List (Word × Nat × Loc)) : List (Word × Loc) :=
  ls.foldl (fun acc x => if acc.any fun y => y.2.key / 64 == x.2.2.key / 64 then acc else acc ++ [(x.1, x.2.2)]) []

/-- What every block that a strand's load touches does beside giving its bytes: conflicts, the transaction's footprint,
promotion. The accesses of a transaction take place at its commit (12 R386). -/
def noteReads (ag : Agent) (bs : List (Word × Loc)) (s : State) : State :=
  bs.foldl (fun s x =>
    let s := if s.core.tx.isSome then s else noteAccess s ag.core (some ag.core) ag.scope x.2.key false
    ((s.txTouch false x.2.key).txPlace x.1 x.2).promote x.2.key) s

/-- The tier monitor counts the blocks that a load of far pages moves (04 R125). -/
def countReads (ag : Agent) (bs : List (Word × Loc)) (s : State) : State :=
  bs.foldl (fun s x => if x.2.far then s.countFar (dieOf ag.core) ag.part x.1 1 else s) s

/-- What a load's blocks do beside giving their bytes. -/
def touchRead (ag : Agent) (bs : List (Word × Loc)) (s : State) : State := countReads ag bs (noteReads ag bs s)

/-- What the blocks of a store that is held do: the transaction's footprint and promotion. The tier monitor counts the store when
it is performed. -/
def touchWrite (bs : List (Word × Loc)) (s : State) : State :=
  bs.foldl (fun s x => ((s.txTouch true x.2.key).txPlace x.1 x.2).promote x.2.key) s

/-- WATCHPOINT, once every other check has passed (14 R424; log 19). -/
def watch (ps : List (Word × Nat)) (rd wr : Bool) (s : State) : Act Unit :=
  match ps.find? fun p => s.watched p.1 p.2 rd wr with
  | some p => .trap Cause.watchpoint p.1 s
  | none => .ok () s

/-- The poison a load consumed, once for the load (06 R190; log 20). -/
def notePoison (ls : List (Word × Nat × Loc)) (s : State) : State :=
  let bad := fun far => ls.find? fun x => x.2.2.far == far && (s.viewMdata x.2.2.key).getLsbD 24
  let s := if (bad false).isSome then s.consume 0 else s
  match bad true with
  | some x => (s.consume 2).reportCxl 7 s.core.iss.pc x.1
  | none => s

/-- The places of a load's parts, as its window keeps them. -/
def placesOf (ls : List (Word × Nat × Loc)) : List (Word × Nat × Nat) := ls.map fun x => (x.1, x.2.2.key, x.2.1)

/-- A load of pieces with the strand's view: their bytes, concatenated. -/
def loadPieces (base : Option Word) (al : Nat) (ps : List (Word × Nat)) (s : State) : Act (List Byte) :=
  let ag := s.loadAgent (base.getD ((ps.head?.map Prod.fst).getD 0))
  (locatePieces ag .read true base al ps s).bind fun ls s =>
    (watch ps true false s).bind fun _ s =>
      let bs := ls.flatMap fun x => s.viewBytes x.2.2.key x.2.1
      let s := touchRead ag (distinctBlocks ls) (notePoison ls s)
      .ok bs (s.keepLoads (placesOf ls))

/-! Replay of transactions (12 R388). -/

/-- The recorded loads and outcome of the open transaction: INREC entries from LOGCUR up to its SUB 8. -/
def txRecords (s : State) : List LogEnt :=
  let l := s.core.log
  let es := (logEntries s (l.head.toNat / 16 + 1) l.cur.toNat l.head.toNat).filterMap fun x =>
    if x.2.1.kind == Ent.inrec && (field x.2.1.body 0 8 == 7 || field x.2.1.body 0 8 == 8) then some x.2.1 else none
  es.takeWhile (fun e => field e.body 0 8 != 8) ++ (es.dropWhile fun e => field e.body 0 8 != 8).take 1

/-- The value of the next transactional load of a replay that committed. -/
def txGiven (s : State) : Option (List Byte) :=
  match s.core.tx, s.core.replay with
  | some t, some _ =>
    if !s.logOn 2 then none else
    match (txRecords s)[t.loads.length]? with
    | some e => if field e.body 0 8 = 7 then some (slice e.body 24 (field e.body 16 8)) else none
    | none => none
  | _, _ => none

/-- Goes on with the bytes of a load at `va`: a transactional load is recorded for its commit, a system-scope load is an
input of FULL (12 R362 R388). In a replay the load is made too, for its footprint, and its value is the record's. -/
def loadOut (va : Word) (a : State → Act (List Byte)) (s : State) (f : List Byte → State → Ends) : Ends :=
  if s.core.tx.isSome then
    match txGiven s with
    | some bs => (a s).out .read fun _ s => f bs (s.noteLoad va bs)
    | none => (a s).out .read fun bs s => f bs (s.noteLoad va bs)
  else if s.loadScope va = 4 then
    withInput 3 s
      (fun s => (a s).out .read fun bs s => f bs (s.recordInput 3 (b8 va ++ n8 bs.length ++ pad16 bs)))
      (fun d s => f (slice d 16 (field d 8 8)) s)
  else (a s).out .read f

/-! Scalar loads and stores (06 R192). -/

/-- The latency of a load whose base or address is `va`: 4 from the own scratchpad, else interlocked (06 R191). -/
def loadLat (va : Word) : Option Nat := if isOwn va then some 4 else none

/-- A scalar load of `n` bytes, widened by `ext`. -/
def loadScalar (i : Instr) (n : Nat) (ext : Nat → Word) (d b : Fin 64) (disp : Fin 4096) (s : State) : Ends :=
  slotOp i s fun s =>
    let va := s.ea b disp n
    match pieceFault none n va n, s.core.xname d with
    | none, .y _ =>
      if !isOwn va then trapOut 12 Cause.apertureAccess va 0 s
      else loadOut va (loadPieces none n [(va, n)]) s fun bs s => xresult (loadLat va) d (ext (ofBytes bs)) s
    | _, _ => loadOut va (loadPieces none n [(va, n)]) s fun bs s => xresult (loadLat va) d (ext (ofBytes bs)) s

/-- A store, tag store or atomic of a transaction that lies in the cluster aperture, and passes the checks of its pieces: it aborts the
transaction as UNSUPPORTED (12 R384). -/
def State.txAperture (s : State) (base : Option Word) (al : Nat) (ps : List (Word × Nat)) : Bool :=
  s.core.tx.isSome && (ps.all fun p => (pieceFault base al p.1 p.2).isNone) &&
  ps.any fun p => match region p.1 with | .cluster _ _ => true | _ => false

/-- Holds a store of bytes at the pieces at a scope, after every check; `size` counts toward the window's limit (02 R75). -/
def storeAt (scope : Nat) (base : Option Word) (al size : Nat) (ps : List (Word × List Byte)) (s : State) : Act Unit :=
  let spans := ps.map fun p => (p.1, p.2.length)
  if s.txAperture base al spans then .ok () (s.txDue 4 0 0) else
  (locatePieces (strandAgent s scope) .write false base al spans s).bind fun ls s =>
    (watch spans false true s).bind fun _ s =>
      let s := touchWrite (distinctBlocks ls) s
      let bytes := ps.flatMap fun p => p.2
      let starts := ls.foldl (fun (a : List Nat × Nat) x => (a.1 ++ [a.2], a.2 + x.2.1)) ([], 0)
      let item := fun (x : (Word × Nat × Loc) × Nat) => (slice bytes x.2 x.1.2.1).zipIdx.map fun b =>
        (x.1.1.toNat + b.2, x.1.2.2.key + b.2, b.1)
      .ok () (s.hold (mkStores s scope size (ls.all fun x => mayCache scope x.2.2) ((ls.zip starts.1).flatMap item)))

/-- As `storeAt`, at the bundle's scope. -/
def storePieces (base : Option Word) (al size : Nat) (ps : List (Word × List Byte)) (s : State) : Act Unit :=
  storeAt s.scopeNow base al size ps s

/-- A scalar store of the low `n` bytes of x[d]. -/
def storeScalar (i : Instr) (n : Nat) (d b : Fin 64) (disp : Fin 4096) (s : State) : Ends :=
  slotOp i s fun s =>
    (storePieces none n n [(s.ea b disp n, toBytes n (s.x d).toNat)] s).out .write fun _ s => .next s

def execLdB (g : Fin 8) (d b : Fin 64) (disp : Fin 4096) (s : State) : Ends := loadScalar (.ldB g d b disp) 1 (sext64 8) d b disp s
def execLdH (g : Fin 8) (d b : Fin 64) (disp : Fin 4096) (s : State) : Ends := loadScalar (.ldH g d b disp) 2 (sext64 16) d b disp s
def execLdW (g : Fin 8) (d b : Fin 64) (disp : Fin 4096) (s : State) : Ends := loadScalar (.ldW g d b disp) 4 (sext64 32) d b disp s
def execLdD (g : Fin 8) (d b : Fin 64) (disp : Fin 4096) (s : State) : Ends := loadScalar (.ldD g d b disp) 8 (sext64 64) d b disp s
def execLdnB (g : Fin 8) (d b : Fin 64) (disp : Fin 4096) (s : State) : Ends :=
  loadScalar (.ldnB g d b disp) 1 (BitVec.ofNat 64) d b disp s
def execLdnH (g : Fin 8) (d b : Fin 64) (disp : Fin 4096) (s : State) : Ends :=
  loadScalar (.ldnH g d b disp) 2 (BitVec.ofNat 64) d b disp s
def execLdnW (g : Fin 8) (d b : Fin 64) (disp : Fin 4096) (s : State) : Ends :=
  loadScalar (.ldnW g d b disp) 4 (BitVec.ofNat 64) d b disp s
def execStB (g : Fin 8) (d b : Fin 64) (disp : Fin 4096) (s : State) : Ends := storeScalar (.stB g d b disp) 1 d b disp s
def execStH (g : Fin 8) (d b : Fin 64) (disp : Fin 4096) (s : State) : Ends := storeScalar (.stH g d b disp) 2 d b disp s
def execStW (g : Fin 8) (d b : Fin 64) (disp : Fin 4096) (s : State) : Ends := storeScalar (.stW g d b disp) 4 d b disp s
def execStD (g : Fin 8) (d b : Fin 64) (disp : Fin 4096) (s : State) : Ends := storeScalar (.stD g d b disp) 8 d b disp s

/-! Tags (06 R193). -/

/-- The 64-byte block of an address. -/
def blockBase (va : Word) : Word := setBits va 0 6 0

/-- The metadata word of the block at `va`, as a load that takes no payload: 0 for a far block, of which it moves no data (06 R193,
04 R125). -/
def readTag (va : Word) (s : State) : Act (List Byte) :=
  let ag := s.loadAgent va
  (locatePieces ag .read true none 64 [(va, 64)] s).bind fun ls s =>
    (watch [(va, 64)] true false s).bind fun _ s =>
      let v := match ls with
        | x :: _ => if x.2.2.far then 0 else (s.viewMdata x.2.2.key).toNat
        | [] => 0
      .ok (n8 v) ((noteReads ag (distinctBlocks ls) s).keepLoads (ls.map fun x => (x.1, x.2.2.key, 0)))

/-- LDTAG: the tag in [23:0] and the poison bit in 24; 0 for a far block. It loads no payload, so it consumes no poison. -/
def execLdtag (g : Fin 8) (d b : Fin 64) (disp : Fin 4096) (s : State) : Ends :=
  slotOp (.ldtag g d b disp) s fun s =>
    let va := s.ea b disp 64
    match pieceFault none 64 va 64, s.core.xname d with
    | none, .y _ =>
      if !isOwn va then trapOut 12 Cause.apertureAccess va 0 s
      else loadOut va (readTag va) s fun bs s => xresult (loadLat va) d (fw bs 0) s
    | _, _ => loadOut va (readTag va) s fun bs s => xresult (loadLat va) d (fw bs 0) s

/-- Where a store of a tag goes: APERTURE_ACCESS on a far page (04 R124). In a transaction a far page, or the cluster aperture, aborts it
(12 R384), and nothing is stored. -/
def tagPlace (va : Word) (s : State) : Act (Option Loc) :=
  if s.txAperture none 64 [(va, 64)] then .ok none (s.txDue 4 0 0) else
  (locatePieces s.agent .write false none 64 [(va, 64)] s).bind fun ls s =>
    match ls with
    | x :: _ => if x.2.2.far && s.core.tx.isSome then .ok none (s.txDue 4 0 0) else if x.2.2.far then .trap Cause.apertureAccess va s
      else (watch [(va, 64)] false true s).bind fun _ s => .ok (some x.2.2) (touchWrite (distinctBlocks ls) s)
    | [] => .ok none s

/-- The held store of a tag; it counts 64 bytes. -/
def tagStore (va : Word) (key : Nat) (tag : BitVec 24) (s : State) : HStore :=
  { pc := s.core.iss.pc, slot := s.core.iss.slot, scope := s.scopeNow, size := 64, va := va, key := key,
    bytes := [], tag := some tag, mdata := none, far := false, cached := false, atom := false, lead := true }

/-- STTAG: a held store of the tag. -/
def execSttag (g : Fin 8) (d b : Fin 64) (disp : Fin 4096) (s : State) : Ends :=
  slotOp (.sttag g d b disp) s fun s =>
    let va := s.ea b disp 64
    (tagPlace va s).out .write fun l s =>
      match l with
      | none => .next s
      | some l => .next (s.hold [tagStore va l.key (BitVec.ofNat 24 (s.x d).toNat) s])

/-! Line accesses (06 R194). -/

/-- The 32 pieces of a contiguous or strided line. -/
def linePieces (base : Word) (stride : Word) : List (Word × Nat) :=
  (List.range 32).map fun j => (base + BitVec.ofNat 64 j * stride, 4)

/-- The 32 pieces of a gather or scatter line. -/
def indexPieces (base : Word) (ix : List W32) : List (Word × Nat) :=
  ix.map fun v => (base + sext64 32 v.toNat * 4, 4)

/-- A line load: element j in lane j, the rest of an invalid register zero-filled as the result lands. -/
def loadLine (base : Word) (m : Line) (ps : List (Word × Nat)) (s : State) : Ends :=
  loadOut base (loadPieces (some base) 4 ps) s fun bs s =>
    let cs := (List.range 32).map fun j => (lineKey m j, (BitVec.ofNat 32 (field bs (4 * j) 4) : W32))
    .next (s.result (loadLat base) (.cells m.m cs) [])

/-- A line store: lane order, so the higher lane's value remains. -/
def storeLine (base : Word) (m : Line) (ps : List (Word × Nat)) (s : State) : Ends :=
  let vs := s.lineElems m
  let items := ps.zipIdx.map fun p => (p.1.1, toBytes 4 (vs.getD p.2 0).toNat)
  (storePieces (some base) 4 128 items s).out .write fun _ s => .next s

def execLdv (g : Fin 8) (m : Line) (b : Fin 64) (disp : Fin 4096) (s : State) : Ends :=
  slotOp (.ldv g m b disp) s fun s =>
    let lanes := linePieces (s.ea b disp 128) 4
    loadOut (s.ea b disp 128) (loadPieces (some (s.x b)) 4 lanes) s fun bs s =>
      let cs := (List.range 32).map fun j => (lineKey m j, (BitVec.ofNat 32 (field bs (4 * j) 4) : W32))
      .next (s.result (loadLat (s.x b)) (.cells m.m cs) [])
def execStv (g : Fin 8) (m : Line) (b : Fin 64) (disp : Fin 4096) (s : State) : Ends :=
  slotOp (.stv g m b disp) s fun s => storeLine (s.x b) m (linePieces (s.ea b disp 128) 4) s
def execLdvs (g : Fin 8) (m : Line) (b st : Fin 64) (s : State) : Ends :=
  slotOp (.ldvs g m b st) s fun s => loadLine (s.x b) m (linePieces (s.x b) (s.x st)) s
def execStvs (g : Fin 8) (m : Line) (b st : Fin 64) (s : State) : Ends :=
  slotOp (.stvs g m b st) s fun s => storeLine (s.x b) m (linePieces (s.x b) (s.x st)) s
/-- An index line in an invalid matrix register raises OPCODE_UNDEF. -/
def execLdg (g : Fin 8) (m : Line) (b : Fin 64) (ix : Line) (s : State) : Ends :=
  slotOp (.ldg g m b ix) s fun s => loadLine (s.x b) m (indexPieces (s.x b) (s.lineElems ix)) s
def execStg (g : Fin 8) (m : Line) (b : Fin 64) (ix : Line) (s : State) : Ends :=
  slotOp (.stg g m b ix) s fun s => storeLine (s.x b) m (indexPieces (s.x b) (s.lineElems ix)) s

/-! Extraction loads (06 R195 R196). -/

/-- Field descriptor `f` of pattern `k`: 16 bits. -/
def xpField (r : Regs) (k f : Nat) : Nat := bits (vget r.xp (16 * k + 1 + f / 4)) (16 * (f % 4)) 16

/-- The check of a pattern. -/
def patternOk (r : Regs) (k : Nat) : Bool :=
  let w := vget r.xp (16 * k)
  let per := bits w 0 7 + 1
  bits w 13 51 == 0 && !bitAt w 7 && ((List.range 7).all fun i => vget r.xp (16 * k + 9 + i) == 0) &&
  (List.range (bits w 8 5 + 1)).all fun f =>
    let v := xpField r k f
    decide (v / 2 ^ 13 = 0) && decide (v % 128 + (v / 128 % 32 + 1) ≤ per)

/-- Lane `j` of pattern `k`: its first stream bit, width and sign. -/
def extractLane (r : Regs) (k j : Nat) : Nat × Nat × Bool :=
  let w := vget r.xp (16 * k)
  let n := bits w 8 5 + 1
  let v := xpField r k (j % n)
  (j / n * (bits w 0 7 + 1) + v % 128, v / 128 % 32 + 1, decide (v / 4096 % 2 = 1))

/-- The 32 lanes of pattern `k`. -/
def extractLanes (r : Regs) (k : Nat) : List (Nat × Nat × Bool) := (List.range 32).map (extractLane r k)

/-- The bytes that hold some used bit of a lane: first byte and number. -/
def extractSpan (x : Nat × Nat × Bool) : Nat × Nat := (x.1 / 8, (x.1 + x.2.1 - 1) / 8 + 1 - x.1 / 8)

/-- The byte runs that an extraction load reads. -/
def extractPieces (base : Word) (lanes : List (Nat × Nat × Bool)) : List (Word × Nat) :=
  lanes.map fun x => (base + BitVec.ofNat 64 (extractSpan x).1, (extractSpan x).2)

/-- The elements cut from the bytes of the runs. -/
def extractElems (lanes : List (Nat × Nat × Bool)) (bs : List Byte) : List W32 :=
  let offs := lanes.foldl (fun (a : List Nat × Nat) x => (a.1 ++ [a.2], a.2 + (extractSpan x).2)) ([], 0)
  (lanes.zip offs.1).map fun x =>
    let raw := field bs x.2 (extractSpan x.1).2 / 2 ^ (x.1.1 % 8) % 2 ^ x.1.2.1
    if x.1.2.2 then sext32 x.1.2.1 raw else BitVec.ofNat 32 raw

/-- LDX reads only the bytes that hold some used bit. -/
def execLdx (g : Fin 8) (m : Line) (b : Fin 64) (k : Fin 4) (s : State) : Ends :=
  slotOp (.ldx g m b k) s fun s =>
    let base := s.x b
    if !patternOk s.core.r k.val then trapOut 12 Cause.extractPattern 0 0 s else
    let lanes := extractLanes s.core.r k.val
    loadOut base (loadPieces (some base) 1 (extractPieces base lanes)) s fun bs s =>
      .next (s.result (loadLat base) (.cells m.m ((extractElems lanes bs).zipIdx.map fun v => (lineKey m v.2, v.1))) [])

end

end Sys2Proof.Machine
end

