-- ==== Sys2Proof/Machine/Atomic.lean ====
section
/-! DEFINITION. Atomics (06 R197 to R199). -/

namespace Sys2Proof.Machine

noncomputable section

/-- ATOMIC_SCOPE (06 R199). -/
def atomicScopeBad (scope : Nat) (va : Word) (far : Bool) : Bool :=
  (far && scope != 4) || (isOwn va && decide (2 ≤ scope))

/-- Where an atomic acts, after the checks of 06 R189. In a transaction a far page aborts it as UNSUPPORTED, whatever the scope (12
R384). CXL poison that it meets is reported (04 R124). -/
def atomicPlace (va : Word) (n : Nat) (s : State) : Act Loc :=
  (locatePieces s.agent .atomic false none n [(va, n)] s).bind fun ls s =>
    match ls with
    | [] => .wait s
    | x :: _ =>
      let l := x.2.2
      if !(s.core.tx.isSome && l.far) && atomicScopeBad s.scopeNow va l.far then .trap Cause.atomicScope va s
      else if (s.viewMdata l.key).getLsbD 24 then .trap Cause.poisonTrap va (s.reportFar 7 s.core.iss.pc va l)
      else (watch [(va, n)] true true s).bind fun _ s => .ok l s

/-- The ATOMIC entry of the open window, which has acted (12 R357, 04 R135). -/
def State.noteAtomic (s : State) (va : Word) (n : Nat) (far : Bool) (old new : Nat) : State :=
  s.modWin fun w => { w with
    acted := true
    held := w.held ++ [.entry Ent.atomic far s.core.iss.pc s.core.iss.slot.val (b8 va ++ n8 n ++ n8 old ++ n8 new)] }

/-- The ATOMIC entry that a replay finds for the next atomic of the open transaction (12 R374 R388). -/
def txAtomic (s : State) (t : Tx) : Option LogEnt :=
  if s.core.replay.isNone || !s.logOn 1 then none else
  let l := s.core.log
  ((logEntries s (l.head.toNat / 16 + 1) l.cur.toNat l.head.toNat).filterMap fun x =>
    if x.2.1.kind == Ent.atomic && x.2.1.flags % 2 == 1 then some x.2.1 else none)[(t.held.filter fun h => h.atom).length]?

/-- The held write of a transaction's atomic; it holds no bytes where the comparison failed. -/
def atomicStore (va : Word) (l : Loc) (n : Nat) (bs : List Byte) (s : State) : HStore :=
  { pc := s.core.iss.pc, slot := s.core.iss.slot, scope := s.scopeNow, size := n, va := va, key := l.key, bytes := bs, tag := none,
    mdata := none, far := l.far, cached := false, atom := true, lead := true }

/-- An atomic on `n` bytes: `f` gives the new value, none for no write, and the value returned; performed at once, or held
in a transaction. In a replay it returns OLD and writes NEW (12 R374). -/
def atomic (i : Instr) (n : Nat) (d b : Fin 64) (disp : Fin 4096) (f : State → Nat → Option Nat × List LogEvent) (s : State) :
    Ends :=
  slotOp i s fun s =>
    let va := s.ea b disp n
    if s.txAperture none n [(va, n)] then .next (s.txDue 4 0 0) else
    (atomicPlace va n s).out .atomic fun l s =>
      let finish := fun (old : Nat) (ev : List LogEvent) (s : State) =>
        Host.Outcome.next (s.result none (.x d (BitVec.ofNat 64 old)) ev)
      if h : s.core.tx.isSome then
        let given := txAtomic s (s.core.tx.get h)
        let old := match given with | some e => field e.body 16 8 | none => ofBytes (s.viewBytes l.key n)
        let r := f s old
        let s := touchRead s.agent [(va, l)] s
        finish old r.2 (match r.1 with
          | none => s.hold [atomicStore va l n [] s]
          | some v => (touchWrite [(va, l)] s).hold [atomicStore va l n (toBytes n v) s])
      else
        let given := if s.core.replay.isSome && s.logOn 1 then s.recorded Ent.atomic else none
        if s.core.replay.isSome && s.logOn 1 && (match given with | some e => fw e.body 0 != va | none => true) then
          stallOut (s.diverge va (match given with | some e => fw e.body 0 | none => 0) va)
        else
          let old := match given with | some e => field e.body 16 8 | none => ofBytes (s.viewBytes l.key n)
          let r := f s old
          let new := match given with | some e => some (field e.body 24 8) | none => r.1
          let s := touchRead s.agent [(va, l)] s
          match new with
          | none => finish old r.2 (s.noteAtomic va n l.far old old)
          | some v =>
            if s.core.replay.isSome && l.far then finish old r.2 (s.noteAtomic va n l.far old v) else
            match performRun s.agent (some s.core.id) l.key (toBytes n v) (s.noteL1 s.core.id (mayCache s.scopeNow l) l.key n) with
            | (false, s') => stallOut s'
            | (true, s) => finish old r.2 (s.noteAtomic va n l.far old v)

/-- A 64-bit atomic whose new value is `f old op`. -/
def atomic64 (i : Instr) (d b : Fin 64) (disp : Fin 4096) (f : Word → Word → Word) (s : State) : Ends :=
  atomic i 8 d b disp (fun s old => (some (f (BitVec.ofNat 64 old) (s.x d)).toNat, [])) s

def execAadd (g : Fin 8) (d b : Fin 64) (disp : Fin 4096) (s : State) : Ends := atomic64 (.aadd g d b disp) d b disp (· + ·) s
def execAand (g : Fin 8) (d b : Fin 64) (disp : Fin 4096) (s : State) : Ends := atomic64 (.aand g d b disp) d b disp (· &&& ·) s
def execAor (g : Fin 8) (d b : Fin 64) (disp : Fin 4096) (s : State) : Ends := atomic64 (.aor g d b disp) d b disp (· ||| ·) s
def execAxor (g : Fin 8) (d b : Fin 64) (disp : Fin 4096) (s : State) : Ends := atomic64 (.axor g d b disp) d b disp (· ^^^ ·) s
def execAmin (g : Fin 8) (d b : Fin 64) (disp : Fin 4096) (s : State) : Ends := atomic64 (.amin g d b disp) d b disp minV s
def execAmax (g : Fin 8) (d b : Fin 64) (disp : Fin 4096) (s : State) : Ends := atomic64 (.amax g d b disp) d b disp maxV s
def execAminn (g : Fin 8) (d b : Fin 64) (disp : Fin 4096) (s : State) : Ends := atomic64 (.aminn g d b disp) d b disp minnV s
def execAmaxn (g : Fin 8) (d b : Fin 64) (disp : Fin 4096) (s : State) : Ends := atomic64 (.amaxn g d b disp) d b disp maxnV s
def execAxchg (g : Fin 8) (d b : Fin 64) (disp : Fin 4096) (s : State) : Ends :=
  atomic64 (.axchg g d b disp) d b disp (fun _ v => v) s
/-- ACAS compares with x[d] and writes x[d+1] (06 R198). -/
def execAcas (g : Fin 8) (d b : Fin 64) (disp : Fin 4096) (s : State) : Ends :=
  atomic (.acas g d b disp) 8 d b disp
    (fun s old => (if BitVec.ofNat 64 old = s.x d then some (s.x (d + 1)).toNat else none, [])) s
/-- AFADD rounds to nearest even and does not flush subnormals (06 R198). -/
def execAfadd (g : Fin 8) (d b : Fin 64) (disp : Fin 4096) (s : State) : Ends :=
  atomic (.afadd g d b disp) 4 d b disp
    (fun s old => let r := f32.add 0 false old (bits (s.x d) 0 32); (some r.1, laneEvent s 0 r.2)) s

end

end Sys2Proof.Machine
end

