-- ==== Sys2Proof/Machine/Planes.lean ====
section
/-! DEFINITION. Block tags and bit-plane nested integers (03 R95 to R102): tag fields and checks, sub-tiles read by planes,
quantisation, and the values of typed blocks. -/

namespace Sys2Proof.Machine

/-! Tags (03 R98 R99). -/

def tagFamily (t : BitVec 24) : Nat := t.toNat / 2 ^ 21 % 8
/-- The plane count of a BPS or BPZ tag: PM1 + 1. -/
def tagPlanes (t : BitVec 24) : Nat := t.toNat / 2 ^ 18 % 8 + 1
def tagScale (t : BitVec 24) : Int := sint 8 (t.toNat / 2 ^ 8 % 256)
def tagPlane (t : BitVec 24) : Nat := t.toNat / 32 % 8
def tagZ (t : BitVec 24) : Bool := t.toNat / 16 % 2 == 1

/-- A tag of a family, plane count, scale, plane and Z. -/
def mkTag (fam p : Nat) (e : Int) (plane : Nat) (z : Bool) : BitVec 24 :=
  let pm1 := if fam = 1 ∨ fam = 2 then p - 1 else 0
  BitVec.ofNat 24 (fam * 2 ^ 21 + pm1 * 2 ^ 18 + wrap 8 e * 2 ^ 8 + plane * 32 + boolBit z * 16)

/-- FMT, SCALE and PLANE of a tag, with Z set from the payload. -/
def withZ (t : BitVec 24) (bytes : List Byte) : BitVec 24 :=
  BitVec.ofNat 24 (t.toNat / 32 * 32 + boolBit (bytes.all (· == 0)) * 16)

/-- The checks of 03 R100 on one block of an accepted family. -/
def tagOk (accept : List Nat) (t : BitVec 24) : Bool :=
  t.toNat % 16 == 0 && t.toNat / 2 ^ 16 % 4 == 0 && accept.contains (tagFamily t) &&
  (if tagFamily t = 1 ∨ tagFamily t = 2 then decide (tagPlane t < tagPlanes t) else tagPlanes t == 1 && tagPlane t == 0)

/-! Values of typed blocks (03 R99 R100). -/

/-- The element size of families 3 to 6. -/
def famSize (fam : Nat) : Nat := if fam = 3 then 4 else if fam = 6 then 1 else 2

/-- The value of an element pattern of a family, with its block scale. -/
def famValue (fam : Nat) (e : Int) (v : Nat) : FVal :=
  if fam = 3 then (f32.decode v).scale e
  else if fam = 4 then (bf16.decode v).scale e
  else if fam = 5 then (f16.decode v).scale e
  else (ofIntV (sint 8 v)).scale e

/-- The float format of an output family: 3 f32, else bf16. -/
def famFmt (fam : Nat) : Fmt := if fam = 3 then f32 else bf16

/-! Sub-tiles (03 R95 to R97). -/

/-- The K groups and integers of one sub-tile as read with `k` of its planes: element (r, c) is `ints[32 r + c]` times 2 to
the power `exp`; `half` is the exponent of the half-width of the interval when k < P (10 R306), and `full` says k = P. -/
structure SubTile where
  fam : Nat
  p : Nat
  k : Nat
  exp : Int
  ints : List Int
  full : Bool
  mismatch : Bool
  deriving DecidableEq, Repr, Inhabited

/-- The planes of a sub-tile that a read takes: min (k, P), all for k = 0. -/
def planesRead (k p : Nat) : Nat := if k = 0 ∨ p < k then p else k

/-- The bits of a plane block as one number; a block with Z reads as zeros (03 R100). -/
def planeBits (b : List Byte × BitVec 24) : Nat := if tagZ b.2 then 0 else ofBytes b.1

/-- The integer of element `i` from planes P - 1 downward (03 R95 R97). -/
def planeInt (fam p : Nat) (planes : List Nat) (i : Nat) : Int :=
  let k := planes.length
  let t := planes.foldl (fun t n => 2 * t + n / 2 ^ i % 2) 0
  let v : Int := if fam = 1 then sint k t else (t : Int)
  if k = p then v else 2 * v + 1

/-- The block of plane j of a sub-tile carries a tag that 03 R100 accepts at its position. -/
def planeTagOk (top t : BitVec 24) (j : Nat) : Bool :=
  tagOk [1, 2] t && tagFamily t == tagFamily top && tagPlanes t == tagPlanes top && tagPlane t == j

/-- A sub-tile from its blocks, plane P - 1 first; none for a tag that is not accepted. `k` is the number of planes asked
for. -/
def readSub (k : Nat) (blocks : List (List Byte × BitVec 24)) : Option SubTile :=
  match blocks with
  | [] => none
  | top :: _ =>
    let p := tagPlanes top.2
    let n := planesRead k p
    let bs := blocks.take n
    if (bs.zipIdx.all fun b => planeTagOk top.2 b.1.2 (p - 1 - b.2)) && bs.length == n then
      let planes := bs.map planeBits
      let e := tagScale top.2
      some { fam := tagFamily top.2, p := p, k := n, exp := if n = p then e else e + p - n - 1,
             ints := (List.range 512).map (planeInt (tagFamily top.2) p planes), full := n == p,
             mismatch := bs.any fun b => tagScale b.2 != e }
    else none

/-- The value of element `i` of a sub-tile. -/
def SubTile.value (t : SubTile) (i : Nat) : FVal := (ofIntV (t.ints.getD i 0)).scale t.exp

/-- The 64 bytes of plane j of 512 integers (03 R96). -/
def planeBlock (ints : List Int) (j : Nat) : List Byte :=
  toBytes 64 ((ints.zipIdx.map fun x => wrap 8 x.1 / 2 ^ j % 2 * 2 ^ x.2).sum)

/-- The address of the block of plane j of sub-tile s. -/
def planeAddr (base : Word) (p nb s j : Nat) : Word := base + BitVec.ofNat 64 (((p - 1 - j) * nb + s) * 64)

/-! Quantisation (03 R102). -/

/-- The range of the integers that quantisation gives. -/
def quantRange (fam p : Nat) : Int × Int := if fam = 1 then (-(2 ^ (p - 1) - 1), 2 ^ (p - 1) - 1) else (0, 2 ^ p - 1)

/-- The least scale whose rounded largest magnitude fits, clamped to an i8. -/
def quantScale (L : Int) (vals : List FVal) : Int :=
  let big := vals.foldl (fun (a : FVal) v => match v with
    | .fin _ m e => if m = 0 then a else if a.lt (.fin false m e) then .fin false m e else a
    | _ => a) (.fin false 0 0)
  match big with
  | .fin _ m e =>
    if m = 0 then 0 else
    let start := e + bitLen m - bitLen L.natAbs - 2
    let least := ((List.range 16).map fun i => start + i).find? fun x => roundInt 0 false m (e - x) ≤ L
    clampInt (least.getD start) (-128) 127
  | _ => 0

/-- One quantised element, with its events. -/
def quantOne (lo L e : Int) : FVal → Int × Flags
  | .nan _ => (0, { noFlags with invalid := true })
  | .inf n => (if n then lo else L, { noFlags with sat := true })
  | .fin n m x =>
    let v := roundInt 0 n m (x - e)
    let c := clampInt v lo L
    (c, { noFlags with sat := decide (c ≠ v) })

/-- Quantises the 512 values of a sub-tile: scale, integers and events. -/
def quantiseSub (fam p : Nat) (vals : List FVal) : Int × List (Int × Flags) :=
  let r := quantRange fam p
  let e := quantScale r.2 vals
  (e, vals.map (quantOne r.1 r.2 e))

end Sys2Proof.Machine
end

