-- ==== Sys2Proof/Machine/EngineMem.lean ====
section
/-! DEFINITION. What the engines share when they run: how an access of theirs ends, blocks read and written, the commit of
a unit of work with its log entries, and what starts a command (01 R24 R28 R35, 04 R118 R119, 08 R245 to R252 R265, 12 R361
R365 R374). -/

namespace Sys2Proof.Machine

noncomputable section

abbrev EngEnds := Host.Outcome State Fault Refusal

/-! How an access ends. -/

/-- A resolvable fault of an engine's access: it is posted, and the unit of work waits (04 R119, 14 R436). -/
def engineFault (q : Nat) (c : Cmd) (cause : BitVec 8) (va : Word) (kind : AKind) (s : State) : State :=
  let f : PendingFault := ⟨va, cause, kind.code, c.pc, 5, none⟩
  match postRing s s.core.partOf 1 false (tfEntry s f (q + 1)) with
  | (.done i, s) => s.modEng fun g => { g with faults := vset g.faults q (some { f with ring := some i }) }
  | (_, s) => s.modEng fun g => { g with faults := vset g.faults q (some f) }

/-- A translation fault of an append that an engine makes: it stalls the strand, as a fault of its own store (12 R355). -/
def appendFault (cause : BitVec 8) (va : Word) (s : State) : State :=
  if s.core.fault.isSome then s else strandFault cause va .write s

/-- Goes on with the value of an engine's access, or ends the unit of work as the access does. -/
def Act.eng {α : Type} (a : Act α) (q : Nat) (c : Cmd) (kind : AKind) (f : α → State → EngEnds) : EngEnds :=
  match a with
  | .ok v s => f v s
  | .trap cause v s => .next (faultHead q cause v s)
  | .fault cause v s => .next (engineFault q c cause v kind s)
  | .wait s => .next s

/-- Records of engines name a scope (08 R251, 07 R239): 0 and 3 die, 1 core, 2 cluster, 4 package, 5 system. -/
def scopeCode (v : Nat) : Nat := match v with | 0 => 2 | 1 => 0 | 2 => 1 | 3 => 2 | 4 => 3 | _ => 4

/-- The tier policy FAULT is 2 in every record (08 R251, 09 R276). -/
def cmdAgent (s : State) (scope tier : Nat) : Agent := engineAgent s scope (tier == 2)

/-! Blocks read. -/

def blockOf (a : Word) : Word := BitVec.ofNat 64 (a.toNat / 64 * 64)

/-- The tag a far block carries through a shape (08 R249, 04 R124). -/
def Shape.farTag (h : Shape) (plane : Nat) : BitVec 24 :=
  if h.dten then BitVec.ofNat 24 (h.dfmt * 2 ^ 16 + h.dscale * 2 ^ 8 + plane % 8 * 32) else 0

/-- Each address once in a run of equal ones: one request per block in element order (08 R262; log 31). -/
def oneEach : List Word → List Word
  | [] => []
  | [a] => [a]
  | a :: b :: r => if a = b then oneEach (b :: r) else a :: oneEach (b :: r)

/-- Finds blocks without an access. -/
def locateBlocks (ag : Agent) (k : AKind) (vas : List Word) (s : State) : Act (List (Word × Loc)) :=
  Act.mapM (fun a s => (locate ag k true a s).map fun l => (a, l)) vas s

/-- Reads one block that was found; `far` gives the tag of a far one. -/
def takeBlock (ag : Agent) (unit : Nat) (pc : Word) (far : Word → BitVec 24) (x : Word × Loc) (s : State) : EBlock × State :=
  let s := noteAccess s ag.core none ag.scope x.2.key false
  let md := s.mdata x.2.key
  let p := md.getLsbD 24
  if x.2.far then
    let s := s.countFar (dieOf ag.core) ag.part x.1 1
    (⟨x.1, true, s.peek x.2.key 64, far x.1, p⟩, if p then s.reportCxl unit pc x.1 else s)
  else (⟨x.1, false, s.peek x.2.key 64, md.setWidth 24, p⟩, s)

/-- Reads blocks that were found, in request order. -/
def takeBlocks (ag : Agent) (unit : Nat) (pc : Word) (far : Word → BitVec 24) : List (Word × Loc) → State → List EBlock × State
  | [], s => ([], s)
  | x :: r, s =>
    let b := takeBlock ag unit pc far x s
    let t := takeBlocks ag unit pc far r b.2
    (b.1 :: t.1, t.2)

/-- The blocks by address. -/
def blockMap (bs : List EBlock) : SMap EBlock := bs.foldl (fun m b => sput m b.va.toNat b) []

/-- The block that holds an address. -/
def blockAt (m : SMap EBlock) (a : Word) : EBlock := sget m default (a.toNat / 64 * 64)

/-- `n` bytes inside one block. -/
def EBlock.at (b : EBlock) (a : Word) (n : Nat) : List Byte := slice b.bytes (a.toNat % 64) n

/-- Finds and reads the blocks of a list of addresses, one request per run. -/
def readBlocks (ag : Agent) (unit : Nat) (pc : Word) (far : Word → BitVec 24) (addrs : List Word) (s : State) : Act (SMap EBlock) :=
  (locateBlocks ag .read (oneEach (addrs.map blockOf)) s).bind fun ls s =>
    let r := takeBlocks ag unit pc far ls s
    .ok (blockMap r.1) r.2

/-! Blocks written. -/

/-- A block as an engine leaves it: its place, its 64 bytes and its metadata. -/
structure BWrite where
  va : Word
  loc : Loc
  bytes : List Byte
  mdata : BitVec 25
  deriving DecidableEq, Repr, Inhabited

/-- An element to be written inside one block: its bytes, the tag of the block that supplies it, and poison. -/
structure EElem where
  dst : Word
  bytes : List Byte
  src : Option (BitVec 24)
  poison : Bool
  deriving DecidableEq, Repr, Inhabited

/-- An element in the parts of it that lie in one block each. -/
def EElem.parts (e : EElem) : List EElem :=
  let k := 64 - e.dst.toNat % 64
  if e.bytes.length ≤ k then [e] else [{ e with bytes := e.bytes.take k }, { e with dst := e.dst + BitVec.ofNat 64 k, bytes := e.bytes.drop k }]

/-- The elements of each destination block, blocks in address order, elements in element order. -/
def byBlock (es : List EElem) : List (Word × List EElem) :=
  let m := es.foldl (fun (m : SMap (List EElem)) e =>
    let b := e.dst.toNat / 64 * 64
    sput m b (sget m [] b ++ [e])) []
  m.map fun x => (BitVec.ofNat 64 x.1, x.2)

/-- The last element that writes each byte of a block. -/
def owners (es : List EElem) : SMap EElem :=
  es.foldl (fun m e => (List.range e.bytes.length).foldl (fun m i => sput m (e.dst.toNat % 64 + i) e) m) []

/-- What a written block's tag comes from: the elements' source tags and the old tag. -/
inductive TagRule where
  | inherit
  | fixed (t : BitVec 24)
  | keep
  deriving DecidableEq, Repr

/-- The tag of a written block but for Z (08 R252). -/
def TagRule.tag (r : TagRule) (own : SMap EElem) (old : BitVec 24) : BitVec 24 :=
  match r with
  | .inherit => (own.findSome? fun x => x.2.src).getD 0
  | .fixed t => t
  | .keep => old

/-- The poison bit of a written block (08 R252). -/
def writtenPoison (poison full old : Bool) : Bool := poison || (!full && old)

def mkMdata (tag : BitVec 24) (poison : Bool) : BitVec 25 := BitVec.ofNat 25 (tag.toNat + boolBit poison * 2 ^ 24)

/-- A block with elements written into it. -/
def writeElems (r : TagRule) (x : Word × Loc) (es : List EElem) (s : State) : BWrite :=
  let old := s.peek x.2.key 64
  let md := s.mdata x.2.key
  let bytes := es.foldl (fun b e => splice b (e.dst.toNat % 64) e.bytes) old
  let own := owners es
  let tag := withZ (r.tag own (md.setWidth 24)) bytes
  ⟨x.1, x.2, bytes, mkMdata tag (writtenPoison (es.any fun e => e.poison) (own.length == 64) (md.getLsbD 24))⟩

/-- Finds the destination blocks of elements for writing. -/
def locateElems (ag : Agent) (es : List EElem) (s : State) : Act (List ((Word × Loc) × List EElem)) :=
  let bs := byBlock es
  (locateBlocks ag .write (bs.map Prod.fst) s).map fun ls => ls.zip (bs.map Prod.snd)

/-- A block written whole, with a given tag and poison. -/
def wholeBlock (x : Word × Loc) (bytes : List Byte) (tag : BitVec 24) (poison : Bool) : BWrite := ⟨x.1, x.2, bytes, mkMdata tag poison⟩

/-- Performs one block write; false: its dirty bit cannot be set. Far memory keeps no tag (04 R124). -/
def performBlock (ag : Agent) (w : BWrite) (s : State) : State :=
  let s := noteAccess s ag.core none ag.scope w.loc.key true
  let s := if w.loc.far then s.countFar (dieOf ag.core) ag.part w.va 1 else s
  (s.poke w.loc.key w.bytes).setMdata w.loc.key (if w.loc.far then BitVec.ofNat 25 (w.mdata.toNat / 2 ^ 24 * 2 ^ 24) else w.mdata)

/-! The log of engine writes (12 R361). -/

/-- Runs of at most 512 consecutive blocks, near and far apart. -/
def tileRuns : List BWrite → List (List BWrite)
  | [] => []
  | w :: r => match tileRuns r with
    | (v :: vs) :: t => if v.va = w.va + 64 && v.loc.far == w.loc.far && decide (vs.length + 1 < 512) then (w :: v :: vs) :: t else [w] :: (v :: vs) :: t
    | t => [w] :: t

/-- The TILE entry of a run, from the state before its writes. -/
def tileEnt (q : Nat) (c : Cmd) (step : List Byte) (s : State) (run : List BWrite) : LogEnt :=
  let far := run.any fun w => w.loc.far
  let md := fun (w : BWrite) => if w.loc.far then w.mdata.toNat / 2 ^ 24 * 2 ^ 24 else w.mdata.toNat
  let new := run.flatMap (fun w => w.bytes) ++ run.flatMap fun w => toBytes 4 (md w)
  let old := run.flatMap (fun w => s.peek w.loc.key 64) ++ run.flatMap fun w => toBytes 4 (s.mdata w.loc.key).toNat
  { kind := Ent.tile, flags := 2 * boolBit far, src := 6 + 8 * q, win := c.win, pc := c.pc,
    body := step ++ b8 ((run.headD default).va) ++ toBytes 4 run.length ++ toBytes 4 (crc32c new) ++ pad16 old }

/-- The entries of a commit of position: `adv` moves the progress block. -/
def tileEnts (q : Nat) (c : Cmd) (ws : List BWrite) (adv : State → State) (s : State) : List LogEnt :=
  let t := adv s
  let step := b8 (t.prog q 3) ++ b8 (t.prog q 4)
  (tileRuns (sortOn (fun w : BWrite => w.va.toNat) ws)).map (tileEnt q c step s)

/-- LOGMODE.MODE is FULL. -/
def State.logFull (s : State) : Bool := bits s.core.log.mode 0 2 == 2

/-- The recorded TILE and IRREV entries of a command that no commit has matched yet, with their places (12 R374). -/
def tileRecords (q : Nat) (c : Cmd) (used : List Nat) (s : State) : List (Nat × LogEnt) :=
  let l := s.core.log
  (logEntries s (l.head.toNat / 16 + 1) l.tail.toNat l.head.toNat).filterMap fun x =>
    if (x.2.1.kind == Ent.tile || x.2.1.kind == Ent.irrev) && x.2.1.src == 6 + 8 * q && x.2.1.win == c.win && x.2.1.pc == c.pc && !used.contains x.1
    then some (x.1, x.2.1) else none

/-- Entries of the engines' commits that a replay has passed and that no commit has matched, once no command is left: the first of them is left
over (12 R374). -/
def tileLeft (rp : Replay) (s : State) : Option (Word × Word × Word × Word) :=
  let l := s.core.log
  let stop := if rp.until_ = 0 then l.head.toNat else l.cur.toNat
  ((logEntries s (l.head.toNat / 16 + 1) rp.start stop).find? fun x =>
    x.2.1.src % 8 == 6 && (x.2.1.kind == Ent.tile || x.2.1.kind == Ent.irrev) && !rp.used.contains x.1).map fun x =>
      if x.2.1.kind = Ent.tile then (x.2.1.pc, fw x.2.1.body 16, BitVec.ofNat 64 (field x.2.1.body 28 4), 0)
      else (x.2.1.pc, fw x.2.1.body 8, fw x.2.1.body 24, 0)

/-- The first entry of a commit that differs from its record: ADDR, NBLK, CRC and IRR must match. -/
def tileDiff : List LogEnt → List (Nat × LogEnt) → Option (Word × Word × Word × Word)
  | [], _ => none
  | e :: _, [] => some (e.pc, fw e.body 16, 0, BitVec.ofNat 64 (field e.body 28 4))
  | e :: es, r :: rs =>
    if e.kind = r.2.kind ∧ slice e.body 16 16 = slice r.2.body 16 16 ∧ e.flags = r.2.flags then tileDiff es rs
    else some (e.pc, fw e.body 16, BitVec.ofNat 64 (field r.2.body 28 4), BitVec.ofNat 64 (field e.body 28 4))

/-! The commit of a unit of work. -/

/-- The dirty bits of the pages of the writes; false as soon as one cannot be set. -/
def dirtyAll (ag : Agent) (ws : List BWrite) (s : State) : Bool × State := markDirty s ag.part (ws.map fun w => w.loc.key)

/-- Commits a unit of work of queue `q`: its log entries, with `extra` ones in MEM and FULL, its block writes, then its position.
While the log has no room or a dirty bit cannot be set, nothing of the unit is performed (12 R361 R365, 04 R127 R128). In a replay the entries are
matched and far writes are not performed (12 R374). -/
def commitShown (q : Nat) (c : Cmd) (ag : Agent) (ws : List BWrite) (extra : List LogEnt) (shown adv : State → State) (s : State) : EngEnds :=
  match dirtyAll ag ws s with
  | (false, s) => .next s
  | (true, s) =>
    let ents := (if s.logFull then tileEnts q c ws shown s else []) ++ (if bits s.core.log.mode 0 2 = 0 then [] else extra)
    match s.core.replay with
    | some rp =>
      let recs := tileRecords q c rp.used s
      match tileDiff ents recs with
      | some d => .next { s with core := { s.core with replay := some { rp with diverged := some (rp.diverged.getD d) } } }
      | none =>
        let s := { s with core := { s.core with replay := some { rp with used := rp.used ++ (recs.take ents.length).map Prod.fst } } }
        .next (adv ((ws.filter fun w => !w.loc.far).foldl (fun s w => performBlock ag w s) s))
    | none =>
      if ents.isEmpty then .next (adv (ws.foldl (fun s w => performBlock ag w s) s))
      else match logReady ents s with
        | (none, s1) => .next (adv ((ents.foldl logAppend (ws.foldl (fun s w => performBlock ag w s) s1)).modWork q fun w => { w with logWait := false }))
        | (some (.trap cause a), s1) => .next (faultHead q cause a s1)
        | (some (.fault cause a), s1) => .next (appendFault cause a s1)
        | (some .blocked, s1) => .next (s1.modWork q fun w => { w with logWait := true })

/-- A commit whose entries show the block that it leaves. -/
def commitWith (q : Nat) (c : Cmd) (ag : Agent) (ws : List BWrite) (extra : List LogEnt) (adv : State → State) (s : State) : EngEnds :=
  commitShown q c ag ws extra adv adv s

/-- The commit of a unit without irreversible effects of its own. -/
def commitUnit (q : Nat) (c : Cmd) (ag : Agent) (ws : List BWrite) (adv : State → State) (s : State) : EngEnds :=
  commitWith q c ag ws [] adv s

/-! Checks of captured shapes (08 R247 to R249). -/

/-- The least and greatest byte address of the elements. -/
def Shape.reach (h : Shape) : Int × Int :=
  let ends := (List.range h.rank).foldl (fun (acc : Int × Int) k =>
    let e := h.extent k
    let lo : Int := if h.wen && k == h.wdim then (if h.wmod < h.wpos + e then 0 else h.wpos) else 0
    let hi : Int := if h.wen && k == h.wdim then (if h.wmod < h.wpos + e then h.wmod - 1 else h.wpos + e - 1) else e - 1
    let a := lo * h.stride k
    let b := hi * h.stride k
    (acc.1 + min a b, acc.2 + max a b)) ((h.base.toNat : Int), (h.base.toNat : Int))
  (ends.1, ends.2 + h.ebytes - 1)

/-- A malformed descriptor (08 R247 R248). -/
def Shape.malformed (h : Shape) (planarOk : Bool) : Bool :=
  let used := List.range h.rank
  decide (4 < h.esize) || bits (h.word 7) 6 2 != 0 || used.any (fun k => h.extent k == 0) ||
  decide (6 < h.rank) || (List.range 6).any (fun k => decide (h.rank ≤ k) && h.word (k + 1) != 0) ||
  (h.wen && (decide (h.rank ≤ h.wdim) || h.wmod == 0 || decide (h.wmod ≤ h.wpos) || decide (h.wmod < h.extent h.wdim))) ||
  (h.ten && !isOwn h.base) ||
  (if h.planar then !planarOk || h.base.toNat % 64 != 0 || used.any (fun k => h.stride k != 0) || h.wen || h.rows % 16 != 0 || h.cols % 32 != 0
   else h.base.toNat % h.ebytes != 0 || used.any fun k => h.stride k % (h.ebytes : Int) != 0)

/-- The bytes from `lo` to `hi` lie in the region of `base`: none, or COPY_RANGE, or what the base itself raises. -/
def spanFault (s : State) (base : Word) (lo hi : Int) : Option (BitVec 8) :=
  match region base with
  | .bad => some Cause.noncanonical
  | .cluster _ _ => some Cause.apertureAccess
  | .glob => if 0 ≤ lo ∧ hi < 2 ^ 56 then none else some Cause.copyRange
  | .own _ => if 0xF0 * 2 ^ 56 ≤ lo ∧ hi < 0xF0 * 2 ^ 56 + s.core.spadSize then none else some Cause.copyRange

/-- The `n` bytes of an area that is no shape, such as a workspace: in the global aperture, or in the own scratchpad (04 R113 R114). -/
def areaFault (s : State) (base : Word) (n : Nat) : Option (BitVec 8) :=
  match region base with
  | .bad => some Cause.noncanonical
  | .cluster _ _ => some Cause.apertureAccess
  | .glob => if base.toNat + n ≤ 2 ^ 56 then none else some Cause.noncanonical
  | .own off => if off + n ≤ s.core.spadSize then none else some Cause.apertureAccess

/-- The bytes of a planar operand's `p` leading planes stay in its region. -/
def planarSpan (s : State) (h : Shape) (p : Nat) : Option (BitVec 8) :=
  spanFault s h.base h.base.toNat (h.base.toNat + p * subTiles h.rows h.cols * 64 - 1)

/-- What a shape raises when its command starts: SHAPE_INVALID, SHAPE_RANGE for more than 2^40 elements, then its region;
`planes` are the planes of a planar operand that are known to be used. -/
def shapeFault (s : State) (h : Shape) (planarOk : Bool) (planes : Nat) : Option (BitVec 8) :=
  if h.malformed planarOk then some Cause.shapeInvalid
  else if 2 ^ 40 < h.count then some Cause.shapeRange
  else if h.planar then planarSpan s h planes
  else spanFault s h.base h.reach.1 h.reach.2

/-- The first fault of a list of checks. -/
def firstFault (l : List (Option (BitVec 8))) : Option (BitVec 8) := l.findSome? id

/-- A condition that must hold, or the cause. -/
def need (b : Bool) (cause : BitVec 8) : Option (BitVec 8) := if b then none else some cause

/-- The tile fault of a shape (01 R35, 08 R249): an undefined tile, a phase tile, or a box beyond its tile. -/
def shapeTile (s : State) (c : Cmd) (h : Shape) : Option (BitVec 8) :=
  let t := s.core.tiles.get h.tile
  let base := 0xF0 * 2 ^ 56 + t.base.toNat * 64
  if !h.ten then none
  else if t.size = 0 then some Cause.tileUndefined
  else if t.owner.toNat ≤ 4 ∧ t.owner.toNat ≠ engineCode c.instr then some Cause.tileState
  else if h.box.1 < base ∨ base + t.size.toNat * 64 < h.box.2 then some Cause.tileUndefined
  else none

/-- CCOPY and CTRANS take no planar shape, and check that before anything else of their shapes (08 R253). -/
def noPlanar : Instr → Bool
  | .ccopy .. | .ctrans .. => true
  | _ => false

/-- Tile faults of a command's shapes. A malformed shape among them is SHAPE_INVALID instead (08 R247). -/
def tileFault (s : State) (c : Cmd) : Option (BitVec 8) :=
  let used := (((shapeFields c.instr).zip c.shapes).filter fun x =>
    let role := shapeRole c.instr (peekRecord s c.instr c.preg) x.1.1
    role.1 || role.2).map Prod.snd
  (used.findSome? (shapeTile s c)).map fun cause =>
    if used.any fun h => h.malformed (!noPlanar c.instr) then Cause.shapeInvalid else cause

/-! Records. -/

/-- Reads the `n` bytes of a parameter record at x[PREG], aligned to `al` (02 R60, 01 R28): PREG x0 is `dflt`, or
PARAM_RECORD without one. A poisoned record is data that the command consumes (05 R150). -/
def readRecord (c : Cmd) (n al : Nat) (dflt : Option (List Byte)) (s : State) : Act (List Byte) :=
  if pregOf c.instr = 0 then
    match dflt with
    | some d => .ok d s
    | none => .trap Cause.paramRecord 0 s
  else if c.preg.toNat % al ≠ 0 then .trap Cause.paramRecord c.preg s
  else (readDirect (engineAgent s 2 false) c.preg n s (unit := engineCode c.instr + 1)).bind fun ps s => .ok (bytesOf ps) (consumePieces ps s)

/-- Continues when no check fails. -/
def passes (f : Option (BitVec 8)) (s : State) (k : State → Act State) : Act State :=
  match f with
  | some cause => .trap cause 0 s
  | none => k s

/-- A double buffer of a sequencer: two tiles of its engine with equal sizes of at least `least` bytes. -/
def phasePair (s : State) (q least a b : Nat) : Option (BitVec 8) :=
  let t := s.core.tiles.toList.getD a zeroTile
  let u := s.core.tiles.toList.getD b zeroTile
  if t.size = 0 ∨ u.size = 0 then some Cause.tileUndefined
  else if t.owner.toNat ≠ q ∨ u.owner.toNat ≠ q ∨ t.size ≠ u.size ∨ t.size.toNat * 64 < least then some Cause.tileState
  else none

/-- The running command of a queue whose engine may go on: no fault of it is pending. -/
def State.engineReady (s : State) (q : Nat) : Option Cmd :=
  if (s.core.eng.faults.toList.getD q none).isSome then none else s.runningCmd q

/-- Adds to the counts of the running command. -/
def State.addCounts (s : State) (q : Nat) (n : Counts) : State := s.modWork q fun w => { w with counts := w.counts.add n }

/-- The census counts of one rounded result (09 R301, 12 R378). -/
def countOf (t : Fmt) (v : Nat) (f : Flags) : Counts :=
  let nan := (t.decode v).isNan
  let inf := match t.decode v with | .inf _ => true | _ => false
  ⟨boolBit nan, boolBit inf, boolBit f.sat, boolBit f.under, 0⟩

def sumCounts (l : List Counts) : Counts := l.foldl Counts.add zeroCounts

end

end Sys2Proof.Machine
end

