-- ==== Sys2Proof/Machine/Sync.lean ====
section
/-! DEFINITION. Fences, promotion, prefetch, flush, barriers, stage queues and messages of the L slot (06 R200 to R213). -/

namespace Sys2Proof.Machine

noncomputable section

/-- FENCE: in the one order of the model every earlier access is placed already; a fence wider than `core` also ends what L1 keeps
apart from L2 (06 R200, 04 R136; log 7). -/
def execFenceOp (g : Fin 8) (sc : Fin 5) (s : State) : Ends :=
  slotOp (.fenceOp g sc) s fun s => .next (if sc.val = 0 then s else s.releaseL1)

/-- SINFO.STEAL (05 R151). -/
def Core.steals (c : Core) : Bool := bitAt c.sinfo 48

/-- PROMOTE: its checks in order (06 R201). It is an access to its block at its scope, before which every access to the block inside
that instance has its place (04 R145, 12 R386; log 7). -/
def execPromote (g : Fin 8) (sc : Fin 4) (b : Fin 64) (disp : Fin 4096) (s : State) : Ends :=
  slotOp (.promote g sc b disp) s fun s =>
    let va := s.ea b disp 64
    if !s.core.steals then trapOut 12 Cause.promoteDenied 0 0 s
    else match region va with
      | .bad => trapOut 12 Cause.noncanonical va 0 s
      | .glob => (translate (strandAgent s sc.val) .read (blockBase va) s).out .read fun l s =>
        .next ((noteAccess s s.core.id (some s.core.id) sc.val l.key false).cleanBlock (sameInstance sc.val s.core.id) l.key)
      | _ => trapOut 12 Cause.apertureAccess va 0 s

/-- PREFETCH never faults; a prefetch of a monitored far page counts (06 R202). -/
def execPrefetch (g : Fin 8) (l2 : Fin 2) (b : Fin 64) (disp : Fin 4096) (s : State) : Ends :=
  slotOp (.prefetch g l2 b disp) s fun s =>
    let va := s.ea b disp 64
    match region va with
    | .glob =>
      if va.toNat % 64 ≠ 0 then .next s else
      match translate s.agent .read va s with
      | .ok l s => .next (if l.far then s.countFar (dieOf s.core.id) s.core.partOf va 1 else s)
      | a => .next a.state
    | _ => .next s

/-- CFLUSH: checked as a read, but the cluster aperture admits none (04 R114); its effect is held until the window closes (06
R203). -/
def cflush (i : Instr) (kind : Fin 3) (b : Fin 64) (disp : Fin 4096) (s : State) : Ends :=
  slotOp i s fun s =>
    let va := s.ea b disp 64
    (locatePieces s.agent .read false none 64 [(va, 64)] s).out .read fun ls s =>
      match ls with
      | [] => .next s
      | x :: _ => .next (if isOwn va then s else s.modWin fun w => { w with held := w.held ++ [.flush kind x.2.2.key] })

def execCflushWb (g : Fin 8) (b : Fin 64) (disp : Fin 4096) (s : State) : Ends := cflush (.cflushWb g b disp) 0 b disp s
def execCflushInv (g : Fin 8) (b : Fin 64) (disp : Fin 4096) (s : State) : Ends := cflush (.cflushInv g b disp) 1 b disp s
def execCflushMem (g : Fin 8) (b : Fin 64) (disp : Fin 4096) (s : State) : Ends := cflush (.cflushMem g b disp) 2 b disp s

/-! Barriers (06 R204 to R206). -/

/-- The index operand (06 R188). -/
def State.index (s : State) (b : Fin 64) (disp : Fin 4096) : Nat := (s.x b + sext64 12 disp.val).toNat

/-- Object `i` of a core's cluster. -/
def barrierKey (core i : Nat) : Nat := 32 * clusterId core + i
def zeroBarrier : Barrier := ⟨0, 0, 0⟩
def State.barrier (s : State) (k : Nat) : Barrier := sget s.dev.barriers zeroBarrier k
def State.setBarrier (s : State) (k : Nat) (b : Barrier) : State :=
  { s with dev := { s.dev with barriers := sset s.dev.barriers zeroBarrier k b } }

def execBarinit (g : Fin 8) (d b : Fin 64) (disp : Fin 4096) (s : State) : Ends :=
  slotOp (.barinit g d b disp) s fun s =>
    let i := s.index b disp
    let n := (s.x d).toNat
    let k := barrierKey s.core.id i
    if 31 < i ∨ n = 0 ∨ 1024 < n ∨ (s.barrier k).arrived ≠ 0 then trapOut 12 Cause.barrierMisuse 0 0 s
    else .next (s.setBarrier k { s.barrier k with expect := n, arrived := 0 })

/-- The arrival at a barrier (06 R205). -/
def Barrier.arrive (v : Barrier) : Barrier :=
  if v.arrived + 1 = v.expect then { v with arrived := 0, gen := v.gen + 1 } else { v with arrived := v.arrived + 1 }

/-- BARARR returns GEN and arrives, every earlier access having its place in A_cluster; GEN is an input of FULL (12 R362). -/
def execBararr (g : Fin 8) (d b : Fin 64) (disp : Fin 4096) (s : State) : Ends :=
  slotOp (.bararr g d b disp) s fun s =>
    let i := s.index b disp
    let k := barrierKey s.core.id i
    if 31 < i then trapOut 12 Cause.barrierMisuse 0 0 s
    else withInput 6 s
      (fun s =>
        let v := s.barrier k
        if v.expect = 0 then trapOut 12 Cause.barrierMisuse 0 0 s
        else xresult none d (v.gen.setWidth 64)
          (((s.setBarrier k v.arrive).releaseL1.modWin fun w => { w with acted := true }).recordInput 6 (n8 v.gen.toNat)))
      (fun v s => xresult none d (fw v 0) s)

/-- GEN has passed the awaited generation (06 R206). -/
def genReached (gen want : W32) : Bool := decide (0 ≤ (gen - want).toInt)

def execBarwait (g : Fin 8) (d b : Fin 64) (disp : Fin 4096) (s : State) : Ends :=
  slotOp (.barwait g d b disp) s fun s =>
    let i := s.index b disp
    if 31 < i then trapOut 12 Cause.barrierMisuse 0 0 s
    else if genReached (s.barrier (barrierKey s.core.id i)).gen ((s.x d).setWidth 32 + 1) then .next s
    else stallOut s

/-! Stage queues (06 R207 to R210). -/

/-- The queue of a port, STAGE_INVALID for a port that is not declared or not of the direction used. -/
def portOf (port : Fin 8) (out : Bool) (s : State) : Option (Nat × SQueue) :=
  if decide (4 ≤ port.val) != out then none else
  match s.portQueue port.val with
  | none => none
  | some q => (s.squeue s.core.partOf.val s.core.pipeOf q).map fun v => (q, v)

/-- The entry that QPUSH reads with the strand's view: its bytes and the metadata of its blocks (06 R208). -/
def readEntry (va : Word) (n : Nat) (s : State) : Act (List Byte × List (BitVec 25)) :=
  let ag := strandAgent s (s.queueScope s.core.partOf.val s.core.pipeOf)
  (locatePieces ag .read true none 16 [(va, n)] s).bind fun ls s =>
    if ls.any fun x => (s.viewMdata x.2.2.key).getLsbD 24 then
      .trap Cause.poisonTrap va (ls.foldl (fun s x => s.reportFar 7 s.core.iss.pc x.1 x.2.2) s)
    else (watch [(va, n)] true false s).bind fun _ s =>
      .ok (ls.flatMap (fun x => s.viewBytes x.2.2.key x.2.1), ls.map fun x => s.viewMdata x.2.2.key)
        ((touchRead ag (distinctBlocks ls) s).keepLoads (placesOf ls))

/-- Holds an item of the open window with `n` bytes. -/
def State.holdItem (s : State) (h : Held) (n : Nat) : State := s.modWin fun w => { w with held := w.held ++ [h], bytes := w.bytes + n }

/-- QPUSH reserves a place; the entry is held (06 R208). -/
def execQpush (g : Fin 8) (q : Fin 8) (b : Fin 64) (s : State) : Ends :=
  slotOp (.qpush g q b) s fun s =>
    match portOf q true s with
    | none => trapOut 12 Cause.stageInvalid 0 0 s
    | some (id, v) =>
      (readEntry (s.x b) v.esize s).out .read fun r s =>
        if s.core.replay.isSome then .next (s.holdItem (.push id r.1 r.2 true) v.esize)
        else if v.closed then trapOut 12 Cause.queueClosed 0 0 s
        else match v.reserve with
          | none => trapOut 12 Cause.queueQuota 0 0 s
          | some v' => .next ((s.modQueue s.core.partOf.val s.core.pipeOf id fun _ => v').holdItem (.push id r.1 r.2 v.chipRoom) v.esize)

/-- A pop: claims the oldest unclaimed entry, or answers for an empty queue; `block` marks QPOP (06 R209). Its store has the scope of
the queue (06 R207). A closed queue that holds claimed entries only is empty (log 109). -/
def pop (i : Instr) (block : Bool) (d : Fin 64) (q : Fin 8) (b : Fin 64) (s : State) : Ends :=
  slotOp i s fun s =>
    match portOf q false s with
    | none => trapOut 12 Cause.stageInvalid 0 0 s
    | some (id, v) =>
      let va := s.x b
      let part := s.core.partOf.val
      let pipe := s.core.pipeOf
      let store := fun (bs : List Byte) (s : State) => storeAt (s.queueScope part pipe) none 16 v.esize [(va, bs)] s
      match pieceFault none 16 va v.esize with
      | some c => trapOut 12 c va 0 s
      | none => withInput 4 s
        (fun s =>
          match v.oldest with
          | some e =>
            (store e.bytes s).out .write fun _ s =>
              let s := claimEntry s part pipe id e.seq s.core.id
              let s := s.modWin fun w => { w with held := w.held ++ [.claim id e.seq] }
              xresult none d (BitVec.ofNat 64 e.seq) (s.recordInput 4 (n8 e.seq ++ e.bytes))
          | none =>
            if 0 < v.ringCount then stallOut s
            else if v.closed then
              let r : Word := if block then 0 else BitVec.allOnes 64
              xresult none d r (s.recordInput 4 (b8 r))
            else if block then stallOut s
            else xresult none d 0 (s.recordInput 4 (n8 0)))
        (fun r s =>
          let seq := fw r 0
          if seq = 0 ∨ seq = BitVec.allOnes 64 then xresult none d seq s
          else (store (slice r 8 v.esize) s).out .write fun _ s => xresult none d seq s)

def execQpop (g : Fin 8) (d : Fin 64) (q : Fin 8) (b : Fin 64) (s : State) : Ends := pop (.qpop g d q b) true d q b s
def execQtry (g : Fin 8) (d : Fin 64) (q : Fin 8) (b : Fin 64) (s : State) : Ends := pop (.qtry g d q b) false d q b s

/-! Messages (06 R211 to R213). -/

/-- The ring size of message queue `k` of a core, none for a tile that cannot be a ring. -/
def ringSize (c : Core) (view : Vector Tile 64) (k : Fin 4) : Option Nat :=
  let t := view.toList.getD (60 + k.val) zeroTile
  if t.size = 0 ∨ t.owner ≠ 7 ∨ c.spadSize < (t.base.toNat + t.size.toNat) * 64 then none else some t.size.toNat

/-- The 64 bytes and the metadata that RSEND takes from `va` (06 R212); CXL poison on a far read is reported (04 R124). -/
def readMessage (va : Word) (s : State) : Act (List Byte × BitVec 25) :=
  let ag := s.loadAgent va
  (locatePieces ag .read true none 64 [(va, 64)] s).bind fun ls s =>
    (watch [(va, 64)] true false s).bind fun _ s =>
      .ok (ls.flatMap (fun x => s.viewBytes x.2.2.key x.2.1), (ls.map fun x => s.viewMdata x.2.2.key).headD 0)
        ((touchRead ag (distinctBlocks ls) (ls.foldl (fun s x => s.reportFar 7 s.core.iss.pc x.1 x.2.2) s)).keepLoads (placesOf ls))

def execRsend (g : Fin 8) (d : Fin 64) (k : Fin 4) (b : Fin 64) (s : State) : Ends :=
  slotOp (.rsend g d k b) s fun s =>
    let va := s.x b
    let site := bits (s.x d) 0 4
    let target := coreNumber (clusterId s.core.id) site
    match pieceFault none 64 va 64 with
    | some c => trapOut 12 c va 0 s
    | none =>
      if !s.reachable s.core.id site then trapOut 12 Cause.apertureAccess 0 0 s else
      let t := s.coreAt target
      match ringSize t (if target = s.core.id then t.tileView else t.tiles) k with
      | none => trapOut 12 Cause.mqProtocol 0 0 s
      | some c =>
        if c / 9 = 0 then trapOut 12 Cause.mqProtocol 0 0 s else
        (readMessage va s).out .read fun r s =>
          let key := 9 * k.val + site
          let n := sget s.core.credits 0 key
          let held := s.holdItem (.send target k r.1 r.2) 64
          if s.core.replay.isSome then .next held
          else if n = 0 || s.restoring target then stallOut s
          else .next { held with core := { held.core with credits := sset held.core.credits 0 key (n - 1) } }

/-- The held stores of a received message at `va`, tag and poison included. -/
def storeMessage (va : Word) (bs : List Byte) (md : BitVec 25) (s : State) : Act (List HStore) :=
  ((locatePieces s.agent .write false none 64 [(va, 64)] s).bind fun ls s =>
    (watch [(va, 64)] false true s).bind fun _ s => .ok ls s).map fun ls =>
      ls.map fun x => ({ pc := s.core.iss.pc, slot := s.core.iss.slot, scope := s.scopeNow, size := 64, va := va, key := x.2.2.key,
                         bytes := bs, tag := none, mdata := some md, far := x.2.2.far, cached := false, atom := false, lead := true } : HStore)

/-- The held stores stand; a poisoned message counts. -/
def State.holdMessage (s : State) (hs : List HStore) (md : BitVec 25) : State :=
  if md.getLsbD 24 then (s.hold hs).consume 3 else s.hold hs

/-- RRECV claims the oldest unclaimed message and holds its store, tag and poison included (06 R213). -/
def execRrecv (g : Fin 8) (d : Fin 64) (k : Fin 4) (b : Fin 64) (s : State) : Ends :=
  slotOp (.rrecv g d k b) s fun s =>
    let va := s.x b
    match pieceFault none 64 va 64 with
    | some c => trapOut 12 c va 0 s
    | none =>
      match ringSize s.core s.core.tileView k with
      | none => trapOut 12 Cause.mqProtocol 0 0 s
      | some c =>
        withInput 5 s
          (fun s =>
            let r := s.core.rings.get k
            if r.tail - r.head ≤ r.claimed then stallOut s else
            let sender := r.senders.getD r.claimed 0
            let e := s.core.tileView.toList.getD (60 + k.val) zeroTile
            let key := scratchKey s.core.id ((e.base.toNat + (r.head + r.claimed) % c) * 64)
            let bs := s.peek key 64
            let md := s.mdata key
            (storeMessage va bs md s).out .write fun hs s =>
              let s := s.holdMessage hs md
              let s := { s with core := { s.core with rings := s.core.rings.set k { r with claimed := r.claimed + 1 } } }
              let s := s.modWin fun w => { w with held := w.held ++ [.receive k sender] }
              xresult none d (BitVec.ofNat 64 sender) (s.recordInput 5 (n8 sender ++ bs ++ n8 md.toNat)))
          (fun r s =>
            let md : BitVec 25 := BitVec.ofNat 25 (field r 72 8)
            (storeMessage va (slice r 8 64) md s).out .write fun hs s => xresult none d (fw r 0) (s.holdMessage hs md))

end

end Sys2Proof.Machine
end

