-- ==== Sys2Proof/Machine/Tiles.lean ====
section
/-! DEFINITION. The tile instructions of the L slot (06 R214 R215, 01 R34 R35). -/

namespace Sys2Proof.Machine

noncomputable section

/-- The tile an index operand names, with its entry in the strand's view; TILE_UNDEFINED outside 0 to 63. -/
def withTile (b : Fin 64) (disp : Fin 4096) (s : State) (f : Fin 64 → Tile → Ends) : Ends :=
  let i := s.index b disp
  if h : i < 64 then f ⟨i, h⟩ (s.core.tileView.get ⟨i, h⟩) else trapOut 12 Cause.tileUndefined 0 0 s

/-- Adds a pending change, which takes its place in the window's order (06 R214). -/
def State.tileChange (s : State) (c : TileChange) : State :=
  ({ s with core := { s.core with ttPend := s.core.ttPend ++ [c] } }).modWin fun w => { w with held := w.held ++ [Held.tile c] }

/-- A window holds a message for ring `k` of core `t`. -/
def Core.sends (c : Core) (t k : Nat) : Bool := c.win.held.any fun h => match h with
  | .send u q _ _ => u == t && q.val == k
  | _ => false

/-- A message ring in use: it holds a message, or some credit for it is outstanding (06 R211). A credit is outstanding from the
RSEND that spends it until its message's slot is freed: while a window holds the message, then while the ring does. -/
def ringBusy (s : State) (k : Nat) : Bool :=
  let r := s.core.rings.toList.getD k ⟨0, 0, 0, []⟩
  r.head != r.tail || (List.range 9).any fun site => (s.coreAt (coreNumber (clusterId s.core.id) site)).sends s.core.id k

def execTtdef (g : Fin 8) (d b : Fin 64) (disp : Fin 4096) (s : State) : Ends :=
  slotOp (.ttdef g d b disp) s fun s => withTile b disp s fun i t =>
    let w := Tile.ofWord (s.x d)
    let new : Tile := { w with state := .empty, phase := false, readers := 0 }
    if t.state ≠ .empty ∨ w.owner = 5 ∨ w.owner = 6 ∨ s.core.spadSize < (w.base.toNat + w.size.toNat) * 64 then
      trapOut 12 Cause.tileState 0 0 s
    else if decide (60 ≤ i.val) && ringBusy s (i.val - 60) then trapOut 12 Cause.mqProtocol 0 0 s
    else .next (s.tileChange (.define i new))

/-- What a release raises: TILE_UNDEFINED for an undefined entry, TILE_STATE for a phase tile or one that is EMPTY or
FILLING (01 R35, 06 R215; log 22). -/
def releaseFault (t : Tile) : Option (BitVec 8) :=
  if t.size = 0 then some Cause.tileUndefined
  else if t.owner.toNat ≤ 4 then some Cause.tileState
  else match t.state with
    | .empty | .filling => some Cause.tileState
    | _ => none

/-- A release by TTREL or TTSET. -/
def releaseTile (i : Instr) (b : Fin 64) (disp : Fin 4096) (s : State) : Ends :=
  slotOp i s fun s => withTile b disp s fun k t =>
    match releaseFault t with
    | some c => trapOut 12 c 0 0 s
    | none => .next (s.tileChange (.release k))

def execTtrel (g : Fin 8) (b : Fin 64) (disp : Fin 4096) (s : State) : Ends := releaseTile (.ttrel g b disp) b disp s
/-- `ttset.empty` acts as TTREL. -/
def execTtsetEmpty (g : Fin 8) (b : Fin 64) (disp : Fin 4096) (s : State) : Ends := releaseTile (.ttsetEmpty g b disp) b disp s

/-- `ttset.ready` moves EMPTY to READY without toggling PHASE and leaves READY unchanged. -/
def execTtsetReady (g : Fin 8) (b : Fin 64) (disp : Fin 4096) (s : State) : Ends :=
  slotOp (.ttsetReady g b disp) s fun s => withTile b disp s fun i t =>
    if t.size = 0 then trapOut 12 Cause.tileUndefined 0 0 s
    else if t.owner.toNat ≤ 4 ∨ t.state = .filling ∨ t.state = .draining then trapOut 12 Cause.tileState 0 0 s
    else .next (s.tileChange (.setReady i))

def execTtstat (g : Fin 8) (d b : Fin 64) (disp : Fin 4096) (s : State) : Ends :=
  slotOp (.ttstat g d b disp) s fun s => withTile b disp s fun _ t => xresult none d t.word s

end

end Sys2Proof.Machine
end

