-- ==== Sys2Proof/Machine/Tx.lean ====
section
/-! DEFINITION. Transactions (12 R382 to R388). -/

namespace Sys2Proof.Machine

noncomputable section

/-- TXSTATE of a transaction that begins. -/
def txBegun (k : Fin 8) (sc : Fin 4) : Word := BitVec.ofNat 64 (1 + sc.val * 8 + k.val * 32)

/-- TXBEGIN; inside a transaction it aborts NESTING (12 R384). The state saved is that before its bundle (log 23). -/
def execTxbegin (g : Fin 8) (k : Fin 8) (sc : Fin 4) (s : State) : Ends :=
  slotOp (.txbegin g k sc) s fun s =>
    if s.core.tx.isSome then .next (s.txDue 7 0 0)
    else
      let t : Tx := { save := s.core.bnd, reads := [], writes := [], others := [], held := [], loads := [], places := [], bytes := 0, conflict := false, abort := none }
      let s := s.modSr fun r => { r with txstate := txBegun k sc }
      .next { s with core := { s.core with tx := some t } }

/-- INREC entries of a transaction's loads (12 R362 SUB 7). -/
def txLoadRecords (s : State) (t : Tx) : List Held :=
  if s.logOn 2 then t.loads.map fun l =>
    .entry Ent.inrec false l.1 3 (n8 7 ++ b8 l.2.1 ++ n8 l.2.2.length ++ pad16 l.2.2) else []

/-- The commit: held writes go to the window as one group. It is made when the window closes; a close that is abandoned finds the
transaction open (12 R365 R386 R387). -/
def txCommit (t : Tx) (s : State) : State :=
  let st := setBits (setBits s.core.r.sr.txstate 0 2 2) 24 8 (min t.footprint.length 64)
  let s := { (s.modSr fun r => { r with txstate := st }) with core := { (s.modSr fun r => { r with txstate := st }).core with tx := none } }
  let out : List Held := if s.logOn 2 then [.entry Ent.inrec false s.core.iss.pc 3 (n8 8 ++ b8 st ++ b8 s.core.iss.pc)] else []
  s.modWin fun w => { w with held := w.held ++ txLoadRecords s t ++ t.held.map Held.txstore ++ out, commit := some t }

/-- TXEND commits unless an abort is due. -/
def execTxend (g : Fin 8) (s : State) : Ends :=
  slotOp (.txend g) s fun s =>
    match s.core.tx with
    | none => trapOut 13 Cause.txNesting 0 0 s
    | some t => if t.conflict || t.abort.isSome then .next s else .next (txCommit t s)

def execTxabort (g : Fin 8) (c : Fin 256) (s : State) : Ends :=
  slotOp (.txabort g c) s fun s =>
    if s.core.tx.isNone then trapOut 13 Cause.txNesting 0 0 s else .next (s.txDue 3 (BitVec.ofNat 8 c.val) 0)

def execTxstat (g : Fin 8) (d : Fin 64) (s : State) : Ends :=
  slotOp (.txstat g d) s fun s => xresult none d s.core.r.sr.txstate s

/-- The abort that is due: reason, code, cause (12 R384 R386). A recorded abort is due in a replay at its PC (12 R388). -/
def State.txDueNow (s : State) : Option (Fin 8 × BitVec 8 × BitVec 8) :=
  match s.core.tx with
  | none => none
  | some t =>
    if t.abort.isSome then t.abort
    else if t.conflict then some (1, 0, 0)
    else if s.core.replay.isSome && s.logOn 2 then
      match (txRecords s).getLast? with
      | some e => if field e.body 0 8 = 8 ∧ bits (fw e.body 8) 0 2 = 3 ∧ fw e.body 16 = s.core.r.pc then
          some (Fin.ofNat 8 (bits (fw e.body 8) 16 4), BitVec.ofNat 8 (bits (fw e.body 8) 32 8), BitVec.ofNat 8 (bits (fw e.body 8) 40 8))
          else none
      | none => none
    else none

/-- TX_ABORT: the abort that is due takes effect, before the next bundle issues (12 R387). -/
def execTxAbort (reason : Fin 8) (s : State) : Ends :=
  match s.txDueNow with
  | some (r, code, cause) => .next (if r = reason then txAbortNow r code cause s else s)
  | none => .next s

end

end Sys2Proof.Machine
end

