-- ==== Sys2Proof/Machine/Control.lean ====
section
/-! DEFINITION. The X slot: trees, transfers, loops, suspension, forks, exit, waits and returns from traps (02 R49 to R51, 05
R178 to R187, 13 R421, 14 R425). -/

namespace Sys2Proof.Machine

noncomputable section

/-! Transfers. -/

/-- A transfer after the bundle; FETCH_ALIGN at the transferring bundle (02 R43 R51). -/
def transfer (t : Word) (settle : Bool) (s : State) : Ends :=
  if t.toNat % 32 ≠ 0 then trapOut 11 Cause.fetchAlign 0 0 s
  else .next { s with core := { s.core with iss := { s.core.iss with target := some t, settle := settle } } }

/-- PC + sext(DISP) · 32. -/
def State.relTarget (s : State) (disp : Nat) : Word := s.core.iss.pc + sext64 32 disp * 32

/-- A tree takes one leaf (02 R50 R51). The tests read their predicates. -/
def execTree (shape : Fin 8) (t1 t2 t3 t4 : Fin 32) (l1 l2 l3 l4 l5 : Fin 8) (s : State) : Ends :=
  slotOp (.tree shape t1 t2 t3 t4 l1 l2 l3 l4 l5) s fun s =>
    if (testsUsed shape t1 t2 t3 t4).any fun t => !s.core.valid (.p (Fin.ofNat 16 t.val)) then trapOut 10 Cause.regInvalid 0 0 s else
    let leaf := s.leafOf shape t1 t2 t3 t4
    let code := [l1, l2, l3, l4, l5].getD (leaf - 1) 0
    if code = 0 then .next s
    else if code = 7 then trapOut 11 Cause.leafTrap 0 0 s
    else if !s.core.r.btv.getLsbD code.val then trapOut 10 Cause.btInvalid 0 0 s
    else transfer (s.core.r.bt.get code) false s

def execBr (g : Fin 8) (disp : Fin 4294967296) (s : State) : Ends :=
  slotOp (.br g disp) s fun s => transfer (s.relTarget disp.val) false s
def execBri (g : Fin 8) (a : Fin 64) (s : State) : Ends := slotOp (.bri g a) s fun s => transfer (s.x a) false s

/-- CALL and CALLI: bt0 takes the return address, and the transfer follows three delay bundles (05 R178 R179). -/
def callTo (t : Word) (s : State) : Ends :=
  if t.toNat % 32 ≠ 0 then trapOut 11 Cause.fetchAlign 0 0 s
  else
    let s := { s with core := { s.core with iss := { s.core.iss with call := some t } } }
    .next (s.result (some 1) (.bt 0 (s.core.iss.pc + 128)) [])

def execCall (g : Fin 8) (disp : Fin 4294967296) (s : State) : Ends :=
  slotOp (.call g disp) s fun s => callTo (s.relTarget disp.val) s
def execCalli (g : Fin 8) (a : Fin 64) (s : State) : Ends := slotOp (.calli g a) s fun s => callTo (s.x a) s
/-- RET transfers to btK, or bt0 for K 0, after the late results have been delivered (05 R159). -/
def execRet (g : Fin 8) (k : Fin 8) (s : State) : Ends :=
  slotOp (.ret g k) s fun s => transfer (s.core.r.bt.get k) true s

/-- LOOP (05 R181). -/
def execLoopOp (g : Fin 8) (n : Fin 64) (k : Fin 4) (len : Fin 1073741824) (s : State) : Ends :=
  slotOp (.loopOp g n k len) s fun s =>
    let v := (s.x n).toNat
    let s1 := if 2 ^ 32 ≤ v then s.event Ev.saturate else s
    let v := min v (2 ^ 32 - 1)
    let pc := s.core.iss.pc
    let last := pc + BitVec.ofNat 64 len.val * 32
    let act := activeLoops s.core.r.sr.lact
    let inside := fun j => let b := loopBounds s.core.r.sr j; decide (b.1 ≤ pc) && decide (pc ≤ b.2)
    if act.contains k.val then trapOut 11 Cause.loopNest 0 0 s
    else if act.any fun j => inside j && decide ((loopBounds s.core.r.sr j).2 < last) then trapOut 11 Cause.loopNest 0 0 s
    else if v = 0 then transfer (last + 32) false s1
    else
      let s := s1.result (some 1) (.state (0x10 + k.val) (BitVec.ofNat 64 v)) []
      .next (s.result (some 1) (.loop k (pc + 32) last (lactOf (k.val :: act))) [])

/-! Suspension (05 R183). -/

/-- The strand leaves its core at its boundary with a status; WDCNT is cleared (05 R158). A core that holds no strand goes on
(log 24). -/
def suspendAs (status : Nat) (s : State) : State :=
  let s : State := { s with core := { s.core with wdcnt := 0 } }
  if s.core.record.isEmpty then s else leaveOrLost status false false s.core.r.pc none (stopGang s)

def execYield (g : Fin 8) (s : State) : Ends := slotOp (.yield g) s fun s => stopOp (.yield g) (suspendAs Status.ready) s
def execSuspend (g : Fin 8) (s : State) : Ends :=
  slotOp (.suspend g) s fun s => stopOp (.suspend g) (suspendAs Status.suspended) s

/-! Forks (05 R184, 13 R412). -/

/-- The free record slots of a pipeline's pool, in order: all zero, or DONE with RUN clear. -/
def freeRecords (s : State) (part : Fin 8) (p : Pipeline) : List Word :=
  ((List.range p.nrecpool).map fun i => p.recpool + BitVec.ofNat 64 (64 * i)).filter fun a =>
    let b := (devRead (partAgent s part s.core.id 2) a 64 s).1
    b.all (· == 0) || (field b 24 1 == Status.done && field b 18 1 / 4 % 2 == 0)

/-- A record made by FORK or by the Regulator for a stage instance. -/
def newRecord (pc : Word) (stage prio gsize gid member pipe part : Nat) (argp : Word) : List Byte :=
  recSeal (b8 pc ++ n8 0 ++ toBytes 2 stage ++ toBytes 1 prio ++ toBytes 1 gsize ++ toBytes 4 gid ++ [0, 0] ++
    toBytes 1 member ++ [0] ++ toBytes 2 pipe ++ toBytes 1 part ++ [0] ++ n8 0 ++ b8 argp ++ n8 0 ++ toBytes 4 0 ++ toBytes 4 0)

/-- Writes a record to a pool slot and hands it to the Regulator. -/
def addRecord (part : Fin 8) (pipe : Nat) (at_ : Word) (b : List Byte) (s : State) : State :=
  let s := devWrite (partAgent s part s.core.id 2) at_ b s
  s.modPipe part.val pipe fun p => { p with recs := (p.recs.filter fun r => r.1 != at_) ++ [(at_, some s.clock)] }

/-- Strands of a stage that are not DONE. -/
def stageStrands (s : State) (part : Fin 8) (p : Pipeline) (stage : Nat) : Nat :=
  ((s.recStates part p).filter fun r => r.1 == stage && r.2 != Status.done).length

/-- The record slot a FORK takes: none raises FORK_LIMIT. -/
def forkSlot (s : State) : Option Word :=
  let part := s.core.partOf
  match s.pipeline part.val s.core.pipeOf with
  | none => none
  | some p => match p.stages[s.core.stageOf]? with
    | none => none
    | some g => if g.maxinst ≤ stageStrands s part p s.core.stageOf then none else (freeRecords s part p).head?

/-- The new record of a FORK with this argument and displacement. -/
def forkRecord (s : State) (argp entry : Word) : List Byte :=
  newRecord entry s.core.stageOf (field s.core.record 18 1 % 4) 1 0 0 s.core.pipeOf s.core.partOf.val argp

/-- FORK: the record is handed over at the bundle's own quiescent point, where a stop is made as at any other (05 R157). -/
def execFork (g : Fin 8) (a : Fin 64) (disp : Fin 4294967296) (s : State) : Ends :=
  slotOp (.fork g a disp) s fun s =>
    if (forkSlot s).isNone then trapOut 12 Cause.forkLimit 0 0 s
    else
      let s := s.keepArg a
      let b := forkRecord s s.core.postArg (s.relTarget disp.val)
      postOp (.fork g a disp) (fun _ => true) (fun s => stopHere (match forkSlot s with
        | some w => addRecord s.core.partOf s.core.pipeOf w b s
        | none => s)) s

/-! Exit (05 R185, 14 R438). -/

/-- Every committed command and marker of the strand is complete or cancelled. -/
def allDone (s : State) : Bool := (s.core.eng.queues.toList.all fun q => q.isEmpty) && s.core.eng.signals.isEmpty

/-- Every command that has committed is complete or cancelled: what EXIT first waits for. A command of EXIT's own bundle commits
with it and is awaited then (05 R185). -/
def committedDone (s : State) : Bool :=
  (s.core.eng.queues.toList.all fun q => q.all fun c => !c.committed) && s.core.eng.signals.all fun c => !c.committed

/-- The end of a strand: poison found in CIR is reported and marks the launch; the record is written back DONE with FRAME
0; the core is free. -/
def finishStrand (s : State) : State :=
  let s : State := { s with core := { s.core with wdcnt := 0 } }
  if s.core.record.isEmpty then s else
  let part := s.core.partOf
  let pipe := s.core.pipeOf
  let pc := s.core.iss.pc
  let s := if bits s.core.cir 0 4 = 0 then s else
    let s := report s (some part) (dieOf s.core.id) Cause.poisonAtEnd 1 (unitId s.core.id 0) false pc (BitVec.ofNat 64 (bits s.core.cir 16 16))
    s.modPipe part.val pipe fun p => { p with poison := true }
  updateClosed (releaseCore (writeBack Status.done 0 pc none 0 s)) part pipe

def execExitOp (g : Fin 8) (s : State) : Ends :=
  slotOp (.exitOp g) s fun s =>
    if !s.core.closing && !committedDone s then stallOut s else postOp (.exitOp g) allDone finishStrand s

/-! Traps and returns. -/

/-- TRAP n: TRAP_SW after the bundle (05 R156). TWIN is the window of the bundle
(log 55). -/
def execTrapOp (g : Fin 8) (disp : Fin 4294967296) (s : State) : Ends :=
  slotOp (.trapOp g disp) s fun s =>
    postOp (.trapOp g disp) (fun _ => true) (fun s =>
      deliverTrap Cause.trapSw s.core.iss.pc 0 (s.core.r.sr.win - 1) 0 (BitVec.ofNat 64 disp.val) s) s

/-- RFT acts according to TDISP (14 R425): RESUME, or the save of a disposition. A TPC that is no bundle address raises
FETCH_ALIGN at the RFT bundle (02 R43). -/
def rft (i : Instr) (s : State) : Ends :=
  slotOp i s fun s =>
    let d := bits s.core.sup.tstatus 4 3
    if d = 0 ∧ s.core.sup.tpc.toNat % 32 ≠ 0 then trapOut 11 Cause.fetchAlign 0 0 s
    else if d = 0 then postOp i (fun _ => true) resumeStrand s
    else stopOp i (fun s => if s.core.record.isEmpty then s else leaveFromTrap d s) s

def execRftResume (g : Fin 8) (s : State) : Ends := rft (.rftResume g) s
def execRftYield (g : Fin 8) (s : State) : Ends := rft (.rftYield g) s
def execRftSuspend (g : Fin 8) (s : State) : Ends := rft (.rftSuspend g) s
def execRftFault (g : Fin 8) (s : State) : Ends := rft (.rftFault g) s
def execRftHold (g : Fin 8) (s : State) : Ends := rft (.rftHold g) s

/-- An event of the firmware core's die is pending and enabled (13 R421). -/
def fwAwake (s : State) : Bool := let d := s.die (dieOf s.core.id); decide (d.fwen &&& d.fwpend ≠ 0)

/-- IDLE: the core stops issuing until an enabled event or an asynchronous one is pending. -/
def execIdle (g : Fin 8) (s : State) : Ends :=
  slotOp (.idle g) s fun s =>
    postOp (.idle g) (fun _ => true) (fun s => if fwAwake s || s.core.nextAsync.isSome then s else { s with core := { s.core with run := .fwWait } }) s

/-! Waits (05 R186). -/

/-- The word has reached the awaited value. -/
def waitMet (word want : W32) : Bool := decide (0 ≤ (word - want).toInt)

/-- WAIT.MEM loads the word at x[A] and goes on when it has reached x[B]; else it stalls. -/
def execWaitMem (g : Fin 8) (a b : Fin 64) (s : State) : Ends :=
  slotOp (.waitMem g a b) s fun s =>
    let win := s.core.win
    loadOut (s.x a) (loadPieces none 4 [(s.x a, 4)]) s fun bs s =>
      if waitMet (BitVec.ofNat 32 (ofBytes bs)) ((s.x b).setWidth 32) then .next s
      else stallOut { s with core := { s.core with win := win } }

/-- Every command issued into the queues of a mask is complete or cancelled; the markers of engine 6 are none of them (05 R186;
log 105). -/
def enginesDone (s : State) (mask : Nat) : Bool :=
  (List.range 5).all fun q => mask / 2 ^ q % 2 == 0 || (s.core.eng.queue q).all fun c => isEtrel c.instr

def execWaitEng (g : Fin 8) (mask : Fin 32) (s : State) : Ends :=
  slotOp (.waitEng g mask) s fun s => if enginesDone s mask.val then .next s else stallOut s

/-! Converted waits (05 R187, 06 R216). -/

/-- WADDR and WVAL of a blocking wait, if it may be converted. -/
def convertible (i : Instr) (s : State) : Option (Word × W32) :=
  match i with
  | .waitMem _ a b => match region (s.x a) with
    | .glob => some (s.x a, (s.x b).setWidth 32)
    | _ => none
  | .barwait _ d b disp =>
    let k := s.core.id
    some (BitVec.ofNat 64 (2 ^ 63 + dieOf k * 2 ^ 11 + clusterOf k * 2 ^ 8 + s.index b disp % 32), (s.x d).setWidth 32 + 1)
  | .qpop _ _ q _ => match portOf q false s with
    | some (id, _) => some (BitVec.ofNat 64 (2 ^ 63 + 2 ^ 60 + id), 0)
    | none => none
  | _ => none

/-- The conversion: rollback without a trap, the context is saved and the record is written back BLOCKED. A stop that is asked for is made
in its place: the strand stands at its next quiescent point (01 R22, 14 R440 R442). -/
def convertWait (w : Word × W32) (s : State) : State :=
  let s := rollback s
  let s : State := { s with core := { s.core with wdcnt := 0 } }
  match s.core.stopDue with
  | some (st, cause) => stopNow st cause s
  | none => leaveCore Status.blocked 0 none false false s.core.r.pc (some w) false (stopGang s)

end

end Sys2Proof.Machine
end

