-- ==== Sys2Proof/Machine/Privileged.lean ====
section
/-! DEFINITION. The privileged A-slot instructions (05 R177, 04 R122, 14 R431 R435 R439). -/

namespace Sys2Proof.Machine

noncomputable section

/-! TLB shootdown (04 R122). -/

/-- A shootdown becomes pending; the next bundle issues once it is complete. -/
def shoot (scope : Nat) (page : Option Nat) (s : State) : Ends :=
  .next { s with core := { s.core with shoot := s.core.shoot ++ [(scope, page)] } }

def execTlbinvPage (g : Fin 8) (a : Fin 64) (sc : Fin 4) (s : State) : Ends :=
  slotOp (.tlbinvPage g a sc) s fun s => shoot sc.val (some (s.x a).toNat) s
def execTlbinvAll (g : Fin 8) (sc : Fin 4) (s : State) : Ends := slotOp (.tlbinvAll g sc) s fun s => shoot sc.val none s

/-- The entries of a TLB that a shootdown of a partition leaves. -/
def shootLeaves (part : Fin 8) (page : Option Nat) (l : List TlbEntry) : List TlbEntry :=
  l.filter fun e => !(e.part == part && match page with
    | none => true
    | some va => va / 2 ^ pageBits e.level.val == e.page)

/-- Discards matching entries of every TLB inside the issuing core's instance of a scope. -/
def discardTlb (part : Fin 8) (scope : Nat) (page : Option Nat) (s : State) : State :=
  let from_ := s.core.id
  let cut := fun (c : Core) => if sameInstance scope c.id from_ then { c with tlb := shootLeaves part page c.tlb } else c
  let inside := fun (cl : Nat) => if scope ≤ 1 then cl == clusterId from_ else if scope = 2 then cl % 4 == dieOf from_ else true
  { s with core := cut s.core, others := s.others.map (fun e => (e.1, cut e.2)),
           dev := { s.dev with ctlb := s.dev.ctlb.map fun e => if inside e.1 then (e.1, shootLeaves part page e.2) else e } }

/-- A shootdown names the page of an address: the page itself, or one that a TLB entry to be discarded maps. -/
def shootNames (part : Fin 8) (page : Option Nat) (tlb : List TlbEntry) (va : Nat) : Bool :=
  match page with
  | none => true
  | some p => p / 2 ^ 16 == va / 2 ^ 16 || tlb.any fun e => e.hits part va && e.hits part p

/-- Some core inside the issuing core's instance holds an access of the partition that has no place in the orders yet and whose
page the shootdown names (04 R122). -/
def shootWaits (part : Fin 8) (scope : Nat) (page : Option Nat) (s : State) : Bool :=
  s.liveCores.any fun k =>
    let c := s.coreAt k
    sameInstance scope k s.core.id && c.partOf == part && c.heldAccesses.any fun a =>
      region a.1 == .glob && shootNames part page (c.tlb ++ sget s.dev.ctlb [] (clusterId k)) a.1.toNat

/-- TLB_SHOOTDOWN_COMPLETE: every pending shootdown of the core completes, once the accesses that used what it discards have been
performed (04 R122). -/
def execTlbShootdownComplete (s : State) : Ends :=
  if s.core.shoot.any fun x => shootWaits s.core.partOf x.1 x.2 s then .next s else
  let s := s.core.shoot.foldl (fun s x => discardTlb s.core.partOf x.1 x.2 s) s
  .next { s with core := { s.core with shoot := [] } }

/-! L1 (05 R177). In the one memory of the model a core-scope store stands at once; `l1` keeps what L2 held. -/

def execCinvWbinv (g : Fin 8) (s : State) : Ends :=
  slotOp (.cinvWbinv g) s fun s => .next s.releaseL1

/-- Discards dirty lines: the older L2 copies come back (log 25). -/
def discardL1 (s : State) : State :=
  let s := s.core.l1.foldr (fun e s => s.poke e.1 e.2) s
  { s with core := { s.core with l1 := [] } }

def execCinvInv (g : Fin 8) (s : State) : Ends := slotOp (.cinvInv g) s fun s => .next (discardL1 s)

/-- The size, as offset bits, of the page that the core's TLBs hold for an address (04 R115). -/
def State.pageSize (s : State) (va : Word) : Nat :=
  match s.tlbFind (strandAgent s 0) va.toNat with
  | some t => pageBits t.level.val
  | none => 16

/-- Writes back the lines of the page at x[a], whatever its size; a page that does not translate has none. -/
def execCinvWbpage (g : Fin 8) (a : Fin 64) (s : State) : Ends :=
  slotOp (.cinvWbpage g a) s fun s =>
    match locate (strandAgent s 0) .read false (s.x a) s with
    | .ok l s => .next (s.writeBackL1 (· == s.core.id) fun b => b * 64 / 2 ^ s.pageSize (s.x a) == l.key / 2 ^ s.pageSize (s.x a))
    | x => .next x.state

/-! Contexts (14 R431). -/

/-- The spill area of a frame: its slot of SPILLPOOL for a frame of the pool, else what the frame's image names (01 R21). -/
def spillOf (s : State) (frame : Word) : Word × Nat :=
  let image := let b := (devRead (coreAgent s 3) frame 128 s).1; (fw b 112, field b 120 4)
  match s.pipeline s.core.partOf.val s.core.pipeOf with
  | none => image
  | some p =>
    let off := (frame - p.framepool).toNat
    if off % 98304 = 0 ∧ off / 98304 < p.nframes then
      (if p.spillpool = 0 then (0, 0) else (p.spillpool + BitVec.ofNat 64 (off / 98304 * p.spilln * 262144), p.spilln * 262144))
    else image

/-- CTXSAVE: the engines have stopped; the frame is written with TRAPPED, and the commands leave the queues for it. -/
def saveTo (frame : Word) (s : State) : State :=
  let s := stopEngines s
  let sp := spillOf s frame
  let old := (s.core.spill, s.core.spillSize)
  let r := saveContext frame true false none s.core.sup.tpc { s with core := { s.core with spill := sp.1, spillSize := sp.2 } }
  let s := { r.2 with core := { r.2.core with spill := old.1, spillSize := old.2 } }
  if !r.1 then spillFault s.core.sup.tpc s
  else s.modEng fun g =>
    let cmds := sortOn (fun c : Cmd => c.seq) (g.queues.toList.flatten ++ g.signals)
    { g with queues := Vector.replicate 6 [], signals := [],
             saved := g.saved ++ cmds.map fun c => { c with running := false, resume := c.started || resumeBit c.instr } }

def execCtxsave (g : Fin 8) (a : Fin 64) (s : State) : Ends :=
  slotOp (.ctxsave g a) s fun s =>
    let s := s.keepArg a
    let va := s.core.postArg
    if !s.core.closing && va.toNat % 4096 ≠ 0 then trapOut 12 Cause.align va 0 s
    else stopOp (.ctxsave g a) (saveTo va) s

/-- CTXLOAD: the frame's context replaces the core's, with the record it names and that record's FRAME; the handler goes on, with its own
x60 to x63, mode and pc (log 26). -/
def loadFrom (f : FrameData) (s : State) : State :=
  let c := s.core
  let keepX := fun (r : Regs) =>
    { r with pc := c.r.pc, x := Vector.ofFn (fun i => if 60 ≤ i.val then c.r.x.get i else r.x.get i),
             xv := BitVec.ofNat 64 (r.xv.toNat % 2 ^ 60 + c.r.xv.toNat / 2 ^ 60 * 2 ^ 60) }
  let r := restoreFrame f s
  let s := r.2
  let regs := keepX s.core.r
  let trapped := field f.low 6 1 / 2 % 2 = 1
  let sup := { s.core.sup with tpc := fw f.low 16, tloop := if trapped then Vector.ofFn (fun i => fw f.low (128 + 8 * i.val)) else s.core.sup.tloop }
  let rec_ := devRead (coreAgent s 2) s.core.crec 64 s
  let s := rec_.2
  { s with core := { s.core with mode := c.mode, r := regs, bnd := regs, sup := sup, record := rec_.1, frame := fw rec_.1 8,
                                 eng := { s.core.eng with saved := r.1.map Prod.snd } } }

def execCtxload (g : Fin 8) (a : Fin 64) (s : State) : Ends :=
  slotOp (.ctxload g a) s fun s =>
    let s := s.keepArg a
    let va := s.core.postArg
    let f := readFrame s va
    if !s.core.closing && va.toNat % 4096 ≠ 0 then trapOut 12 Cause.align va 0 s
    else if !s.core.closing && (!allDone s || !frameOk f.1) then trapOut 12 Cause.contextRestore 0 0 s
    else postOp (.ctxload g a) (fun _ => true) (loadFrom f.1) s

/-! Partition swap (14 R435). -/

/-- A key lies in the `len` keys from `lo`. -/
def within (lo len k : Nat) : Bool := decide (lo ≤ k) && decide (k < lo + len)

/-- The entries at `lo` to `lo + len - 1` also stand from `dst` upward. -/
def movePlaces {α : Type} [DecidableEq α] (d : α) (lo dst len : Nat) (m : SMap α) : SMap α :=
  (m.filter fun e => within lo len e.1).foldl (fun (m' : SMap α) (e : Nat × α) => sset m' d (e.1 - lo + dst) e.2)
    (m.filter fun e => !within dst len e.1)

/-- Copies payload and metadata of `n` bytes from place `a` to place `b`. -/
def copyPlaces (a b n : Nat) (s : State) : State :=
  { s with mem := movePlaces initialByte a b n s.mem, tags := movePlaces 0 (a / 64) (b / 64) (n / 64) s.tags }

/-- Moves one scratchpad to or from a swap area, 64 KiB at a time through the partition's translation; a write sets the page's dirty bit
first, and a far page's blocks count (04 R125 R127). -/
def swapScratch (p : Fin 8) (area : Word) (core : Nat) (out : Bool) (s : State) : State :=
  (List.range 32).foldl (fun s k =>
    let kind : AKind := if out then .write else .read
    let ag := partAgent s p s.core.id 3
    let va := area + BitVec.ofNat 64 (65536 * k)
    match locate ag kind false va s with
    | .ok l s =>
      let s := s.countFarBytes ag l va 65536
      if !out then copyPlaces l.key (scratchKey core (65536 * k)) 65536 s else
      (match markDirtyKey s p l.key with
      | (true, s) => copyPlaces (scratchKey core (65536 * k)) l.key 65536 s
      | (false, s) => { s with dev := { s.dev with stalled := some (p, l.key) } })
    | x => x.state) s

/-- A barrier object as it stands in a swap area: 32 bytes, EXPECT, ARRIVED and GEN in four each (log 120). -/
def Barrier.image (b : Barrier) : List Byte := padTo 32 0 (toBytes 4 b.expect ++ toBytes 4 b.arrived ++ toBytes 4 b.gen.toNat)

def Barrier.ofImage (b : List Byte) : Barrier := ⟨field b 0 4, field b 4 4, BitVec.ofNat 32 (field b 8 4)⟩

/-- Where the barrier objects of a partition's clusters stand in its swap area: 1 KiB a cluster, behind the scratchpads (14 R433). -/
def PartCfg.barrierArea (c : PartCfg) : Word := c.swap + BitVec.ofNat 64 (0x200000 * 9 * c.clusters.length)

/-- The barrier objects of a partition's clusters go to its swap area (14 R435). -/
def saveBarriers (p : Fin 8) (c : PartCfg) (s : State) : State :=
  devWrite (partAgent s p s.core.id 3) c.barrierArea
    (c.clusters.flatMap fun cl => (List.range 32).flatMap fun i => (sget s.dev.barriers zeroBarrier (32 * cl + i)).image) s

/-- They come back from it. -/
def loadBarriers (p : Fin 8) (c : PartCfg) (s : State) : State :=
  let r := devRead (partAgent s p s.core.id 3) c.barrierArea (1024 * c.clusters.length) s
  let objs := (c.clusters.flatMap fun cl => (List.range 32).map fun i => 32 * cl + i).zipIdx.map fun x =>
    (x.1, Barrier.ofImage (slice r.1 (32 * x.2) 32))
  { r.2 with dev := { r.2.dev with barriers := objs.foldl (fun (m : SMap Barrier) e => sset m zeroBarrier e.1 e.2) r.2.dev.barriers } }

/-- The cores of a partition's clusters in list order, site by site, each with its place in the swap area. -/
def swapCores (c : PartCfg) : List (Nat × Word) :=
  (c.clusters.flatMap fun cl => (List.range 9).map fun site => coreNumber cl site).zipIdx.map fun x =>
    (x.1, c.swap + BitVec.ofNat 64 (0x200000 * x.2))

/-- The core is idle, or stopped by HACK with its context on it. -/
def swapReady (c : Core) : Bool :=
  c.run == .idle || c.run == .stopped || isFirmware c.id ||
  (c.mode == .supervisor && c.sup.tcause == Cause.hackStop.setWidth 64 && c.tbusy)

/-- The two partitions share the same clusters. -/
def swapPartners (a b : PartCfg) (pa pb : Nat) : Bool :=
  a.flags.getLsbD 3 && b.flags.getLsbD 3 && a.shpart.val == pb && b.shpart.val == pa && a.clusters == b.clusters

/-- An open capture of a partition that is swapped out keeps its counts; one of a partition that returns counts again (13
R401). -/
def Capture.swapped (out : Bool) (clock : Nat) (c : Capture) : Capture :=
  if out then { c with resident := c.resident + BitVec.ofNat 64 (clock - c.since), preempted := true } else { c with since := clock }

def swapCaptures (out : Bool) (clock : Nat) (m : SMap CmdQueue) : SMap CmdQueue :=
  m.map fun e => (e.1, { e.2 with capture := e.2.capture.map (Capture.swapped out clock) })

/-- The size of a core's shadow store (00 R3). -/
def shadowBytes : Nat := 128 * 2 ^ 10

/-- The exchange: contexts, barrier objects and the outgoing scratchpads; the incoming ones are still to be restored. -/
def swapPartitions (pa pb : Fin 8) (ca cb : PartCfg) (s : State) : State :=
  let cores := (swapCores ca).filter fun x => !isFirmware x.1
  let s := cores.foldl (fun s x =>
    let s := s.writeBackL1 (· == x.1) fun _ => true
    let c := s.coreAt x.1
    let s := swapScratch pa x.2 x.1 true s
    let quiet := { c with l1 := [], tlb := [], r := c.r.awake }
    let into := match (s.part pb.val).swapOut.find? fun y => y.1 == x.1 with
      | some y => y.2
      | none => { resetCore x.1 with sinfo := BitVec.ofNat 64 (pb.val * 2 ^ 32) }
    let t : State := { s with core := quiet }
    let s := s.setCoreAt x.1 { into with shadow := (frameImage t false false false none c.r.pc).take shadowBytes }
    s.modPart pa.val fun p => { p with swapOut := (p.swapOut.filter fun y => y.1 != x.1) ++ [(x.1, quiet)] }) s
  let keys := ca.clusters.flatMap fun cl => (List.range 32).map fun i => 32 * cl + i
  let outB := s.dev.barriers.filter fun e => keys.contains e.1
  let s := loadBarriers pb cb (saveBarriers pa ca s)
  let s := s.modPart pa.val fun p => { p with barriers := outB, resident := false, queues := swapCaptures true s.clock p.queues }
  s.modPart pb.val fun p => { p with barriers := [], resident := true, queues := swapCaptures false s.clock p.queues, swapOut := [], restoring := cores.map fun (x : Nat × Word) => (x.1, 0) }

def execPswap (g : Fin 8) (a b : Fin 64) (s : State) : Ends :=
  slotOp (.pswap g a b) s fun s =>
    let pa := (s.x a).toNat
    let pb := (s.x b).toNat
    let refuse := report s none (dieOf s.core.id) Cause.partitionSwap 4 (unitId s.core.id 0) false s.core.iss.pc 0
    if h : pa < 8 ∧ pb < 8 then
      match s.cfg pa, s.cfg pb with
      | some ca, some cb =>
        if swapPartners ca cb pa pb && (s.part pa).resident && (swapCores ca).all fun x => swapReady (s.coreAt x.1) then
          .next (swapPartitions ⟨pa, h.1⟩ ⟨pb, h.2⟩ ca cb s)
        else .next refuse
      | _, _ => .next refuse
    else .next refuse

/-- PSWAP_SCRATCHPAD_RESTORE: the scratchpad of the first core still to be restored comes back. -/
def execPswapScratchpadRestore (s : State) : Ends :=
  match (List.finRange 8).find? fun p => !(s.part p.val).restoring.isEmpty with
  | none => .next s
  | some p =>
    match (s.part p.val).restoring, s.cfg p.val with
    | (c, _) :: rest, some g =>
      let area := ((swapCores g).find? fun x => x.1 == c).map Prod.snd
      let s := match area with
        | some w => swapScratch p w c false s
        | none => s
      .next (s.modPart p.val fun q => { q with restoring := rest })
    | _, _ => .next s

/-! Quarantine (14 R439 R441). -/

/-- Takes a unit out of service, on behalf of a QUARANTINE or of the reliability machinery. -/
def removeUnit (core unit : Nat) (s : State) : State :=
  let s := report s none (dieOf core) Cause.quarantinedUnit 3 (unitId core unit) true 0 0
  if unit ≠ 0 then s.modCoreAt core fun c => { c with eng := { c.eng with disabled := setBit c.eng.disabled unit true } }
  else
    let s := s.modDie (dieOf core) fun e => { e with qmask := setBit e.qmask (siteBit core) false }
    let c := s.coreAt core
    if !c.holdsStrand || c.record.isEmpty then s
    else if c.gsizeOf ≤ 1 then askStop Status.ready 0 s core
    else
      let s := askStop Status.faulted Cause.quarantinedUnit s core
      let peers := (s.strandsOf c.partOf.val c.pipeOf).filter fun k => k != core && (s.coreAt k).gidOf == c.gidOf
      pipelineFault c.partOf c.pipeOf Cause.gangLost c.r.pc (some (BitVec.ofNat 16 (unitId core 0))) (some core) peers s

def execQuarantine (g : Fin 8) (a : Fin 64) (s : State) : Ends :=
  slotOp (.quarantine g a) s fun s =>
    let v := s.x a
    let core := bits v 0 9
    if bits v 16 48 ≠ 0 then trapOut 12 Cause.bundleReserved 0 0 s
    else if !isSite core || decide (8 ≤ bits v 9 7) then trapOut 12 Cause.partitionBounds 0 0 s
    else .next (removeUnit core (bits v 9 7) s)

/-! Service calls, the hack flag, dirty bits. -/

/-- SVC n after the bundle: a trap from strand mode, a service request from supervisor mode (14 R424 R434). TWIN is the window
of the bundle (log 55). -/
def serviceCall (n : Nat) (s : State) : State :=
  match s.core.mode with
  | .supervisor =>
    let args := (List.range 7).map fun i => vget s.core.r.x (i + 1)
    let d := dieOf s.core.id
    let s := { s with core := { s.core with svc := some (BitVec.ofNat 64 n, args) } }
    (s.modDie d fun e => { e with svcSite := if e.svcSite.isNone then some (siteBit s.core.id) else e.svcSite }).fwEvent d 6
  | _ => deliverTrap Cause.serviceCall s.core.iss.pc s.core.iss.slot.val (s.core.r.sr.win - 1) 0 (BitVec.ofNat 64 n) s

def execSvc (g : Fin 8) (n : Fin 1024) (s : State) : Ends :=
  slotOp (.svc g n) s fun s => postOp (.svc g n) (fun _ => true) (serviceCall n.val) s

/-- HACKSET: PARTITION_BOUNDS for a core outside the partition, and for a number with a bit above COREID's fields set (log
104). -/
def execHackset (g : Fin 8) (a : Fin 64) (v : Fin 2) (s : State) : Ends :=
  slotOp (.hackset g a v) s fun s =>
    let w := s.x a
    let core := bits w 0 9
    let inside := match s.cfg s.core.partOf.val with
      | some c => c.hasCore core
      | none => false
    if bits w 9 55 ≠ 0 || !isSite core || !inside then trapOut 12 Cause.partitionBounds 0 0 s
    else .next (s.modCoreAt core fun c => { c with hack := v == 1 })

/-- Clears bit `i` of the dirty bitmap. -/
def clearDirty (p : Fin 8) (c : PartCfg) (i : Nat) (s : State) : State :=
  match areaKey s p 3 (c.areas.getD 3 0 + BitVec.ofNat 64 (i / 8)) with
  | (some k, s) =>
    let b := (getByte s.mem k).toNat
    if b / 2 ^ (i % 8) % 2 = 1 then s.poke k [BitVec.ofNat 8 (b - 2 ^ (i % 8))] else s
  | (none, s) => s

def execDirtyclr (g : Fin 8) (a b : Fin 64) (s : State) : Ends :=
  slotOp (.dirtyclr g a b) s fun s =>
    let first := (s.x a).toNat
    let n := (s.x b).toNat
    match s.cfg s.core.partOf.val with
    | none => trapOut 12 Cause.partitionBounds 0 0 s
    | some c =>
      if c.granules.length * 16384 < first + n then trapOut 12 Cause.partitionBounds 0 0 s
      else if c.areas.getD 3 0 = 0 then .next s
      else .next ((List.range n).foldl (fun s i => clearDirty s.core.partOf c (first + i) s) s)

end

end Sys2Proof.Machine
end

