-- ==== Sys2Proof/Machine/Copy.lean ====
section
/-! DEFINITION. The copy engine: what its commands check at their start and one chunk of each (08 R250 to R267). -/

namespace Sys2Proof.Machine

noncomputable section

/-! Records (08 R251). -/

/-- Bytes a to a + n - 1 of a record are zero, a header field that an operation does not use. -/
def zeroField (b : List Byte) (o n : Nat) : Bool := zeroBytes b o n

/-- The header fields an operation uses: SCOPE, TIER, TAGM, FLAGS, and TFMT with TSCALE. -/
def headerUses : Instr → Bool × Bool × Bool × Bool × Bool
  | .ccopy .. | .ctrans .. => (true, true, true, false, true)
  | .cgather .. | .cscatter .. => (true, true, true, true, true)
  | .cfill .. => (true, false, true, false, true)
  | .cplane .. | .cflat .. | .ctags .. => (true, true, false, false, false)
  | .cpagein .. => (true, false, false, false, true)
  | _ => (false, false, false, false, true)

/-- The common header is well formed for an operation. -/
def headerOk (i : Instr) (b : List Byte) : Bool :=
  let u := headerUses i
  let byte := fun o => field b o 1
  (if u.1 then decide (byte 0 < 6) else byte 0 == 0) &&
  (if u.2.1 then byte 1 == 0 || byte 1 == 2 else byte 1 == 0) &&
  (if u.2.2.1 then decide (byte 2 < 3) else byte 2 == 0) &&
  (if u.2.2.2.1 then decide (byte 3 < 2) else byte 3 == 0) &&
  (u.2.2.2.2 || zeroField b 4 2) && zeroField b 6 2

def tierOf (b : List Byte) : Nat := field b 1 1
def oobs (b : List Byte) : Bool := field b 3 1 == 1
/-- TFMT, TSCALE and plane 0. -/
def setTag (b : List Byte) : BitVec 24 := BitVec.ofNat 24 (field b 4 1 * 2 ^ 16 + field b 5 1 * 2 ^ 8)

/-- The tag rule of a moving command (08 R252). -/
def tagRule (i : Instr) (b : List Byte) : TagRule :=
  match field b 2 1 with
  | 0 => match i with
    | .cfill .. => .keep
    | _ => .inherit
  | 1 => .fixed (setTag b)
  | _ => .keep

/-- The fields after the header are well formed (08 R253 to R261). -/
def bodyOk (i : Instr) (b : List Byte) : Bool :=
  let byte := fun o => field b o 1
  match i with
  | .cfill .. => zeroField b 16 48
  | .cplane .. =>
    zeroField b 14 50 && (if byte 8 = 0 then
      (byte 9 == 1 || byte 9 == 2) && decide (1 ≤ byte 10) && decide (byte 10 ≤ 8) && byte 11 == 0 &&
        [0, 3, 4, 5, 6].contains (byte 12) && byte 13 == 0
    else byte 8 == 1 && byte 9 == 0 && byte 10 == 0 && decide (byte 11 ≤ 8) && byte 12 == 0 && (byte 13 == 3 || byte 13 == 4))
  | .cflat .. =>
    zeroField b 13 51 && decide (byte 11 ≤ 3) && (if byte 8 = 0 then
      (byte 9 == 1 || byte 9 == 2) && decide (1 ≤ byte 10) && decide (byte 10 ≤ 8)
    else byte 8 == 1 && byte 9 == 0 && byte 10 == 0 && byte 12 == 0)
  | .cpagein .. =>
    field b 8 2 == 0 && field b 16 2 == 0 && decide (1 ≤ field b 24 4) && decide (field b 24 4 ≤ 1024) && zeroField b 28 4 &&
      zeroField b 40 24
  | .cmigrate .. =>
    decide (byte 8 ≤ 1) && zeroField b 9 7 && field b 16 2 == 0 && zeroField b 29 3 && decide (1 ≤ field b 32 4) &&
      decide (field b 32 4 ≤ 1024) && zeroField b 36 28
  | .ctags .. =>
    decide (byte 8 ≤ 1) && zeroField b 9 7 && decide (1 ≤ field b 24 8) && decide (field b 24 8 ≤ 2 ^ 32) && zeroField b 40 24
  | _ => zeroField b 8 56

/-! Shapes of the operations (08 R253 to R257). -/

/-- The row size of an indexed shape (08 R254). -/
def Shape.rowSize (h : Shape) : Nat := ((List.range (h.rank - 1)).map h.extent).foldl (· * ·) 1
def Shape.outer (h : Shape) : Nat := h.extent (h.rank - 1)

/-- The element side and the planar side of a conversion. -/
def Cmd.sides (c : Cmd) (b : List Byte) : Shape × Shape :=
  if field b 8 1 = 0 then (c.shape 0, c.shape 2) else (c.shape 2, c.shape 0)

/-- The size of CFLAT's ITYPE. -/
def flatSize (t : Nat) : Nat := if t < 2 then 1 else 2

/-- The range of CFLAT's ITYPE. -/
def flatRange (t : Nat) : Int × Int :=
  match t with
  | 0 => (-128, 127) | 1 => (0, 255) | 2 => (-32768, 32767) | _ => (0, 65535)

/-- Checks of the shapes that an operation relates. -/
def copyShapes (s : State) (c : Cmd) (b : List Byte) : Option (BitVec 8) :=
  let A := c.shape 0
  let B := c.shape 1
  let C := c.shape 2
  match c.instr with
  | .ccopy .. => firstFault [need (!A.planar && !C.planar) Cause.shapeInvalid, shapeFault s A false 0, shapeFault s C false 0,
      need (A.count == C.count && A.esize == C.esize) Cause.shapeRange]
  | .ctrans .. => firstFault [need (!A.planar && !C.planar) Cause.shapeInvalid, shapeFault s A false 0, shapeFault s C false 0, need (A.esize == C.esize) Cause.shapeRange,
      need (decide (2 ≤ A.rank) && A.rank == C.rank && A.extent 0 == C.extent 1 && A.extent 1 == C.extent 0 &&
        (List.range A.rank).all fun k => decide (k < 2) || A.extent k == C.extent k) Cause.shapeRange]
  | .cgather .. => firstFault [shapeFault s A false 0, shapeFault s B false 0, shapeFault s C false 0,
      need (B.esize == 2 || B.esize == 3) Cause.shapeInvalid,
      need (C.count == B.count * A.rowSize && C.esize == A.esize) Cause.shapeRange]
  | .cscatter .. => firstFault [shapeFault s A false 0, shapeFault s B false 0, shapeFault s C false 0,
      need (B.esize == 2 || B.esize == 3) Cause.shapeInvalid,
      need (A.count == B.count * C.rowSize && A.esize == C.esize) Cause.shapeRange]
  | .cfill .. => shapeFault s C false 0
  | .cplane .. | .cflat .. =>
    let x := c.sides b
    let flat := match c.instr with
      | .cflat .. => need (flatSize (field b 11 1) == x.1.ebytes) Cause.shapeInvalid
      | _ => if field b 8 1 = 1 then need (famSize (field b 13 1) == x.1.ebytes) Cause.shapeInvalid else none
    firstFault [need (!x.1.planar && x.2.planar) Cause.shapeInvalid, shapeFault s x.1 false 0,
      shapeFault s x.2 true (if field b 8 1 = 0 then field b 10 1 else 1),
      need (x.1.rows == x.2.rows && x.1.cols == x.2.cols && x.1.stride 0 == (x.1.ebytes : Int)) Cause.shapeRange, flat]
  | .ctags .. => need (field b 16 8 % 64 == 0 && field b 32 8 % 4 == 0) Cause.copyRange
  | .cpagein .. => need (field b 32 8 % 4 == 0) Cause.copyRange
  | _ => none

/-- Sub-tiles of a chunk (08 R262). -/
def chunkTiles (h : Shape) : Nat := 128 / h.ebytes

/-- Chunks of a command (08 R262). -/
def chunkCount (c : Cmd) (b : List Byte) : Nat :=
  match c.instr with
  | .cscatter .. => cdiv ((c.shape 0).count * (c.shape 0).ebytes) 65536
  | .cplane .. | .cflat .. => let x := c.sides b; cdiv (subTiles x.2.rows x.2.cols) (chunkTiles x.1)
  | .cpagein .. => field b 24 4
  | .cmigrate .. => field b 32 4
  | .ctags .. => cdiv (field b 24 8) 1024
  | _ => cdiv ((c.shape 2).count * (c.shape 2).ebytes) 65536

/-! The start (08 R251 R264 to R266). -/

/-- A reissue resumes only a stopped or faulted command of its opcode (08 R265, 07 R241). -/
def resumable (s : State) (q : Nat) (c : Cmd) : Bool :=
  (s.progState q == 2 || s.progState q == 4) && bits (s.prog q 0) 8 8 == opCode c.instr

/-- Word 0 of the block of a command that starts; CAUSE of its last stop by a fault stays (08 R264). -/
def startWord (q : Nat) (c : Cmd) (s : State) : Word :=
  BitVec.ofNat 64 (opCode c.instr * 256 + 1 + bits (s.prog q 0) 24 8 * 2 ^ 24)

def copyOptional : Instr → Bool
  | .ccopy .. | .cgather .. | .cscatter .. | .ctrans .. => true
  | _ => false

/-- CMIGRATE issued in strand mode (08 R259). -/
def migrateDenied (c : Cmd) : Bool := match c.instr with
  | .cmigrate .. => c.mode == .strand
  | _ => false

/-- The start of a copy command. -/
def startCopy (c : Cmd) (s : State) : Act State :=
  (readRecord c 64 8 (if copyOptional c.instr then some [] else none) s).bind fun b s =>
    let dig := BitVec.ofNat 64 (digestOf b)
    let shd := BitVec.ofNat 64 (shapeDigest c.instr c.shapes 3)
    passes (firstFault [need (!c.resume || (resumable s 2 c && s.prog 2 2 == dig && s.prog 2 3 == shd)) Cause.resumeMismatch,
      need (!migrateDenied c) Cause.priv, need (headerOk c.instr b && bodyOk c.instr b) Cause.paramRecord, copyShapes s c b]) s fun s =>
      let s := s.setWork 2 { zeroWork with prm := b }
      let s := s.setProgs 2 [(0, startWord 2 c s), (1, c.pc), (2, dig), (3, shd), (5, BitVec.ofNat 64 (chunkCount c b)), (7, 0)]
      .ok (if c.resume then s else s.setProgs 2 [(4, 0), (6, 0)]) s

/-! One chunk. -/

/-- An element to move: its source, none for bytes given here, its destination, and whether the index that names its source could not
be read (08 R267). -/
structure MoveElem where
  src : Option Word
  dst : Word
  fill : List Byte
  bad : Bool := false
  deriving DecidableEq, Repr, Inhabited

/-- The report of an uncorrectable error on a source read (08 R267). -/
def sourceUe (unit : Nat) (x : Word × Loc) (l2 : Bool) (c : Cmd) (s : State) : State :=
  let cause := if isScratch x.2.key then Cause.ueScratchpad else if x.2.far then Cause.cxlUe else if l2 then Cause.ueL2 else Cause.ueHbm
  report s (some s.core.partOf) (dieOf s.core.id) cause 1 (unitId s.core.id unit) false c.pc x.1

/-- An error of a unit of work among the requests that come after the first `n` of it. -/
def laterError (n : Nat) (ue : Option ReadError) : Option ReadError :=
  ue.bind fun u => if n ≤ u.request then some { u with request := u.request - n } else none

/-- Reads located blocks. An error strikes one request: it is reported, and where the second read fails too the data is poisoned (08
R267). -/
def takeStruck (unit : Nat) (ag : Agent) (c : Cmd) (far : Word → BitVec 24) (ue : Option ReadError) (ls : List (Word × Loc)) (s : State) :
    List EBlock × State :=
  let r := takeBlocks ag unit c.pc far ls s
  match ue with
  | none => r
  | some u => match ls[u.request]? with
    | none => r
    | some x => (r.1.mapIdx fun i b => if i = u.request ∧ u.again then { b with poison := true } else b, sourceUe unit x u.l2 c r.2)

/-- Reads the located source blocks of a chunk. -/
def takeSources (unit : Nat) (ag : Agent) (c : Cmd) (far : Word → BitVec 24) (ue : Option ReadError) (ls : List (Word × Loc)) (s : State) :
    SMap EBlock × State :=
  let r := takeStruck unit ag c far ue ls s
  (blockMap r.1, r.2)

/-- What a chunk comes to: its writes, its census counts, and whether it wrote poison or met differing scales. -/
structure ChunkOut where
  writes : List BWrite
  counts : Counts
  poison : Bool
  mismatch : Bool
  deriving DecidableEq, Repr, Inhabited

/-- The chunk's end: the writes are committed and CHUNK advances (08 R264 R265). -/
def finishChunk (c : Cmd) (ag : Agent) (o : ChunkOut) (s : State) : EngEnds :=
  let k := s.prog 2 4
  commitUnit 2 c ag o.writes (fun s =>
    let s := if o.poison then s.consume 1 else s
    let s := (s.addCounts 2 o.counts).modWork 2 fun w => { w with mismatch := w.mismatch || o.mismatch }
    s.setProg 2 4 (k + 1)) s

/-- Performs a chunk: every source and destination block is found before the first read, and everything is read before the
first write (08 R262 R265). -/
def runChunk (c : Cmd) (ag : Agent) (far : Word → BitVec 24) (ue : Option ReadError) (srcs dsts : List Word)
    (build : SMap EBlock → SMap (Word × Loc) → State → Except (BitVec 8 × Word) ChunkOut) (s : State) : EngEnds :=
  (locateBlocks ag .read (oneEach (srcs.map blockOf)) s).eng 2 c .read fun ls s =>
    (locateBlocks ag .write ((sortOn (fun a : Word => a.toNat) (dsts.map blockOf)).dedup) s).eng 2 c .write fun ds s =>
      let r := takeSources 3 ag c far ue ls s
      match build r.1 (ds.foldl (fun m d => sput m d.1.toNat d) []) r.2 with
      | .error e => .next (faultHead 2 e.1 e.2 s)
      | .ok o => finishChunk c ag o r.2

/-- The elements as they are written. -/
def moved (m : SMap EBlock) (es : Nat) (x : MoveElem) : EElem :=
  match x.src with
  | some a => let b := blockAt m a; ⟨x.dst, b.at a es, some b.tag, b.poison || x.bad⟩
  | none => ⟨x.dst, x.fill, none, x.bad⟩

/-- The writes of elements at located blocks. -/
def elemWrites (r : TagRule) (es : List EElem) (d : SMap (Word × Loc)) (s : State) : List BWrite :=
  (byBlock es).map fun x => writeElems r (sget d default x.1.toNat) x.2 s

/-- A chunk of a moving command (08 R252 to R255). -/
def moveBuild (c : Cmd) (b : List Byte) (es : Nat) (xs : List MoveElem) (m : SMap EBlock) (d : SMap (Word × Loc)) (s : State) :
    Except (BitVec 8 × Word) ChunkOut :=
  let el := xs.map (moved m es)
  .ok ⟨elemWrites (tagRule c.instr b) el d s, zeroCounts, el.any fun e => e.poison, false⟩

def moveChunk (c : Cmd) (b : List Byte) (ue : Option ReadError) (es : Nat) (xs : List MoveElem) (s : State) : EngEnds :=
  runChunk c (cmdAgent s (scopeCode (field b 0 1)) (tierOf b)) (fun _ => (c.shape 0).farTag 0) ue (xs.filterMap MoveElem.src)
    (xs.map MoveElem.dst) (moveBuild c b es xs) s

/-- The ordinals of chunk `k` of `n` elements of `es` bytes. -/
def chunkRange (k n es : Nat) : List Nat := (List.range (min (65536 / es) (n - k * (65536 / es)))).map fun i => k * (65536 / es) + i

/-- The ordinal of the source of CTRANS's destination element `n`: the first two indices exchanged (08 R253). -/
def transOrdinal (A : Shape) (n : Nat) : Nat :=
  let e0 := A.extent 0
  let e1 := A.extent 1
  n / e1 % e0 + e0 * (n % e1) + n / (e0 * e1) * (e0 * e1)

/-! CGATHER and CSCATTER (08 R254). -/

/-- The blocks of shB that the rows `ks` of a chunk take their indices from, in request order. -/
def indexBlocks (c : Cmd) (ks : List Nat) : List Word := oneEach ((ks.map fun k => (c.shape 1).addrOf k).map blockOf)

/-- The indices of a chunk's rows, each with whether its block could not be read: GATHER_INDEX for one out of range that is not
tolerated. -/
def readIndices (c : Cmd) (b : List Byte) (bound : Nat) (ue : Option ReadError) (ks : List Nat) (s : State) : Act (SMap (Int × Bool)) :=
  let B := c.shape 1
  let ag := cmdAgent s (scopeCode (field b 0 1)) (tierOf b)
  (locateBlocks ag .read (indexBlocks c ks) s).bind fun ls s =>
    let r := takeStruck 3 ag c (fun _ => B.farTag 0) ue ls s
    let struck := (ue.bind fun u => if u.again then (ls[u.request]?).map Prod.fst else none)
    let m := blockMap r.1
    let vs : List (Nat × Word × Int) := ks.map fun k =>
      let a := B.addrOf k
      (k, a, sint (8 * B.ebytes) (ofBytes ((blockAt m a).at a B.ebytes)))
    match vs.find? fun v => !oobs b && !(decide (0 ≤ v.2.2) && decide (v.2.2 < (bound : Int))) with
    | some v => .trap Cause.gatherIndex v.2.1 r.2
    | none => .ok (vs.foldl (fun (m : SMap (Int × Bool)) v => sput m v.1 (v.2.2, struck == some (blockOf v.2.1))) []) r.2

/-- The moves of a gather or scatter for element ordinals `ns`. -/
def indexedMoves (c : Cmd) (scatter : Bool) (ix : SMap (Int × Bool)) (ns : List Nat) : List MoveElem :=
  let X := if scatter then c.shape 2 else c.shape 0
  let O := if scatter then c.shape 0 else c.shape 2
  let w := X.rowSize
  ns.filterMap fun n =>
    let v := sget ix (0, false) (n / w)
    let ok := decide (0 ≤ v.1) && decide (v.1 < X.outer)
    let row := X.addrOf (v.1.toNat * w + n % w)
    if scatter then (if ok then some ⟨some (O.addrOf n), row, [], v.2⟩ else none)
    else some ⟨if ok then some row else none, O.addrOf n, List.replicate X.ebytes 0, v.2⟩

def indexedChunk (c : Cmd) (b : List Byte) (ue : Option ReadError) (scatter : Bool) (k : Nat) (s : State) : EngEnds :=
  let X := if scatter then c.shape 2 else c.shape 0
  let O := if scatter then c.shape 0 else c.shape 2
  let ns := chunkRange k O.count O.ebytes
  let ks := (ns.map fun n => n / X.rowSize).dedup
  (readIndices c b X.outer ue ks s).eng 2 c .read fun ix s =>
    moveChunk c b (laterError (indexBlocks c ks).length ue) O.ebytes (indexedMoves c scatter ix ns) s

/-! CPLANE and CFLAT (08 R256 R257). -/

/-- The addresses of the 512 elements of sub-tile `t` of an element tensor with the rows and columns of a planar one. -/
def subAddrs (el : Shape) (t : Nat) : List Word :=
  let nbc := el.cols / 32
  (List.range 512).map fun i => el.addrOf ((t / nbc * 16 + i / 32) * el.cols + t % nbc * 32 + i % 32)

/-- The sub-tiles of chunk `k`. -/
def subRange (el pl : Shape) (k : Nat) : List Nat :=
  (List.range (min (chunkTiles el) (subTiles pl.rows pl.cols - k * chunkTiles el))).map fun i => k * chunkTiles el + i

/-- The family of a source block of CPLANE: of its tag, or ITYPE for a raw one; none where 08 R256 or 03 R100 refuse it. -/
def sourceFamily (itype es : Nat) (t : BitVec 24) : Option Nat :=
  let fam := if tagFamily t = 0 then itype else tagFamily t
  if tagOk [0, 3, 4, 5, 6] t && fam != 0 && famSize fam == es then some fam else none

/-- The element at an address as CPLANE reads it. -/
def sourceValue (m : SMap EBlock) (itype es : Nat) (a : Word) : Option FVal :=
  let b := blockAt m a
  (sourceFamily itype es b.tag).map fun fam => famValue fam (tagScale b.tag) (if tagZ b.tag then 0 else ofBytes (b.at a es))

/-- The plane blocks of a sub-tile whose integers are known. -/
def planeWrites (d : SMap (Word × Loc)) (base : Word) (fam p nb t : Nat) (e : Int) (ints : List Int) (poison : Bool) : List BWrite :=
  (List.range p).map fun j =>
    let bytes := planeBlock ints j
    wholeBlock (sget d default (planeAddr base p nb t j).toNat) bytes (mkTag fam p e j (bytes.all (· == 0))) poison

/-- An integer of CFLAT's flat side. -/
def flatInt (ty v : Nat) : Int := if ty = 0 then sint 8 v else if ty = 2 then sint 16 v else (v : Int)

/-- The range of a family and plane count (03 R95). -/
def planeRange (fam p : Nat) : Int × Int := if fam = 1 then (-(2 ^ (p - 1)), 2 ^ (p - 1) - 1) else (0, 2 ^ p - 1)

/-- A tag that 03 R100 accepts of any family: what CFLAT asks of its flat blocks, whose entry names no family (log 32). -/
def anyTagOk (t : BitVec 24) : Bool := tagOk (List.range 8) t

/-- One sub-tile toward planes: its scale, integers with events, and poison; or the fault and the block that raises it. -/
def toPlanes (c : Cmd) (b : List Byte) (m : SMap EBlock) (el : Shape) (t : Nat) :
    Except (BitVec 8 × Word) (Int × List (Int × Flags) × Bool) :=
  let fam := field b 9 1
  let p := field b 10 1
  let as := subAddrs el t
  let poison := as.any fun a => (blockAt m a).poison
  match c.instr with
  | .cflat .. =>
    match as.find? fun a => !anyTagOk (blockAt m a).tag with
    | some a => .error (Cause.engineFormat, blockOf a)
    | none =>
      let r := planeRange fam p
      let ints := as.map fun a =>
        let k := blockAt m a
        let v := flatInt (field b 11 1) (if tagZ k.tag then 0 else ofBytes (k.at a el.ebytes))
        let x := clampInt v r.1 r.2
        (x, ({ noFlags with sat := decide (x ≠ v) } : Flags))
      .ok (sint 8 (field b 12 1), ints, poison)
  | _ =>
    let value := sourceValue m (field b 12 1) el.ebytes
    match as.find? fun a => fam == 1 && p == 1 || (value a).isNone with
    | some a => .error (Cause.engineFormat, blockOf a)
    | none =>
      let q := quantiseSub fam p (as.map fun a => (value a).getD (.nan false))
      .ok (q.1, q.2, poison)

/-- What a chunk toward planes comes to. -/
def planeBuild (c : Cmd) (b : List Byte) (ts : List Nat) (m : SMap EBlock) (d : SMap (Word × Loc)) (_ : State) :
    Except (BitVec 8 × Word) ChunkOut := do
  let pl := c.shape 2
  let rs ← ts.mapM fun t => (toPlanes c b m (c.shape 0) t).map fun r => (t, r)
  let ws := rs.flatMap fun r =>
    planeWrites d pl.base (field b 9 1) (field b 10 1) (subTiles pl.rows pl.cols) r.1 r.2.1 (r.2.2.1.map Prod.fst) r.2.2.2
  let cs := sumCounts (rs.flatMap fun r => r.2.2.1.map fun x => ⟨boolBit x.2.invalid, 0, boolBit x.2.sat, 0, 0⟩)
  return ⟨ws, cs, rs.any fun r => r.2.2.2, false⟩

/-- A chunk toward planes. -/
def planeChunk (c : Cmd) (b : List Byte) (ue : Option ReadError) (k : Nat) (s : State) : EngEnds :=
  let el := c.shape 0
  let pl := c.shape 2
  let p := field b 10 1
  let ts := subRange el pl k
  runChunk c (cmdAgent s (scopeCode (field b 0 1)) (tierOf b)) (fun _ => el.farTag 0) ue (ts.flatMap (subAddrs el))
    (ts.flatMap fun t => (List.range p).map fun j => planeAddr pl.base p (subTiles pl.rows pl.cols) t j) (planeBuild c b ts) s

/-- The plane count that the top block of a sub-tile names: by its tag, or the shape's default for a far one. -/
def topPlanes (pl : Shape) (x : Word × Loc) (s : State) : Nat :=
  tagPlanes (if x.2.far then pl.farTag 0 else (s.mdata x.2.key).setWidth 24)

/-- The tag of a far block of a planar shape: the plane index follows from its place (08 R249). -/
def planarFarTag (pl : Shape) (nb : Nat) (a : Word) : BitVec 24 :=
  let p := tagPlanes (pl.farTag 0)
  pl.farTag (p - 1 - (a - pl.base).toNat / 64 / nb)

/-- The blocks of sub-tile `t` that a read of `k` planes takes, plane P - 1 first. -/
def subBlocks (pl : Shape) (nb p k t : Nat) : List Word :=
  (List.range (planesRead k p)).map fun i => planeAddr pl.base p nb t (p - 1 - i)

/-- The first plane block, of those that a read of `k` planes takes, that leaves the region of the tensor. -/
def spanOut (s : State) (pl : Shape) (nb p k : Nat) : Word :=
  (((List.range nb).flatMap fun t => subBlocks pl nb p k t).find? fun a => (spanFault s pl.base a.toNat (a.toNat + 63)).isSome).getD pl.base

/-- One element from planes: its bytes for the element side and its event. -/
def fromPlanes (c : Cmd) (b : List Byte) (t : SubTile) (i : Nat) : List Byte × Counts :=
  match c.instr with
  | .cflat .. =>
    let v := t.ints.getD i 0
    let r := flatRange (field b 11 1)
    let x := clampInt v r.1 r.2
    (toBytes (flatSize (field b 11 1)) (wrap 16 x), ⟨0, 0, boolBit (decide (x ≠ v)), 0, 0⟩)
  | _ =>
    let o := field b 13 1
    let v := (famFmt o).convV 0 (t.value i)
    (toBytes (famSize o) v.1, countOf (famFmt o) v.1 v.2)

/-- The first block of a sub-tile whose tag 03 R100 refuses at its place. -/
def badPlane (bs : List EBlock) : Word :=
  let top := (bs.headD default).tag
  ((bs.zipIdx.find? fun x => !planeTagOk top x.1.tag (tagPlanes top - 1 - x.2)).map fun x => x.1.va).getD (bs.headD default).va

def isFlat : Instr → Bool
  | .cflat .. => true
  | _ => false

/-- What a chunk from planes comes to: `ps` its sub-tiles with their plane counts, `tag` the tag of its destination. -/
def unplaneBuild (c : Cmd) (b : List Byte) (ask : Nat) (ps : List (Nat × Nat)) (tag : BitVec 24) (m : SMap EBlock) (d : SMap (Word × Loc))
    (s : State) : Except (BitVec 8 × Word) ChunkOut := do
  let pl := c.shape 0
  let rs ← ps.mapM fun x =>
    let bs := (subBlocks pl (subTiles pl.rows pl.cols) x.2 ask x.1).map (blockAt m)
    match readSub ask (bs.map fun k => (k.bytes, k.tag)) with
    | none => .error (Cause.engineFormat, badPlane bs)
    | some t => .ok (x.1, t, bs.any fun k => k.poison)
  let xs := rs.flatMap fun r => (subAddrs (c.shape 2) r.1).mapIdx fun i a =>
    let v := fromPlanes c b r.2.1 i
    ((⟨a, v.1, none, r.2.2⟩ : EElem), v.2)
  let es := xs.map Prod.fst
  return ⟨elemWrites (.fixed tag) es d s, sumCounts (xs.map Prod.snd), es.any fun e => e.poison, rs.any fun r => r.2.1.mismatch⟩

/-- A chunk from planes. The tag of CFLAT's flat blocks is a value that the specification does not state (log 32). -/
def unplaneChunk (c : Cmd) (b : List Byte) (ue : Option ReadError) (k : Nat) (s : State) : EngEnds :=
  let pl := c.shape 0
  let el := c.shape 2
  let nb := subTiles pl.rows pl.cols
  let ts := subRange el pl k
  let ag := cmdAgent s (scopeCode (field b 0 1)) (tierOf b)
  let flat := isFlat c.instr
  let ask := if flat then 0 else field b 11 1
  (locateBlocks ag .read (ts.map fun t => pl.base + BitVec.ofNat 64 (64 * t)) s).eng 2 c .read fun tops s =>
    let ps := (ts.zip tops).map fun x => (x.1, topPlanes pl x.2 s)
    match ps.findSome? fun x => (planarSpan s pl (planesRead ask x.2)).map fun cause => (cause, spanOut s pl nb x.2 ask) with
    | some e => .next (faultHead 2 e.1 e.2 s)
    | none =>
      let free := s.fresh
      let tag := if flat then BitVec.ofNat 24 free.1.toNat else mkTag (field b 13 1) 1 0 0 false
      runChunk c ag (planarFarTag pl nb) ue (ps.flatMap fun x => subBlocks pl nb x.2 ask x.1) (ts.flatMap (subAddrs el))
        (unplaneBuild c b ask ps tag) (if flat then free.2 else s)

/-! CPAGEIN (08 R258). -/

/-- A side entry (08 R261): tag and poison, none for a nonzero reserved bit. -/
def sideEntry (v : Nat) : Option (BitVec 24 × Bool) :=
  if v / 2 ^ 25 = 0 then some (BitVec.ofNat 24 v, v / 2 ^ 24 % 2 == 1) else none

/-- The 1,024 addresses of a page's blocks. -/
def pageBlocks (a : Word) : List Word := (List.range 1024).map fun j => a + BitVec.ofNat 64 (64 * j)

/-- The requests of a side array's blocks. -/
def sideBlocks (addrs : List Word) : List Word := oneEach (addrs.map blockOf)

/-- Reads side entries: each with the poison bit of its block, and whether its block could not be read (08 R267). -/
def readSide (ag : Agent) (c : Cmd) (ue : Option ReadError) (addrs : List Word) (s : State) : Act (List (Nat × Bool × Bool)) :=
  (locateBlocks ag .read (sideBlocks addrs) s).bind fun ls s =>
    let plain := takeBlocks ag 3 c.pc (fun _ => 0) ls s
    let r := takeStruck 3 ag c (fun _ => 0) ue ls s
    let m := blockMap r.1
    let old := blockMap plain.1
    .ok (addrs.map fun a => let k := blockAt m a; (ofBytes (k.at a 4), k.poison, k.poison && !(blockAt old a).poison)) r.2

/-- PAGEIN_FAIL for a destination page in an aperture or far (08 R258). -/
def pageinDest (ag : Agent) (a : Word) (s : State) : Act Unit :=
  match region a with
  | .glob => (locate ag .write false a s).bind fun l s => if l.far then .trap Cause.pageinFail a s else .ok () s
  | .bad => .trap Cause.noncanonical a s
  | _ => .trap Cause.pageinFail a s

/-- What a page comes to: `es` its side entries. -/
def pageBuild (b : List Byte) (src dst : Word) (es : List (Nat × Bool × Bool)) (m : SMap EBlock) (d : SMap (Word × Loc)) (_ : State) :
    Except (BitVec 8 × Word) ChunkOut := do
  let ents ← es.mapM fun e => match sideEntry e.1 with
    | none => .error (Cause.engineFormat, dst)
    | some x => .ok (x.1, x.2 || e.2.2)
  let ws := (List.range 1024).map fun j =>
    let o := blockAt m (src + BitVec.ofNat 64 (64 * j))
    let at_ := sget d default (dst + BitVec.ofNat 64 (64 * j)).toNat
    match ents[j]? with
    | some e => wholeBlock at_ o.bytes e.1 (o.poison || e.2)
    | none => wholeBlock at_ o.bytes (withZ (setTag b) o.bytes) o.poison
  return ⟨ws, zeroCounts, ((pageBlocks src).any fun a => (blockAt m a).poison) || es.any fun e => e.2.2, false⟩

def pageinChunk (c : Cmd) (b : List Byte) (ue : Option ReadError) (k : Nat) (s : State) : EngEnds :=
  let src := fw b 8 + BitVec.ofNat 64 (65536 * k)
  let dst := fw b 16 + BitVec.ofNat 64 (65536 * k)
  let ag := cmdAgent s (scopeCode (field b 0 1)) 0
  let side := if field b 32 8 = 0 then [] else (List.range 1024).map fun j => fw b 32 + BitVec.ofNat 64 (4096 * k + 4 * j)
  let ue' := laterError (sideBlocks side).length ue
  (pageinDest ag dst s).eng 2 c .write fun _ s =>
    (readSide ag c ue side s).eng 2 c .read fun es s =>
      let failed := ue'.isSome && (match locate ag .read false src s with
          | .ok l _ => l.far
          | _ => false)
      if failed then .next (faultHead 2 Cause.pageinFail dst s) else
      runChunk c ag (fun _ => 0) ue' (pageBlocks src) (pageBlocks dst) (pageBuild b src dst es) s

/-! CTAGS (08 R261). -/

/-- The blocks of chunk `k`. -/
def tagRange (b : List Byte) (k : Nat) : List Nat := (List.range (min 1024 (field b 24 8 - 1024 * k))).map fun i => 1024 * k + i

/-- CTAGS extract: an entry for each block of the region. An error on the read of a block is treated as any source read's (08 R261
R267). -/
def extractChunk (c : Cmd) (b : List Byte) (ue : Option ReadError) (k : Nat) (s : State) : EngEnds :=
  let ag := cmdAgent s (scopeCode (field b 0 1)) (tierOf b)
  let js := tagRange b k
  (locateBlocks ag .read (js.map fun j => fw b 16 + BitVec.ofNat 64 (64 * j)) s).eng 2 c .read fun rs s =>
    let s := rs.foldl (fun s r => if r.2.far then s else noteAccess s ag.core none ag.scope r.2.key false) s
    let hit := ue.bind fun u => (rs[u.request]?).map fun x => (u, x)
    let es := (js.zip rs).mapIdx fun i x =>
      let md := if x.2.2.far then 0 else (s.mdata x.2.2.key).toNat
      (⟨fw b 32 + BitVec.ofNat 64 (4 * x.1), toBytes 4 md, none, hit.any fun h => h.1.request == i && h.1.again⟩ : EElem)
    (locateElems ag es s).eng 2 c .write fun ds s =>
      let t := match hit with
        | some h => sourceUe 3 h.2 h.1.l2 c s
        | none => s
      finishChunk c ag ⟨ds.map fun d => writeElems (.fixed 0) d.1 d.2 s, zeroCounts, es.any fun e => e.poison, false⟩ t

def applyChunk (c : Cmd) (b : List Byte) (ue : Option ReadError) (k : Nat) (s : State) : EngEnds :=
  let ag := cmdAgent s (scopeCode (field b 0 1)) (tierOf b)
  let js := tagRange b k
  let side := fun (j : Nat) => fw b 32 + BitVec.ofNat 64 (4 * j)
  (readSide ag c ue (js.map side) s).eng 2 c .read fun es s =>
    (locateBlocks ag .write (js.map fun j => fw b 16 + BitVec.ofNat 64 (64 * j)) s).eng 2 c .write fun rs s =>
      match rs.find? (fun r => r.2.far), (js.zip es).find? (fun x => (sideEntry x.2.1).isNone) with
      | some r, _ => .next (faultHead 2 Cause.apertureAccess r.1 s)
      | none, some x => .next (faultHead 2 Cause.engineFormat (side x.1) s)
      | none, none =>
        let ws := (rs.zip es).map fun r =>
          let e := (sideEntry r.2.1).getD (0, false)
          wholeBlock r.1 (s.peek r.1.2.key 64) e.1 (e.2 || r.2.2.1)
        finishChunk c ag ⟨ws, zeroCounts, es.any fun e => e.2.1, false⟩ s

/-! The events. -/

/-- The copy command that may perform chunk `k`: nothing pending, no stop asked for, chunks left. -/
def copyReady (s : State) : Option (Cmd × Nat) :=
  (s.engineReady 2).bind fun c =>
    let k := (s.prog 2 4).toNat
    if (s.work 2).goesOn ∧ k < (s.prog 2 5).toNat then some (c, k) else none

/-! CMIGRATE (08 R259 R260). -/

/-- The level-0 leaf of a page and its address: PAGE_NOT_PRESENT is posted, every other walk that ends at no such leaf stops the command
with COPY_RANGE (08 R259). -/
def migrateLeaf (ag : Agent) (va : Word) (s : State) : Act (Word × Nat) :=
  match region va with
  | .glob => match walkChecked s ag va.toNat with
    | .fail cause => if cause = Cause.pageNotPresent then .fault cause va s else .trap Cause.copyRange va s
    | .leaf l e a _ => if l = 0 then .ok (e, a) s else .trap Cause.copyRange va s
  | _ => .trap Cause.copyRange va s

/-- The leaf after the switch: the entry as it stands with the new frame, WB still set (08 R260). -/
def migratedLeaf (e : Word) (frame : Nat) (newFar : Bool) : Word := setBits (setBits e 16 40 frame) 4 1 (boolBit newFar)

/-- The leaf equals the one that the first step found, with WB = 1, but for A and D. -/
def sameLeaf (old e : Word) : Bool :=
  leafWB e && setBits (setBits old 7 2 0) 5 1 1 == setBits e 7 2 0

/-- The blocks of a page as they arrive in the new frame (08 R260). -/
def migrateWrites (b : List Byte) (va : Word) (old : Word) (frame : Nat) (newFar : Bool) (bs : List EBlock) (s : State) : List BWrite :=
  let from_ := leafKey 0 old va.toNat
  let frameKey := if newFar then hostKey (frame * 65536) else frame * 65536
  bs.mapIdx fun j k =>
    let tag := if leafFar old then withZ (setTag b) k.bytes else (s.mdata (from_ + 64 * j)).setWidth 24
    wholeBlock (k.va, ⟨frameKey + 64 * j, newFar, old⟩) k.bytes tag k.poison

/-- The steps of a page's migration (08 R260): the leaf's WB is not set yet; set, its shootdown to complete and the copy to make;
copied, the leaf to be switched; switched, its shootdown to complete and WB to be cleared; cleared, its shootdown to complete. -/
inductive MigStep where
  | block | copy | switch | unblock | finish
  deriving DecidableEq, Repr

def MigStep.of : Nat → MigStep
  | 0 => .block | 1 => .copy | 2 => .switch | 3 => .unblock | _ => .finish

/-- A step of a page that is not its first: the page is carried through its last step before any stop. -/
def migrateStep (n : Nat) (s : State) : State := (s.setMark 2 0 n).modWork 2 fun w => { w with mid := n != 0 }

/-- Replaces the leaf at `at_` by a package-scope access, after which the page is shot down (08 R260), and goes on. -/
def putLeaf (ag : Agent) (at_ : Nat) (va e : Word) (s : State) (f : State → State) : EngEnds :=
  match performRun ag none at_ (toBytes 8 e.toNat) s with
  | (false, s) => .next s
  | (true, s) => .next (f (discardTlb s.core.partOf 3 (some va.toNat) s))

/-- One step of the page that the running CMIGRATE has come to (08 R260). The leaf that the first step found stands in
row 0 of the working state, its address in row 1. A step after a shootdown waits for the accesses that used what was discarded (04
R122). `ue`: an error on one of the copy's reads (08 R267). -/
def migratePage (ue : Option ReadError) (s : State) : EngEnds :=
  match copyReady s with
  | none => .next s
  | some (c, k) =>
    match c.instr with
    | .cmigrate .. =>
      let b := (s.work 2).prm
      let va := fw b 16 + BitVec.ofNat 64 (65536 * k)
      let newFar := field b 8 1 == 1
      let frame := field b 24 5 + k
      let ag := cmdAgent s 3 0
      let old := sget (s.work 2).rows 0 0
      let at_ := (sget (s.work 2).rows 0 1).toNat
      let now := BitVec.ofNat 64 (s.peekNat at_ 8)
      if s.mark 2 0 != 0 && shootWaits s.core.partOf 3 (some va.toNat) s then .next s else
      match MigStep.of (s.mark 2 0) with
      | .block =>
        (migrateLeaf ag va s).eng 2 c .read fun leaf s =>
          if !newFar && (decide (hbmTop < frame * 65536 + 65536) || !s.ownsKey s.core.partOf.val (frame * 65536)) then
            .next (faultHead 2 Cause.partitionBounds va s)
          else if leafWB leaf.1 then .next (faultHead 2 Cause.copyRange va s)
          else
            putLeaf ag leaf.2 va (setBits leaf.1 5 1 1) s fun s =>
              (migrateStep 1 s).modWork 2 fun w => { w with rows := [(0, leaf.1), (1, BitVec.ofNat 64 leaf.2)] }
      | .copy =>
        let from_ := leafKey 0 old va.toNat
        let ls := (List.range 1024).map fun j =>
          (va + BitVec.ofNat 64 (64 * j), (⟨from_ + 64 * j, leafFar old, old⟩ : Loc))
        let r := takeStruck 3 ag c (fun _ => 0) ue ls s
        let ws := migrateWrites b va old frame newFar r.1 r.2
        let struck := ue.any fun u => u.again && decide (u.request < 1024)
        commitShown 2 c ag ws [] (fun s => s.setProg 2 4 (BitVec.ofNat 64 (k + 1)))
          (fun s => migrateStep 2 (if struck then s.consume 1 else s)) r.2
      | .switch =>
        if sameLeaf old now then putLeaf ag at_ va (migratedLeaf now frame newFar) s (migrateStep 3)
        else .next (faultHead 2 Cause.copyRange va s)
      | .unblock => putLeaf ag at_ va (setBits now 5 1 0) s (migrateStep 4)
      | .finish => .next ((migrateStep 0 s).setProg 2 4 (BitVec.ofNat 64 (k + 1)))
    | _ => .next s

/-- COPY_CHUNK: one chunk of the running command (08 R262). `ue`: an error on one of its read requests, those of indices and side
entries first (08 R267). A chunk of CMIGRATE is a page (08 R262). -/
def execCopyChunk (ue : Option ReadError) (s : State) : EngEnds :=
  match copyReady s with
  | none => .next s
  | some (c, k) =>
    let b := (s.work 2).prm
    let A := c.shape 0
    let C := c.shape 2
    match c.instr with
    | .ccopy .. => moveChunk c b ue C.ebytes ((chunkRange k C.count C.ebytes).map fun n => ⟨some (A.addrOf n), C.addrOf n, [], false⟩) s
    | .ctrans .. => moveChunk c b ue C.ebytes ((chunkRange k C.count C.ebytes).map fun n => ⟨some (A.addrOf (transOrdinal A n)), C.addrOf n, [], false⟩) s
    | .cfill .. => moveChunk c b ue C.ebytes ((chunkRange k C.count C.ebytes).map fun n => ⟨none, C.addrOf n, slice b 8 C.ebytes, false⟩) s
    | .cgather .. => indexedChunk c b ue false k s
    | .cscatter .. => indexedChunk c b ue true k s
    | .cplane .. | .cflat .. => if field b 8 1 = 0 then planeChunk c b ue k s else unplaneChunk c b ue k s
    | .cpagein .. => pageinChunk c b ue k s
    | .ctags .. => if field b 8 1 = 0 then extractChunk c b ue k s else applyChunk c b ue k s
    | .cmigrate .. => migratePage ue s
    | _ => .next s

/-- CMIGRATE_PAGE: one step of the page that the running CMIGRATE has come to, without an error on its reads (08 R260). -/
def execCmigratePage (s : State) : EngEnds := migratePage none s

end

end Sys2Proof.Machine
end

