-- ==== Sys2Proof/Machine/Phases.lean ====
section
/-! DEFINITION. What the macro sequencers share: phases of their double buffers (01 R37, 08 R268 to R271), operands read by
K groups (09 R274 R278), the group sums of 03 R103, exclusion (09 R292) and tile masks (09 R291). -/

namespace Sys2Proof.Machine

noncomputable section

/-! Phases. -/

/-- FETCHED and REFETCH (08 R263). -/
def State.countFetched (s : State) : State :=
  s.modEng fun g => { g with fetches := setBits g.fetches 0 32 (bits g.fetches 0 32 + 1) }
def State.countRefetch (s : State) : State :=
  s.modEng fun g => { g with fetches := setBits g.fetches 32 32 (bits g.fetches 32 32 + 1) }

/-- OUTST of engines 0 and 1 (09 R297, 10 R321): the phase fetches that are not complete. -/
def State.setOutst (s : State) (q : Nat) : State :=
  if q ≤ 1 then s.setProg q 7 (BitVec.ofNat 64 ((s.work q).phases.filter fun p => !p.done).length) else s

def State.modPhases (s : State) (q : Nat) (f : List Phase → List Phase) : State :=
  (s.modWork q fun w => { w with phases := f w.phases }).setOutst q

/-- The fetched phase of a pair for a unit of work. -/
def State.phaseOf (s : State) (q pair unit : Nat) : Option Phase :=
  (s.work q).phases.find? fun p => p.pair == pair && p.unit == unit && p.done

/-- `n` bytes that nothing states. -/
def freeBytes (n : Nat) (s : State) : List Byte × State :=
  ((List.range n).map (Config.freeByte s.free), { s with free := s.free + 1 })

/-- Starts the fetch of a phase (08 R269): it waits until its tile is EMPTY. `bit` is the tile of the pair that is consumed
next; the pair holds at most two phases. -/
def fetchPhase (q pair t0 t1 bit unit : Nat) (s : State) : EngEnds :=
  let n := ((s.work q).phases.filter fun p => p.pair == pair).length
  let t : Fin 64 := Fin.ofNat 64 (if (bit + n) % 2 = 0 then t0 else t1)
  if n < 2 ∧ (s.core.tiles.get t).state = .empty then
    .next ((s.modTiles (onTiles Tile.start [(t, true)])).modPhases q fun l => l ++ [⟨pair, t, unit, false, false, []⟩])
  else .next s

/-- Completes the fetch of the oldest phase with its blocks: its tile is READY and its bytes, whose layout nothing states,
are free values (log 33). REFETCH counts a phase that was fetched once more (08 R270). -/
def finishPhase (q : Nat) (ph : Phase) (m : SMap EBlock) (s : State) : State :=
  let t := s.core.tiles.get ph.tile
  let fb := freeBytes (64 * t.size.toNat) s
  let s := fb.2.poke (scratchKey s.core.id (64 * t.base.toNat)) fb.1
  let s := s.modTiles (onTiles Tile.finish [(ph.tile, true)])
  let s := (s.modPhases q fun l => l.map fun p => if p.pair = ph.pair ∧ p.unit = ph.unit then { p with done := true, blocks := m } else p).countFetched
  if ph.refetched then s.countRefetch else s

/-- The phase whose fetch completes next: fetches complete in request order (08 R269). -/
def State.fetching (s : State) (q : Nat) : Option Phase := (s.work q).phases.find? fun p => !p.done

/-- An uncorrectable error strikes a phase (08 R270): it is cancelled and fetched once more; a second one is PHASE_UE. -/
def strikePhase (q : Nat) (c : Cmd) (ph : Phase) (cause : BitVec 8) (va : Word) (s : State) : State :=
  let s := report s (some s.core.partOf) (dieOf s.core.id) cause 1 (unitId s.core.id (q + 1)) false c.pc va
  if ph.refetched then faultHead q Cause.phaseUe va s
  else
    let s := s.modTiles fun v => v.set ph.tile { v.get ph.tile with state := .filling }
    s.modPhases q fun l => l.map fun p =>
      if p.pair = ph.pair ∧ p.unit = ph.unit then { p with done := false, refetched := true, blocks := [] } else p

/-- The sequencer has consumed a phase: it swaps to the other tile of the pair (01 R37). -/
def consumePhase (q pair unit : Nat) (s : State) : State :=
  match s.phaseOf q pair unit with
  | none => s
  | some ph =>
    (s.modTiles fun v => v.set ph.tile { v.get ph.tile with state := .empty }).modPhases q fun l =>
      l.filter fun p => !(p.pair == pair && p.unit == unit)

/-- Discards every phase: their tiles are EMPTY again (08 R271). -/
def dropPhases (q : Nat) (s : State) : State :=
  let s := s.modTiles (onTiles Tile.abandon (((s.work q).phases.filter fun p => !p.done).map fun p => (p.tile, true)))
  let s := s.modTiles fun v => (s.work q).phases.foldl (fun v p => v.set p.tile { v.get p.tile with state := .empty }) v
  s.modPhases q fun _ => []

/-- The cause of an uncorrectable error at a place. -/
def ueCause (k : Nat) : BitVec 8 := if isScratch k then Cause.ueScratchpad else if isHost k then Cause.cxlUe else Cause.ueHbm

/-- The cause of an uncorrectable error on an engine's read of a block, which L2 may hold (08 R267 R270). -/
def readCause (b : EBlock) (l2 : Bool) : BitVec 8 :=
  if b.far then Cause.cxlUe else if isOwn b.va then Cause.ueScratchpad else if l2 then Cause.ueL2 else Cause.ueHbm

/-- Completes the phase fetch in flight: its blocks are read, unless an error strikes one of them, counted in address order. -/
def completePhase (q : Nat) (c : Cmd) (ph : Phase) (ue : Option ReadError) (rd : State → Act (SMap EBlock)) (s : State) : EngEnds :=
  (rd s).eng q c .read fun m s =>
    match ue.bind fun u => (m[u.request]?).map fun x => (x.2, u.l2) with
    | some z => .next (strikePhase q c ph (readCause z.1 z.2) z.1.va s)
    | none => .next (finishPhase q ph m s)

/-- An uncorrectable error in the tile of fetched phase `k`, in the order of the requests (08 R270). -/
def strikeTile (q k : Nat) (c : Cmd) (s : State) : State :=
  match ((s.work q).phases.filter fun p => p.done)[k]? with
  | none => s
  | some ph => strikePhase q c ph Cause.ueScratchpad (BitVec.ofNat 64 (0xF0 * 2 ^ 56 + 64 * (s.core.tiles.get ph.tile).base.toNat)) s

/-- The tile of a pair that is consumed next: PHASE (09 R297). -/
def State.phaseBit (s : State) (q pair : Nat) : Nat := s.mark q (8 + pair)

/-- The sequencer has consumed a phase and takes the other tile of the pair next. -/
def swapPhase (q pair unit : Nat) (s : State) : State :=
  if (s.phaseOf q pair unit).isSome then (consumePhase q pair unit s).setMark q (8 + pair) (1 - s.phaseBit q pair) else s

/-! Operands (09 R274 R278). -/

/-- An operand of one batch: its shape and the planes asked for, 0 for all. -/
structure Operand where
  shape : Shape
  planes : Nat
  deriving DecidableEq, Repr

/-- The shape with its base moved (09 R276). -/
def Shape.moved (h : Shape) (d : Int) : Shape := ⟨h.w.set 0 (h.base + BitVec.ofInt 64 d)⟩

/-- An integer class operand: planar or i8 rows. -/
def Shape.intClass (h : Shape) : Bool := h.planar || h.esize == 0

/-- What 09 R278 asks of an operand's shape. -/
def Shape.operandOk (h : Shape) (kinds : List Nat) : Bool :=
  kinds.contains h.esize &&
  (h.planar || (h.base.toNat % 64 == 0 && (List.range (h.rank - 1)).all (fun k => h.stride (k + 1) % 64 == 0) &&
    h.stride 0 == (h.ebytes : Int) && h.cols % (if h.esize = 0 then 64 else 32) == 0))

/-- What 09 R278 asks of an output's shape. -/
def Shape.outputOk (h : Shape) : Bool :=
  h.esize == 2 && h.base.toNat % 4 == 0 && (List.range h.rank).all fun k => h.stride k % 4 == 0

/-- The families an operand's blocks may have. -/
def Shape.families (h : Shape) : List Nat := if h.planar then [1, 2] else if h.esize = 0 then [6] else [4]

/-- An element as read: its value, whether Z removes it, the planes read and poison. -/
structure Cell where
  val : FVal
  zero : Bool
  planes : Nat
  poison : Bool
  deriving DecidableEq, Repr

/-- The sub-tile that holds an element of a planar operand. -/
def Operand.subOf (o : Operand) (r c : Nat) : Nat := r / 16 * (o.shape.cols / 32) + c / 32

def Operand.nb (o : Operand) : Nat := subTiles o.shape.rows o.shape.cols

/-- The blocks of a sub-tile that are read, of `p` planes. -/
def Operand.subVas (o : Operand) (p t : Nat) : List Word := subBlocks o.shape o.nb p o.planes t

/-- A sub-tile among fetched blocks, with its blocks. -/
def Operand.sub (o : Operand) (m : SMap EBlock) (t : Nat) : Option SubTile × List EBlock :=
  let top := blockAt m (o.shape.base + BitVec.ofNat 64 (64 * t))
  let bs := (o.subVas (tagPlanes top.tag) t).map (blockAt m)
  (readSub o.planes (bs.map fun b => (b.bytes, b.tag)), bs)

/-- The address of an element of a row operand. -/
def Operand.elemVa (o : Operand) (r c : Nat) : Word := o.shape.addrOf (r * o.shape.cols + c)

/-- One element of a row operand. -/
def Operand.rowCell (o : Operand) (m : SMap EBlock) (r c : Nat) : Cell :=
  let a := o.elemVa r c
  let b := blockAt m a
  let es := o.shape.ebytes
  ⟨famValue (if o.shape.esize = 0 then 6 else 4) (tagScale b.tag) (if tagZ b.tag then 0 else ofBytes (b.at a es)), tagZ b.tag, 8, b.poison⟩

/-- The 32 elements of a K group: row `r`, columns from `c`. Z removes the elements of a sub-tile that is read whole; with fewer planes they
are midpoints, which are not zero (03 R97). -/
def Operand.group (o : Operand) (m : SMap EBlock) (r c : Nat) : List Cell :=
  if o.shape.planar then
    let x := o.sub m (o.subOf r c)
    let z := x.2.all fun b => tagZ b.tag
    let t := x.1.getD default
    (List.range 32).map fun j => ⟨t.value (32 * (r % 16) + j), z && t.full, t.k, x.2.any fun b => b.poison⟩
  else (List.range 32).map fun j => o.rowCell m r (c + j)

/-- Reads the blocks of K groups, given as row and first column, and checks their tags (03 R100): `TAG_MISMATCH` is noted. -/
def Operand.fetch (o : Operand) (ag : Agent) (q : Nat) (c : Cmd) (groups : List (Nat × Nat)) (s : State) : Act (SMap EBlock) :=
  if o.shape.planar then
    let ts := (groups.map fun g => o.subOf g.1 g.2).dedup
    (locateBlocks ag .read (ts.map fun t => o.shape.base + BitVec.ofNat 64 (64 * t)) s).bind fun tops s =>
      let ps := (ts.zip tops).map fun x => (x.1, topPlanes o.shape x.2 s)
      match ps.findSome? fun x => planarSpan s o.shape (planesRead o.planes x.2) with
      | some cause => .trap cause 0 s
      | none =>
        (readBlocks ag (q + 1) c.pc (planarFarTag o.shape o.nb) (ps.flatMap fun x => o.subVas x.2 x.1) s).bind fun m s =>
          let subs := ts.map fun t => (o.sub m t).1
          if subs.any Option.isNone then .trap Cause.engineFormat 0 s
          else
            let bad := subs.any fun t => (t.getD default).mismatch
            .ok m (s.modWork q fun w => { w with mismatch := w.mismatch || bad })
  else
    (readBlocks ag (q + 1) c.pc (fun _ => o.shape.farTag 0) (groups.flatMap fun g => (List.range 32).map fun j => o.elemVa g.1 (g.2 + j)) s).bind fun m s =>
      match m.find? fun x => !tagOk o.shape.families x.2.tag with
      | some x => .trap Cause.engineFormat x.2.va s
      | none => .ok m s

/-- Two sets of fetched blocks together. -/
def joinBlocks (a b : SMap EBlock) : SMap EBlock := b.foldl (fun m x => sput m x.1 x.2) a

/-! Group sums (03 R103). -/

/-- A product of two elements: NaN for a NaN or 0 times infinity. -/
def prodV (a b : FVal) : FVal := if a.isNan || b.isNan then .nan false else (mulV a b).getD (.nan false)

/-- The exact sum of values; infinities of opposite sign give NaN. -/
def sumV (l : List FVal) : FVal :=
  let pos := l.any fun v => v == .inf false
  let neg := l.any fun v => v == .inf true
  if l.any FVal.isNan || (pos && neg) then .nan false
  else if pos then .inf false
  else if neg then .inf true
  else
    let fins := l.filterMap fun v => match v with
      | .fin n m e => some (n, m, e)
      | _ => none
    let e0 := fins.foldl (fun (a : Int) x => min a x.2.2) 0
    let t := (fins.map fun x => finScaled x.1 x.2.1 x.2.2 e0).sum
    .fin (decide (t < 0)) t.natAbs e0

/-- rne to a format. -/
def Fmt.rne (t : Fmt) : FVal → Nat × Flags
  | .nan _ => (t.nan, noFlags)
  | .inf n => (t.inf n, noFlags)
  | .fin n m e => t.round 0 n m e false

/-- The w of a group: saturated for the integer class. -/
def groupW (int : Bool) (ps : List (FVal × FVal)) : Nat × Flags :=
  let v := sumV (ps.map fun p => prodV p.1 p.2)
  if int then f32.convV 0 v else f32.rne v

/-- One group added to an accumulator, with the counts of its two roundings. -/
def accGroup (int : Bool) (acc : Nat) (ps : List (FVal × FVal)) : Nat × Counts :=
  let w := groupW int ps
  let a := f32.addV 0 (f32.decode acc) (f32.decode w.1)
  (a.1, (countOf f32 w.1 w.2).add (countOf f32 a.1 a.2))

/-- Groups added in order. -/
def accGroups (int : Bool) (acc : Nat) (gs : List (List (FVal × FVal))) : Nat × Counts :=
  gs.foldl (fun (a : Nat × Counts) g => let r := accGroup int a.1 g; (r.1, a.2.add r.2)) (acc, zeroCounts)

/-! Exclusion and masks (09 R291 R292). -/

/-- What excludes pairs of query rows and key elements. -/
structure Excl where
  lq : Nat
  lk : Nat
  causal : Bool
  win : Nat
  qpos : Int
  kpos : Int
  deriving DecidableEq, Repr

/-- Key element `j` is excluded for query row `i`. -/
def Excl.out (x : Excl) (i j : Nat) : Bool :=
  decide (x.lq ≤ i) || decide (x.lk ≤ j) || (x.causal && decide (x.qpos + i < x.kpos + j)) ||
  (decide (0 < x.win) && decide ((x.win : Int) ≤ x.qpos + i - (x.kpos + j)))

/-- Some pair of a query tile and a key tile is not excluded. -/
def Excl.anyPair (x : Excl) (qt kt : Nat) : Bool :=
  (List.range 128).any fun i => (List.range 128).any fun j => !x.out (128 * qt + i) (128 * kt + j)

/-- Words of a mask row for `tk` key tiles. -/
def maskWords (tk : Nat) : Nat := cdiv tk 64

/-- The bytes of a piece of a mask as an engine takes them: zeros where its block has Z (03 R100). -/
def Piece.shown (p : Piece) : List Byte := if tagZ (p.mdata.setWidth 24) then List.replicate p.bytes.length 0 else p.bytes

/-- Reads row `row` of a mask as it stands: its words and whether each lies in a poisoned block (10 R323). -/
def readMaskRow (ag : Agent) (unit : Nat) (base : Word) (row tk : Nat) (s : State) : Act (List Nat × List Bool) :=
  let w := maskWords tk
  (readDirect ag (base + BitVec.ofNat 64 (8 * row * w)) (8 * w) s (unit := unit)).bind fun ps s =>
    match ps.find? fun p => !anyTagOk (p.mdata.setWidth 24) with
    | some p => .trap Cause.engineFormat p.va s
    | none =>
      let bs := ps.flatMap Piece.shown
      let bad := ps.flatMap fun p => List.replicate p.bytes.length p.poisoned
      .ok ((List.range w).map fun i => field bs (8 * i) 8, (List.range w).map fun i => bad.getD (8 * i) false) s

/-- Reads row `row` of an input mask: MASK_SHAPE for a bit at or beyond `tk` (09 R291, 10 R311). -/
def readMask (ag : Agent) (unit : Nat) (base : Word) (row tk : Nat) (s : State) : Act (List Nat × List Bool) :=
  (readMaskRow ag unit base row tk s).bind fun r s =>
    let n := (r.1.zipIdx.map fun x => x.1 * 2 ^ (64 * x.2)).sum
    if 2 ^ tk ≤ n then .trap Cause.maskShape base s else .ok r s

/-- Bit `t` of a mask row. -/
def maskBit (ws : List Nat) (t : Nat) : Bool := ws.getD (t / 64) 0 / 2 ^ (t % 64) % 2 == 1

/-- Finds every block of K groups without reading it. -/
def Operand.locs (o : Operand) (ag : Agent) (groups : List (Nat × Nat)) (s : State) : Act (List (Word × Loc)) :=
  if o.shape.planar then
    let ts := (groups.map fun g => o.subOf g.1 g.2).dedup
    (locateBlocks ag .read (ts.map fun t => o.shape.base + BitVec.ofNat 64 (64 * t)) s).bind fun tops s =>
      locateBlocks ag .read ((ts.zip tops).flatMap fun x => o.subVas (topPlanes o.shape x.2 s) x.1) s
  else locateBlocks ag .read (oneEach ((groups.flatMap fun g => (List.range 32).map fun j => o.elemVa g.1 (g.2 + j)).map blockOf)) s

/-- The lowest far page among located blocks. -/
def lowestFar (ls : List (Word × Loc)) : Option Word :=
  match (ls.filter fun x => x.2.far).map fun x => x.1.toNat / 65536 with
  | [] => none
  | p :: r => some (BitVec.ofNat 64 (r.foldl min p * 65536))

/-- A 64-bit field as a signed integer. -/
def fieldInt (b : List Byte) (o : Nat) : Int := sint 64 (field b o 8)

/-- SCOPE of a record of engines 0, 1 and 3: a code, or the record is not well formed. -/
def scopeOk (b : List Byte) : Bool := decide (field b 0 1 < 6)

/-- Tile numbers in record bytes: bits 7 and 6 are reserved. -/
def tilesOk (b : List Byte) (os : List Nat) : Bool := os.all fun o => decide (field b o 1 < 64)

/-- Checks of the phase tiles a record names (09 R277, 10 R310): each with the bytes its phases need. -/
def phaseTiles (s : State) (q : Nat) (ts : List (Nat × Nat)) : Option (BitVec 8) :=
  let tile := fun n => s.core.tiles.toList.getD n zeroTile
  if ts.any fun t => (tile t.1).size = 0 then some Cause.tileUndefined
  else if (ts.any fun t => (tile t.1).owner.toNat ≠ q ∨ (tile t.1).size.toNat * 64 < t.2) ∨ !(ts.map Prod.fst).Nodup
  then some Cause.tileState
  else none

/-- Two byte intervals overlap. -/
def meets (a b : Nat × Nat) : Bool := decide (a.1 < b.2) && decide (b.1 < a.2)

/-- The bounding box of a shape over batches. -/
def Shape.batchBox (h : Shape) (n : Nat) (stride : Int) : Nat × Nat :=
  let a := (h.moved 0).box
  let z := (h.moved (((n : Int) - 1) * stride)).box
  (min a.1 z.1, max a.2 z.2)

/-- What a shape of `n` batches raises at the start of its command. -/
def batchFault (s : State) (h : Shape) (planarOk : Bool) (n : Nat) (stride : Int) : Option (BitVec 8) :=
  firstFault [shapeFault s h planarOk 1, shapeFault s (h.moved (((n : Int) - 1) * stride)) planarOk 1]

/-- The tag of outputs and row states: family f32, scale 0, plane 0 (09 R281 R294). -/
def f32Tag : BitVec 24 := mkTag 3 1 0 0 false

end

end Sys2Proof.Machine
end

