-- ==== Sys2Proof/Machine/Matrix.lean ====
section
/-! DEFINITION. The matrix engine's GEMMs: start, tile steps, accumulators and retirement (09 R272 R275 to R288 R297 to R304).
Marks of the running command: 0 to 3 the loop indices, 4 the bank is loaded, 5 MISSN, 8 to 10 PHASE. -/

namespace Sys2Proof.Machine

noncomputable section

/-! Clocks (09 R272 R299). -/

/-- The clocks of the classes that depend on memory timing are free values (log 34). -/
def chargeWaits (s : State) : State :=
  let f := fun (cls : Nat) (s : State) => chargeClocks cls ((Config.freeNat s.free) % 2 ^ 32) { s with free := s.free + 1 }
  f 3 (f 2 (f 1 s))

/-- Array clocks of a tile step (09 R272): for each K group that forms a product its planes product, or none for bf16. -/
def arrayClocks (int : Bool) (gs : List Nat) : Nat :=
  if int then
    let fs := gs.map fun p => 64 / p
    let den := fs.foldl (· * ·) 1
    cdiv ((fs.map fun f => 32 * (den / f)).sum) den
  else 64 * gs.length

/-! Records and positions. -/

def isGemm : Instr → Bool
  | .mgemm .. | .mgemms .. | .mconv .. => true
  | _ => false

/-- IMM[2:0] of a matrix command. -/
def immBits : Instr → Nat
  | .mgemm _ _ _ _ _ _ _ a | .mgemms _ _ _ _ _ _ _ a | .mconv _ _ _ _ _ _ _ a => a.val
  | .mattn _ _ _ _ _ _ _ v f => f.val + 2 * v.val
  | _ => 0

/-- MAXRED (09 R286). -/
def State.maxred (s : State) : Nat := max 1 s.core.sup.maxred.toNat

def accloc (b : List Byte) : Word := fw b 16

/-- Geometry of MCONV (09 R283 R284). -/
structure Conv where
  fh : Nat
  fw : Nat
  su : Nat
  sv : Nat
  ph : Nat
  pw : Nat
  dh : Nat
  dw : Nat
  ch : Nat
  w : Nat
  h : Nat
  deriving DecidableEq, Repr

def convOf (c : Cmd) (b : List Byte) : Conv :=
  let g := fun i => field b (64 + i) 1
  let A := c.shape 0
  ⟨g 0, g 1, g 2, g 3, g 4, g 5, g 6, g 7, A.extent 0, A.extent 1, A.extent 2⟩

/-- OH and OW, as integers. -/
def Conv.out (v : Conv) : Int × Int :=
  (((v.h : Int) + 2 * v.ph - v.dh * ((v.fh : Int) - 1) - 1) / v.su + 1, ((v.w : Int) + 2 * v.pw - v.dw * ((v.fw : Int) - 1) - 1) / v.sv + 1)

def Conv.ok (v : Conv) : Bool :=
  let r := fun (x lo hi : Nat) => decide (lo ≤ x) && decide (x ≤ hi)
  r v.fh 1 16 && r v.fw 1 16 && r v.su 1 8 && r v.sv 1 8 && r v.ph 0 15 && r v.pw 0 15 && r v.dh 1 8 && r v.dw 1 8

/-- The place in the input of an element of the implicit operand (09 R284). -/
def Conv.src (v : Conv) (row col : Nat) : Option (Nat × Nat) :=
  let ow := v.out.2.toNat
  let tap := col / v.ch
  let h : Int := ((row / ow * v.su : Nat) : Int) - v.ph + ((tap / v.fw * v.dh : Nat) : Int)
  let w : Int := ((row % ow * v.sv : Nat) : Int) - v.pw + ((tap % v.fw * v.dw : Nat) : Int)
  if 0 ≤ h ∧ h < v.h ∧ 0 ≤ w ∧ w < v.w then some (h.toNat * v.w + w.toNat, col % v.ch) else none

/-- M, N, K and NB of a GEMM. -/
structure Dims where
  m : Nat
  n : Nat
  k : Nat
  nb : Nat
  deriving DecidableEq, Repr

def dimsOf (c : Cmd) (b : List Byte) : Dims :=
  let C := c.shape 2
  ⟨C.rows, C.cols, (c.shape 1).cols, field b 8 4⟩

def Dims.mt (d : Dims) : Nat := cdiv d.m 128
def Dims.nt (d : Dims) : Nat := cdiv d.n 128
def Dims.kt (d : Dims) : Nat := cdiv d.k 128

/-- A place in the loop: batch, n-tile, m-tile and k-step (09 R298). -/
structure Pos where
  b : Nat
  nt : Nat
  mt : Nat
  ks : Nat
  deriving DecidableEq, Repr

def posAt (s : State) : Pos := ⟨s.mark 0 0, s.mark 0 1, s.mark 0 2, s.mark 0 3⟩

/-- The number of the tile step at a place. -/
def Dims.unit (d : Dims) (p : Pos) : Nat := ((p.b * d.nt + p.nt) * d.mt + p.mt) * d.kt + p.ks
def Dims.place (d : Dims) (u : Nat) : Pos :=
  ⟨u / d.kt / d.mt / d.nt, u / d.kt / d.mt % d.nt, u / d.kt % d.mt, u % d.kt⟩
def Dims.total (d : Dims) : Nat := d.nb * d.nt * d.mt * d.kt

/-! The start (09 R276 to R288 R302). -/

def gemmRecordOk (i : Instr) (b : List Byte) : Bool :=
  let byte := fun o => field b o 1
  scopeOk b && (byte 1 == 0 || byte 1 == 2) && tilesOk b [2, 3, 4, 5] && decide (byte 6 ≤ 8) && decide (byte 7 ≤ 8) &&
  decide (1 ≤ field b 8 4) && decide (field b 8 4 ≤ 65536) && zeroBytes b 12 4 && field b 16 8 % 64 == 0 && zeroBytes b 72 56 &&
  (match i with
   | .mgemms .. => zeroBytes b 64 8
   | .mconv .. => zeroBytes b 48 16
   | _ => zeroBytes b 48 24)

/-- The sub-tiles of a batch of an operand, for its bitmap (09 R282). -/
def bitmapTiles (h : Shape) : Nat := cdiv h.rows 16 * (h.cols / 32)

/-- The phase size of an operand of a GEMM (09 R277). -/
def gemmPhase (h : Shape) (planes : Nat) : Nat :=
  if h.planar then 2048 * (if planes = 0 then 8 else planes) else if h.esize = 0 then 16384 else 32768

/-- The relations of 09 R280 R283. -/
def gemmShapes (c : Cmd) (b : List Byte) : Bool :=
  let A := c.shape 0
  let B := c.shape 1
  let C := c.shape 2
  match c.instr with
  | .mconv .. =>
    let v := convOf c b
    decide (A.rank = 3) && decide (C.rank = 3) && B.rows == C.extent 0 && B.cols == v.fh * v.fw * v.ch &&
    decide (1 ≤ v.out.1) && decide (1 ≤ v.out.2) && (C.extent 2 : Int) == v.out.1 && (C.extent 1 : Int) == v.out.2
  | _ => A.rows == C.rows && B.rows == C.cols && A.cols == B.cols

/-- The input and output intervals of a GEMM over every batch. -/
def gemmBoxes (c : Cmd) (b : List Byte) : List (Nat × Nat) × List (Nat × Nat) :=
  let nb := field b 8 4
  let bm := fun o h => let a := field b o 8; (a, a + nb * bitmapTiles h * 64)
  ([(c.shape 0).batchBox nb (fieldInt b 24), (c.shape 1).batchBox nb (fieldInt b 32)] ++
    (match c.instr with
     | .mgemms .. => [bm 48 (c.shape 0), bm 56 (c.shape 1)]
     | _ => []),
   [(c.shape 2).batchBox nb (fieldInt b 40)] ++ (if field b 16 8 = 0 then [] else [(field b 16 8, field b 16 8 + 66560)]))

def disjointBoxes (x : List (Nat × Nat) × List (Nat × Nat)) : Bool := x.2.all fun o => x.1.all fun i => !meets o i

def gemmChecks (s : State) (c : Cmd) (b : List Byte) : Option (BitVec 8) :=
  let A := c.shape 0
  let B := c.shape 1
  let C := c.shape 2
  let nb := field b 8 4
  let d := dimsOf c b
  let geom := match c.instr with
    | .mconv .. => (convOf c b).ok
    | _ => true
  let masks := match c.instr with
    | .mgemms .. => field b 48 8 != 0 && field b 56 8 != 0 && field b 48 8 % 64 == 0 && field b 56 8 % 64 == 0
    | _ => true
  firstFault [need (gemmRecordOk c.instr b && geom) Cause.paramRecord, need masks Cause.maskShape,
    need (A.operandOk [4, 0, 1] && B.operandOk [4, 0, 1] && C.outputOk && fieldInt b 24 % 64 == 0 && fieldInt b 32 % 64 == 0 &&
      fieldInt b 40 % 4 == 0) Cause.shapeInvalid,
    batchFault s A true nb (fieldInt b 24), batchFault s B true nb (fieldInt b 32), batchFault s C false nb (fieldInt b 40),
    need (gemmShapes c b && decide (d.m ≤ 2 ^ 24) && decide (d.n ≤ 2 ^ 24) && decide (d.k ≤ 2 ^ 24) && disjointBoxes (gemmBoxes c b)) Cause.shapeRange,
    phaseTiles s 0 [(field b 2 1, gemmPhase A (field b 6 1)), (field b 3 1, gemmPhase A (field b 6 1)),
      (field b 4 1, gemmPhase B (field b 7 1)), (field b 5 1, gemmPhase B (field b 7 1))],
    need (decide (d.kt ≤ s.maxred) || field b 16 8 != 0) Cause.reductionDepth]

/-- The progress block and position of a matrix command that starts (09 R288 R297). -/
def beginMatrix (c : Cmd) (b : List Byte) (dig shd : Nat) (s : State) : State :=
  let part := c.resume && bitAt (s.prog 0 0) 16
  let keep := fun i => if c.resume then i else 0
  let w0 := startWord 0 c s ||| BitVec.ofNat 64 (immBits c.instr * 2 ^ 17 + boolBit part * 2 ^ 16)
  let ph := if c.resume then bits (s.prog 0 8) 0 3 else 0
  let ix := [keep (s.progLo 0 3), keep (s.progHi 0 3), keep (s.progLo 0 4), keep (s.progHi 0 4)]
  let miss := keep (s.prog 0 9).toNat
  let s := s.setWork 0 { zeroWork with prm := b, clocks := (s.work 0).clocks, marks := ix ++ [0, miss, 0, 0, ph % 2, ph / 2 % 2, ph / 4] }
  let s := s.setProgs 0 [(0, w0), (1, c.pc), (2, word2 shd dig), (5, 0), (6, accloc b), (7, 0)]
  if c.resume then s else s.setProgs 0 [(3, 0), (4, 0), (8, 0), (9, 0)]

/-- A resumed matrix command is the one that stopped (09 R288). -/
def matrixResumes (c : Cmd) (dig shd : Nat) (s : State) : Bool :=
  !c.resume || (resumable s 0 c && bits (s.prog 0 0) 17 3 == immBits c.instr && s.prog 0 2 == word2 shd dig)

/-- The start of MGEMM, MGEMMS and MCONV. -/
def startGemm (c : Cmd) (s : State) : Act State :=
  (readRecord c 128 64 none s).bind fun b s =>
    let dig := digestOf b
    let shd := shapeDigest c.instr c.shapes 3
    passes (firstFault [need (matrixResumes c dig shd s) Cause.resumeMismatch, gemmChecks s c b]) s fun s =>
      .ok (beginMatrix c b dig shd s) s

/-! Operands of a tile step. -/

/-- An operand of a batch, its bitmap and the place in it of a K group; none for a group that padding removes. -/
structure Side where
  op : Operand
  bitmap : Option Word
  at_ : Nat → Nat → Option (Nat × Nat)

/-- The A side (pair 0) or the B side (pair 1) of batch `n`. -/
def sideOf (c : Cmd) (b : List Byte) (pair n : Nat) : Side :=
  let h := c.shape pair
  let bm := match c.instr with
    | .mgemms .. => some (fw b (48 + 8 * pair) + BitVec.ofNat 64 (64 * n * bitmapTiles h))
    | _ => none
  let pos := match c.instr with
    | .mconv .. => if pair = 0 then (convOf c b).src else fun r k => some (r, k)
    | _ => fun r k => some (r, k)
  ⟨⟨h.moved (n * fieldInt b (24 + 8 * pair)), field b (6 + pair) 1⟩, bm, pos⟩

/-- The address of the bitmap block of an element. -/
def Side.bitVa (x : Side) (bm : Word) (r c : Nat) : Word := bm + BitVec.ofNat 64 (64 * x.op.subOf r c)

/-- The presence bits of a sub-tile as a number. -/
def presence (e : EBlock) : Nat := if tagZ e.tag then 0 else ofBytes e.bytes

/-- Blocks of the K groups of an operand; ENGINE_FORMAT where they would meet groups of another class (03 R103, 09 R302). -/
def Side.blocks (x : Side) (ag : Agent) (c : Cmd) (mixed : Bool) (groups : List (Nat × Nat)) (s : State) : Act (SMap EBlock) :=
  if mixed && !groups.isEmpty then .trap Cause.engineFormat x.op.shape.base s else x.op.fetch ag 0 c groups s

/-- Reads what a phase holds: bitmap blocks, then the operand blocks that present an element (09 R282). -/
def Side.fetch (x : Side) (ag : Agent) (c : Cmd) (mixed : Bool) (groups : List (Nat × Nat)) (s : State) : Act (SMap EBlock) :=
  match x.bitmap with
  | none => x.blocks ag c mixed groups s
  | some bm =>
    (readBlocks ag 1 c.pc (fun _ => 0) (groups.map fun g => x.bitVa bm g.1 g.2).dedup s).bind fun m s =>
      match m.find? fun e => !tagOk [7] e.2.tag with
      | some e => .trap Cause.engineFormat e.2.va s
      | none =>
        let live := groups.filter fun g => presence (blockAt m (x.bitVa bm g.1 g.2)) != 0
        (x.blocks ag c mixed live s).map fun d => joinBlocks m d

/-- The elements of a K group that form products. -/
def Side.cells (x : Side) (m : SMap EBlock) (r k : Nat) : List (Option Cell) :=
  match x.at_ r k with
  | none => List.replicate 32 none
  | some (r, k) =>
    match x.bitmap with
    | none => (x.op.group m r k).map some
    | some bm =>
      let p := presence (blockAt m (x.bitVa bm r k))
      if p = 0 then List.replicate 32 none
      else (x.op.group m r k).mapIdx fun j e => if p / 2 ^ (32 * (r % 16) + j) % 2 = 1 then some e else none

/-- The bitmap block of a group is poisoned. -/
def Side.bitPoison (x : Side) (m : SMap EBlock) (r k : Nat) : Bool :=
  match x.at_ r k, x.bitmap with
  | some (r, k), some bm => (blockAt m (x.bitVa bm r k)).poison
  | _, _ => false

/-- Rows of the tile of a pair at a place: first row and number. -/
def Dims.span (d : Dims) (pair : Nat) (p : Pos) : Nat × Nat :=
  if pair = 0 then (128 * p.mt, min 128 (d.m - 128 * p.mt)) else (128 * p.nt, min 128 (d.n - 128 * p.nt))

/-- K groups of a k-step: their first columns. -/
def Dims.groups (d : Dims) (ks : Nat) : List Nat :=
  (List.range (min 4 (d.k / 32 - 4 * ks))).map fun g => 128 * ks + 32 * g

/-- The K groups of a phase, in place. -/
def Side.places (x : Side) (d : Dims) (pair : Nat) (p : Pos) : List (Nat × Nat) :=
  let r := d.span pair p
  (List.range r.2).flatMap fun i => (d.groups p.ks).filterMap fun k => x.at_ (r.1 + i) k

/-- The agent of a GEMM's accesses. -/
def matrixAgent (s : State) (b : List Byte) : Agent := cmdAgent s (scopeCode (field b 0 1)) (field b 1 1)

/-- What the phase of a GEMM for a unit reads. -/
def gemmRead (c : Cmd) (ph : Phase) (s : State) : Act (SMap EBlock) :=
  let b := (s.work 0).prm
  let d := dimsOf c b
  let p := d.place ph.unit
  let x := sideOf c b ph.pair p.b
  x.fetch (matrixAgent s b) c ((c.shape 0).intClass != (c.shape 1).intClass) (x.places d ph.pair p) s

/-- Asks for the next phase of a GEMM: the pair with fewer phases first. -/
def gemmFetch (c : Cmd) (s : State) : EngEnds :=
  let b := (s.work 0).prm
  let d := dimsOf c b
  let now := d.unit (posAt s)
  let held := fun pair => ((s.work 0).phases.filter fun p => p.pair == pair)
  let next := fun pair => match (held pair).getLast? with | some p => p.unit + 1 | none => now
  let ask := fun pair => fetchPhase 0 pair (field b (2 + 2 * pair) 1) (field b (3 + 2 * pair) 1) (s.phaseBit 0 pair) (next pair) s
  if (held 0).length ≤ (held 1).length ∧ (held 0).length < 2 ∧ next 0 < d.total then ask 0
  else if (held 1).length < 2 ∧ next 1 < d.total then ask 1
  else .next s

/-! Accumulators. Element (i, j) stands under key 128 i + j of `data`; in `rows`, key 1000 + 128 i + j marks poison of the element. -/

/-- Elements (i, j) of the current tile. -/
def Dims.elems (d : Dims) (p : Pos) : List (Nat × Nat) :=
  (List.range (d.span 0 p).2).flatMap fun i => (List.range (d.span 1 p).2).map fun j => (i, j)

def accKey (x : Nat × Nat) : Nat := 128 * x.1 + x.2

/-- Addresses in the partial-accumulator area (09 R285). -/
def areaVa (b : List Byte) (x : Nat × Nat) : Word := accloc b + BitVec.ofNat 64 (512 * x.1 + 4 * x.2)

/-- The address of an element of C. -/
def outVa (c : Cmd) (b : List Byte) (d : Dims) (p : Pos) (x : Nat × Nat) : Word :=
  ((c.shape 2).moved (p.b * fieldInt b 40)).addrOf ((128 * p.mt + x.1) * d.n + (128 * p.nt + x.2))

/-- The bank with values of its elements, and the elements that come from poisoned blocks. -/
def fillBank (vs : List ((Nat × Nat) × Nat × Bool)) (s : State) : State :=
  s.modWork 0 fun w => { w with
    data := vs.foldl (fun m v => sput m (accKey v.1) (BitVec.ofNat 32 v.2.1)) [],
    rows := vs.foldl (fun (m : SMap Word) v => if v.2.2 then sput m (1000 + accKey v.1) 1 else m) [] }

/-- An element of C as ACC reads it (09 R280): family f32 or raw. -/
def accRead (e : EBlock) (a : Word) : Option Nat :=
  if e.tag.toNat / 2 ^ 21 = 0 then (if tagOk [0] e.tag then some (f32.rne (f32.decode (if tagZ e.tag then 0 else ofBytes (e.at a 4)))).1 else none)
  else if tagOk [3] e.tag then some (f32.rne (famValue 3 (tagScale e.tag) (if tagZ e.tag then 0 else ofBytes (e.at a 4)))).1 else none

/-- Loads the bank at the beginning or the resumption of a tile: from the partial area, from C, or with +0. -/
def loadBank (c : Cmd) (b : List Byte) (d : Dims) (p : Pos) (s : State) : Act Unit :=
  let es := d.elems p
  let ag := matrixAgent s b
  let done := fun (s : State) => Act.ok () (s.setMark 0 4 1)
  if s.mark 0 4 = 1 then .ok () s
  else if bitAt (s.prog 0 0) 16 && p.ks != 0 then
    (readBlocks ag 1 c.pc (fun _ => 0) (es.map (areaVa b)) s).bind fun m s =>
      done (fillBank (es.map fun x => let a := areaVa b x; (x, ofBytes ((blockAt m a).at a 4), (blockAt m a).poison)) s)
  else if immBits c.instr = 1 then
    (readBlocks ag 1 c.pc (fun _ => (c.shape 2).farTag 0) (es.map (outVa c b d p)) s).bind fun m s =>
      let vs := es.map fun x => let a := outVa c b d p x; (x, accRead (blockAt m a) a, (blockAt m a).poison)
      if vs.any fun v => v.2.1.isNone then .trap Cause.engineFormat 0 s
      else done (fillBank (vs.map fun v => (v.1, v.2.1.getD 0, v.2.2)) s)
  else done (fillBank [] s)

/-- The values of the products of two groups: none where Z bits remove all of them, so that w is +0 (03 R100 R103). -/
def productsOf (ps : List (Cell × Cell)) : List (FVal × FVal) :=
  if ps.all fun z => z.1.zero || z.2.zero then [] else ps.map fun z => (z.1.val, z.2.val)

/-- The elements of two groups that form products. -/
def formed (a b : List (Option Cell)) : List (Cell × Cell) :=
  (a.zip b).filterMap fun x => match x with
    | (some u, some v) => some (u, v)
    | _ => none

/-- A group of a row or column: its elements, and whether its bitmap block is poisoned. -/
structure KGroup where
  cells : List (Option Cell)
  bits : Bool
  deriving Inhabited

/-- Poison reaches an element through a group: from an element that forms a product, or from a bitmap whose bits decide over products
of elements that the other side presents (09 R281). -/
def KGroup.poisons (a b : KGroup) : Bool :=
  ((formed a.cells b.cells).any fun z => z.1.poison || z.2.poison) ||
  (a.bits && b.cells.any Option.isSome) || (b.bits && a.cells.any Option.isSome)

/-- The planes product of a K group that forms a product, over all its rows (09 R272). -/
def groupPlanes (as bs : List (List (Option Cell))) : Option Nat :=
  let live := fun (xs : List (List (Option Cell))) j => xs.any fun x => match x.getD j none with
    | some e => !e.zero
    | none => false
  let planes := fun (xs : List (List (Option Cell))) => (xs.flatMap fun x => x.filterMap fun e => e.map Cell.planes).foldl max 0
  if (List.range 32).any fun j => live as j && live bs j then some (planes as * planes bs) else none

/-- One tile step: its K groups are added to every element of the bank (03 R103, 09 R285). -/
def stepBank (c : Cmd) (pa pb : Phase) (s : State) : State :=
  let b := (s.work 0).prm
  let d := dimsOf c b
  let p := posAt s
  let x := sideOf c b 0 p.b
  let y := sideOf c b 1 p.b
  let int := (c.shape 0).intClass
  let gs := d.groups p.ks
  let rows := fun (z : Side) (ph : Phase) (pair : Nat) =>
    (List.range (d.span pair p).2).map fun i => gs.map fun k =>
      let r := (d.span pair p).1 + i
      (⟨z.cells ph.blocks r k, z.bitPoison ph.blocks r k⟩ : KGroup)
  let ra := rows x pa 0
  let rb := rows y pb 1
  let bank := (s.work 0).data
  let res := (d.elems p).map fun e =>
    let g := (ra.getD e.1 []).zip (rb.getD e.2 [])
    (e, accGroups int (sget bank 0 (accKey e)).toNat (g.map fun z => productsOf (formed z.1.cells z.2.cells)),
      g.any fun z => z.1.poisons z.2)
  let cells := fun (l : List (List KGroup)) g => l.map fun r => (r.getD g default).cells
  let time := (List.range gs.length).filterMap fun g => groupPlanes (cells ra g) (cells rb g)
  let s := s.modWork 0 fun w => { w with
    data := res.foldl (fun m r => sput m (accKey r.1) (BitVec.ofNat 32 r.2.1.1)) w.data,
    rows := res.foldl (fun (m : SMap Word) r => if r.2.2 then sput m (1000 + accKey r.1) 1 else m) w.rows, mid := true }
  let s := (s.addCounts 0 (sumCounts (res.map fun r => r.2.1.2))).setMark 0 3 (p.ks + 1)
  let s := chargeWaits (chargeClocks 0 (arrayClocks int time) s)
  swapPhase 0 1 pb.unit (swapPhase 0 0 pa.unit s)

/-- A tile step on the bank that its tile begins with or has. -/
def gemmStep (c : Cmd) (pa pb : Phase) (s : State) : EngEnds :=
  let b := (s.work 0).prm
  (loadBank c b (dimsOf c b) (posAt s) s).eng 0 c .read fun _ s => .next (stepBank c pa pb s)

/-- The current tile is past a reduction chunk at which a stop may retire it partially (09 R286 R287). -/
def atChunk (s : State) (b : List Byte) (ks : Nat) : Bool :=
  (s.work 0).stopReq != 0 && field b 16 8 != 0 && ks != 0 && ks % s.maxred == 0

/-- The tile step that may come next. -/
def gemmNext (c : Cmd) (s : State) : EngEnds :=
  let b := (s.work 0).prm
  let d := dimsOf c b
  let p := posAt s
  let u := d.unit p
  if d.nb ≤ p.b ∨ d.kt ≤ p.ks ∨ ((s.work 0).stopReq ≠ 0 ∧ !(s.work 0).mid) ∨ atChunk s b p.ks then .next s
  else match s.phaseOf 0 0 u, s.phaseOf 0 1 u with
    | some pa, some pb => gemmStep c pa pb s
    | _, _ => .next s

/-! Retirement (09 R285 R287 R297). -/

/-- The bank's element is poisoned. -/
def accPoison (w : Work) (x : Nat × Nat) : Bool := sget w.rows 0 (1000 + accKey x) != 0

/-- The elements of the bank as they are written, at addresses `va`. -/
def bankElems (w : Work) (va : Nat × Nat → Word) (es : List (Nat × Nat)) : List EElem :=
  es.map fun x => ⟨va x, toBytes 4 (sget w.data 0 (accKey x)).toNat, some f32Tag, accPoison w x⟩

/-- The progress block takes the running position, PART, BANK and PHASE. The next tile accumulates in the other bank (09 R285). -/
def retireTo (p : Pos) (part swap : Bool) (s : State) : State :=
  let ph := s.phaseBit 0 0 + 2 * s.phaseBit 0 1 + 4 * s.phaseBit 0 2
  let bank := bits (s.prog 0 8) 3 1
  let s := s.setProgs 0 [(0, setBits (s.prog 0 0) 16 1 (boolBit part)), (3, word2 p.nt p.b), (4, word2 p.ks p.mt),
    (8, BitVec.ofNat 64 (ph + 8 * (if swap then 1 - bank else bank))), (9, BitVec.ofNat 64 (s.mark 0 5))]
  let s := s.setMarks 0 [(0, p.b), (1, p.nt), (2, p.mt), (3, p.ks), (4, 0)]
  s.modWork 0 fun w => { w with
    mid := false, data := [], other := if swap then w.data else w.other, rows := [], errors := if part then w.errors else 0, poison := false }

/-- Writes elements and then moves the progress block. -/
def retireElems (c : Cmd) (ag : Agent) (es : List EElem) (adv : State → State) (s : State) : EngEnds :=
  (locateElems ag es s).eng 0 c .write fun ds s =>
    commitUnit 0 c ag (ds.map fun x => writeElems .inherit x.1 x.2 s)
      (fun s => adv (if es.any EElem.poison then s.consume 1 else s)) s

/-- The place after a tile. -/
def Dims.after (d : Dims) (p : Pos) : Pos :=
  if p.mt + 1 < d.mt then ⟨p.b, p.nt, p.mt + 1, 0⟩ else if p.nt + 1 < d.nt then ⟨p.b, p.nt + 1, 0, 0⟩ else ⟨p.b + 1, 0, 0, 0⟩

/-- A GEMM's retirement: of a complete tile to C, or of a chunk to the partial area before a stop. -/
def gemmRetire (c : Cmd) (s : State) : EngEnds :=
  let w := s.work 0
  let d := dimsOf c w.prm
  let p := posAt s
  let ag := matrixAgent s w.prm
  if !w.mid then .next s
  else if d.kt ≤ p.ks then
    retireElems c ag (bankElems w (outVa c w.prm d p) (d.elems p)) (retireTo (d.after p) false true) s
  else if atChunk s w.prm p.ks then
    retireElems c ag (bankElems w (areaVa w.prm) (d.elems p)) (retireTo p true false) s
  else .next s

/-- The position of the last retirement again; the bank and every phase are discarded. -/
def rewindMatrix (s : State) : State :=
  let s := dropPhases 0 s
  let ph := bits (s.prog 0 8) 0 3
  let s := s.setMarks 0 [(0, s.progLo 0 3), (1, s.progHi 0 3), (2, s.progLo 0 4), (3, s.progHi 0 4), (4, 0), (5, (s.prog 0 9).toNat),
    (8, ph % 2), (9, ph / 2 % 2), (10, ph / 4)]
  s.modWork 0 fun w => { w with mid := false, data := [], rows := [], poison := false }

/-- An uncorrectable error in an accumulator bank (09 R303). -/
def strikeBank (c : Cmd) (s : State) : State :=
  let n := (s.work 0).errors
  let s := report s (some s.core.partOf) (dieOf s.core.id) Cause.ueAccumulator 1 (unitId s.core.id 1) false c.pc 0
  if n = 0 then (rewindMatrix s).modWork 0 fun w => { w with errors := 1 } else faultHead 0 Cause.ueAccumulator 0 s

end

end Sys2Proof.Machine
end

