-- ==== Sys2Proof/Machine/Attention.lean ====
section
/-! DEFINITION. MATTN: start, key tile visits and retirement (09 R289 to R296), and the matrix engine's steps. In `rows`, key i
holds row i's m (low) and l, 5000 + w a word of the mask row, 6000 + t the far page of a missed tile plus 1. -/

namespace Sys2Proof.Machine

noncomputable section

/-! Dimensions (09 R289). -/

structure Attn where
  lq : Nat
  nk : Nat
  dk : Nat
  dv : Nat
  nb : Nat
  deriving DecidableEq, Repr

def attnOf (c : Cmd) (b : List Byte) : Attn := ⟨(c.shape 0).rows, (c.shape 1).rows, (c.shape 0).cols, (c.shape 3).cols, field b 24 4⟩

def Attn.tq (a : Attn) : Nat := cdiv a.lq 128
def Attn.tk (a : Attn) : Nat := cdiv a.nk 128
/-- Tile steps of one visit (09 R286). -/
def Attn.steps (a : Attn) : Nat := cdiv a.dk 128 + cdiv a.dv 128

def attnExcl (c : Cmd) (b : List Byte) : Excl :=
  ⟨(c.shape 0).rows, field b 28 4, field b 10 1 % 2 == 1, field b 48 4, fieldInt b 32, fieldInt b 40⟩

def isCont (b : List Byte) : Bool := field b 10 1 / 2 % 2 == 1
def isFin (c : Cmd) : Bool := immBits c.instr % 2 == 1
def attnTier (b : List Byte) : Nat := field b 1 1

/-! The start (09 R286 R289 R290). -/

def attnRecordOk (c : Cmd) (b : List Byte) : Bool :=
  let byte := fun o => field b o 1
  let a := attnOf c b
  scopeOk b && decide (byte 1 ≤ 2) && tilesOk b [2, 3, 4, 5, 6, 7] && decide (byte 8 ≤ 8) && decide (byte 9 ≤ 8) &&
  decide (byte 10 < 4) && byte 11 == 0 && field b 16 8 % 64 == 0 && decide (1 ≤ a.nb) && decide (a.nb ≤ 65536) &&
  decide (1 ≤ field b 28 4) && decide (field b 28 4 ≤ a.nk) && zeroBytes b 52 4 && field b 64 8 % 8 == 0 && field b 72 8 % 16 == 0 &&
  zeroBytes b 84 4 && zeroBytes b 120 8 && (isFin c || field b 64 8 != 0) && (!isCont b || field b 64 8 != 0) &&
  !(byte 1 == 1 && field b 72 8 != 0 && field b 80 4 == 0)

/-- The phase size of Q or K (09 R277). -/
def attnPhase (h : Shape) (planes : Nat) : Nat :=
  if h.planar then 16 * h.cols * (if planes = 0 then 8 else planes) else if h.esize = 0 then 128 * h.cols else 256 * h.cols

def attnBoxes (c : Cmd) (b : List Byte) : List (Nat × Nat) × List (Nat × Nat) :=
  let a := attnOf c b
  let tm := field b 56 8
  let reg := fun (o n : Nat) => let v := field b o 8; if v = 0 then [] else [(v, v + n)]
  ((List.range 2).map (fun i => (c.shape i).batchBox a.nb (fieldInt b (88 + 8 * i))) ++ [(c.shape 3).batchBox a.nb (fieldInt b 104)] ++
    (if tm = 0 then [] else [(tm, tm + 8 * a.tq * maskWords a.tk)]),
   [(c.shape 2).batchBox a.nb (fieldInt b 112)] ++ reg 16 66560 ++ reg 64 (8 * a.nb * a.lq) ++ reg 72 (16 * field b 80 4))

def attnChecks (s : State) (c : Cmd) (b : List Byte) : Option (BitVec 8) :=
  let Q := c.shape 0
  let K := c.shape 1
  let O := c.shape 2
  let V := c.shape 3
  let a := attnOf c b
  let st := fun i => fieldInt b (88 + 8 * i)
  let dim := fun (x hi : Nat) => decide (32 ≤ x) && decide (x ≤ hi) && x % 32 == 0
  firstFault [need (attnRecordOk c b) Cause.paramRecord, need (field b 56 8 % 8 == 0) Cause.maskShape,
    need (Q.operandOk [4, 0, 1] && K.operandOk [4, 0, 1] && V.operandOk [4, 0, 1] && O.outputOk &&
      (List.range 3).all (fun i => st i % 64 == 0) && st 3 % 4 == 0) Cause.shapeInvalid,
    batchFault s Q true a.nb (st 0), batchFault s K true a.nb (st 1), batchFault s V true a.nb (st 2), batchFault s O false a.nb (st 3),
    need (dim a.dk 256 && dim a.dv 128 && K.cols == a.dk && V.rows == a.nk && O.cols == a.dv && O.rows == a.lq &&
      decide (a.lq ≤ 2 ^ 24) && decide (a.nk ≤ 2 ^ 24) && disjointBoxes (attnBoxes c b)) Cause.shapeRange,
    phaseTiles s 0 [(field b 2 1, attnPhase Q (field b 8 1)), (field b 3 1, attnPhase Q (field b 8 1)), (field b 4 1, attnPhase K (field b 9 1)),
      (field b 5 1, attnPhase K (field b 9 1)), (field b 6 1, 256 * a.dv), (field b 7 1, 256 * a.dv)],
    need (decide (a.tk * a.steps ≤ s.maxred) || field b 16 8 != 0) Cause.reductionDepth]

def startAttn (c : Cmd) (s : State) : Act State :=
  (readRecord c 128 64 none s).bind fun b s =>
    let dig := digestOf b
    let shd := shapeDigest c.instr c.shapes 4
    passes (firstFault [need (matrixResumes c dig shd s) Cause.resumeMismatch, attnChecks s c b]) s fun s =>
      .ok (beginMatrix c b dig shd s) s

/-! The beginning of a query tile. -/

/-- Rows of the query tile: number. -/
def Attn.rows (a : Attn) (q : Nat) : Nat := min 128 (a.lq - 128 * q)
/-- Key rows of a key tile: number. -/
def Attn.keys (a : Attn) (t : Nat) : Nat := min 128 (a.nk - 128 * t)

/-- The agents: Q, O and the record's regions are accessed DIRECT, K and V by the tier policy (09 R295). -/
def attnAgent (s : State) (b : List Byte) (pair : Nat) : Agent := cmdAgent s (scopeCode (field b 0 1)) (if pair = 0 then 0 else attnTier b)

def rowStateVa (a : Attn) (b : List Byte) (n q i : Nat) : Word := fw b 64 + BitVec.ofNat 64 (8 * (n * a.lq + 128 * q + i))
def attnOutVa (c : Cmd) (b : List Byte) (a : Attn) (n q i col : Nat) : Word :=
  ((c.shape 2).moved (n * fieldInt b 112)).addrOf ((128 * q + i) * a.dv + col)
def areaRowVa (b : List Byte) (i : Nat) : Word := accloc b + BitVec.ofNat 64 (65536 + 8 * i)

/-- The state (-Inf, +0) of a row. -/
def freshRow : Word := BitVec.ofNat 64 0xFF800000

/-- Sets the row states and O values of a tile that begins. -/
def setRows (rs : List (Nat × Word)) (os : List ((Nat × Nat) × Nat)) (poison : Bool) (s : State) : State :=
  s.modWork 0 fun w => { w with
    rows := rs.foldl (fun m r => sput m r.1 r.2) w.rows,
    data := os.foldl (fun m o => sput m (accKey o.1) (BitVec.ofNat 32 o.2)) [],
    poison := w.poison || poison }

/-- The row states and O values with which a tile begins: from the partial area, from RSTATE and O under CONT, or fresh. -/
def loadRows (c : Cmd) (b : List Byte) (a : Attn) (s : State) : Act State :=
  let n := s.mark 0 0
  let q := s.mark 0 1
  let is := List.range (a.rows q)
  let cells := is.flatMap fun i => (List.range a.dv).map fun col => (i, col)
  let ag := attnAgent s b 0
  let part := bitAt (s.prog 0 0) 16
  if part || isCont b then
    let rva := fun i => if part then areaRowVa b i else rowStateVa a b n q i
    let ova := fun (x : Nat × Nat) => if part then areaVa b x else attnOutVa c b a n q x.1 x.2
    (readBlocks ag 1 c.pc (fun _ => 0) (is.map rva) s).bind fun rm s =>
      (readBlocks ag 1 c.pc (fun _ => if part then 0 else (c.shape 2).farTag 0) (cells.map ova) s).bind fun om s =>
        let os := cells.map fun x =>
          let e := blockAt om (ova x)
          (x, if part then some (ofBytes (e.at (ova x) 4)) else accRead e (ova x))
        let bad := (is.any fun i => (blockAt rm (rva i)).poison) || cells.any fun x => (blockAt om (ova x)).poison
        if os.any fun o => o.2.isNone then .trap Cause.engineFormat 0 s
        else
          let rs := is.map fun i => (i, BitVec.ofNat 64 (ofBytes ((blockAt rm (rva i)).at (rva i) 8)))
          let t := setRows rs (os.map fun o => (o.1, o.2.getD 0)) bad s
          .ok t t
  else
    let t := setRows (is.map fun i => (i, freshRow)) [] false s
    .ok t t

/-- A query tile begins: its mask row is read once, its rows are loaded. -/
def beginTile (c : Cmd) (b : List Byte) (a : Attn) (s : State) : Act State :=
  let mask : Act (List Nat) := if field b 56 8 = 0 then .ok (List.replicate (maskWords a.tk) (2 ^ 64 - 1)) s
    else (readMask (attnAgent s b 0) 1 (fw b 56) (s.mark 0 1) a.tk s).map Prod.fst
  mask.bind fun ws s =>
    let s := s.modWork 0 fun w => { w with rows := ws.zipIdx.foldl (fun (m : SMap Word) x => sput m (5000 + x.2) (BitVec.ofNat 64 x.1)) [] }
    (loadRows c b a s).bind fun s _ => let t := s.setMark 0 4 1; .ok t t

/-! Candidates (09 R292 R295). -/

def missedTile (w : Work) (t : Nat) : Bool := (sfind w.rows (6000 + t)).isSome

/-- Tiles from `lo` on that may be visited: their mask bit is 1, some pair is not excluded, and they are not missed. -/
def candidates (c : Cmd) (a : Attn) (lo : Nat) (s : State) : List Nat :=
  let w := s.work 0
  let x := attnExcl c w.prm
  (List.range a.tk).filter fun t => decide (lo ≤ t) && bitAt (sget w.rows 0 (5000 + t / 64)) (t % 64) && x.anyPair (s.mark 0 1) t && !missedTile w t

/-- The operand of a pair for batch `n`: 0 Q, 1 K, 2 V. -/
def attnOperand (c : Cmd) (b : List Byte) (pair n : Nat) : Operand :=
  ⟨(c.shape (if pair = 2 then 3 else pair)).moved (n * fieldInt b (88 + 8 * pair)), if pair = 2 then 0 else field b (8 + pair) 1⟩

/-- The K groups of a tile of a pair. -/
def attnGroups (a : Attn) (pair tile : Nat) : List (Nat × Nat) :=
  let n := if pair = 0 then a.rows tile else a.keys tile
  (List.range n).flatMap fun i => (List.range ((if pair = 2 then a.dv else a.dk) / 32)).map fun g => (128 * tile + i, 32 * g)

/-- The lowest far page that a key tile touches, if any. -/
def farPage (c : Cmd) (b : List Byte) (a : Attn) (n t : Nat) (s : State) : Act (Option Word) :=
  let ag := attnAgent s b 1
  ((attnOperand c b 1 n).locs ag (attnGroups a 1 t) s).bind fun k s =>
    ((attnOperand c b 2 n).locs ag (attnGroups a 2 t) s).map fun v => lowestFar (k ++ v)

/-! Phase fetches. -/

def attnUnit (a : Attn) (n q t : Nat) : Nat := (n * a.tq + q) * a.tk + t

/-- A phase of MATTN would read blocks that 09 R289 refuses: of K beside a Q of the other class, or of a V that is not bf16 rows. -/
def attnMixed (c : Cmd) (pair : Nat) : Bool :=
  (pair == 1 && (c.shape 0).intClass != (c.shape 1).intClass) || (pair == 2 && (c.shape 3).esize != 1)

/-- What a phase of MATTN reads. -/
def attnRead (c : Cmd) (ph : Phase) (s : State) : Act (SMap EBlock) :=
  let b := (s.work 0).prm
  let a := attnOf c b
  let n := s.mark 0 0
  if attnMixed c ph.pair then .trap Cause.engineFormat (attnOperand c b ph.pair n).shape.base s else
  (attnOperand c b ph.pair n).fetch (attnAgent s b ph.pair) 0 c (attnGroups a ph.pair (if ph.pair = 0 then s.mark 0 1 else ph.unit % a.tk)) s

/-- The next phase of MATTN: the tile begins first; under SKIP a far candidate is missed (09 R295). -/
def attnFetch (c : Cmd) (s : State) : EngEnds :=
  let w := s.work 0
  let b := w.prm
  let a := attnOf c b
  let n := s.mark 0 0
  let q := s.mark 0 1
  if a.nb ≤ n ∨ (w.stopReq ≠ 0 ∧ !w.mid) then .next s
  else if s.mark 0 4 = 0 then (beginTile c b a s).eng 0 c .read fun t _ => .next t
  else
    let held := fun pair => w.phases.filter fun p => p.pair == pair
    let from_ := fun pair => match (held pair).getLast? with | some p => p.unit % a.tk + 1 | none => s.mark 0 2
    let ask := fun (pair unit : Nat) => fetchPhase 0 pair (field b (2 + 2 * pair) 1) (field b (3 + 2 * pair) 1) (s.phaseBit 0 pair) unit s
    let ks := candidates c a (from_ 1) s
    let vs := candidates c a (from_ 2) s
    if (held 0).isEmpty ∧ !(candidates c a (s.mark 0 2) s).isEmpty then ask 0 (attnUnit a n q 0)
    else match ks.head?, vs.head? with
      | some t, v =>
        if (held 1).length < 2 ∧ (held 1).length ≤ (held 2).length then
          if attnTier b = 1 then
            (farPage c b a n t s).eng 0 c .read fun p s =>
              match p with
              | some page => .next (s.modWork 0 fun w => { w with rows := sput w.rows (6000 + t) (page + 1) })
              | none => fetchPhase 0 1 (field b 4 1) (field b 5 1) (s.phaseBit 0 1) (attnUnit a n q t) s
          else ask 1 (attnUnit a n q t)
        else match v with
          | some t => ask 2 (attnUnit a n q t)
          | none => .next s
      | none, some t => ask 2 (attnUnit a n q t)
      | none, none => .next s

/-! A visit (09 R293). -/

/-- A rounded result with its counts. -/
def counted (r : Nat × Flags) : Nat × Counts := (r.1, countOf f32 r.1 r.2)

/-- A row's state during a tile. -/
structure RowState where
  m : Nat
  l : Nat
  o : List Nat
  deriving DecidableEq, Repr

/-- What a visit knows of its tile: key groups by key row, V by key row and column, exclusion, scale. -/
structure Visit where
  x : Excl
  scale : Nat
  int : Bool
  tile : Nat
  keys : Nat
  dv : Nat
  kg : List (List (List Cell))
  vg : List (List Cell)

/-- The scaled score of a row and a key element of the tile: -Inf when it is excluded. -/
def Visit.score (v : Visit) (qg : List (List Cell)) (i j : Nat) : Nat × Counts :=
  if v.x.out i (128 * v.tile + j) then (f32.inf true, zeroCounts)
  else
    let s := accGroups v.int 0 ((qg.zip (v.kg.getD j [])).map fun z => productsOf (z.1.zip z.2))
    let t := counted (f32.mulF 0 (f32.decode v.scale) (f32.decode s.1))
    (t.1, s.2.add t.2)

/-- The new O of one column; `ps` are the probabilities rounded to bf16. -/
def Visit.column (v : Visit) (ps : List Nat) (i : Nat) (alpha old col : Nat) : Nat × Counts :=
  let a := counted (f32.mulF 0 (f32.decode alpha) (f32.decode old))
  let gs := (List.range 4).map fun g =>
    if (List.range 32).all fun k => v.x.out i (128 * v.tile + 32 * g + k) then []
    else productsOf (((List.range 32).filter fun k => decide (32 * g + k < v.keys)).map fun k =>
      let j := 32 * g + k
      (⟨bf16.decode (ps.getD j 0), false, 8, false⟩, (v.vg.getD j []).getD col ⟨.fin false 0 0, true, 8, false⟩))
  let r := accGroups false a.1 gs
  (r.1, a.2.add r.2)

/-- A visit's effect on row `i`. The rounding of a probability to bf16 is counted once, not once for each column (09 R301; log 112). -/
def Visit.row (v : Visit) (qg : List (List Cell)) (i : Nat) (st : RowState) : RowState × Counts :=
  let ts := (List.range v.keys).map (v.score qg i)
  let mt := ts.tail.foldl (fun m t => (f32.maxMin true m t.1).1) (ts.headD (f32.inf true, zeroCounts)).1
  let mn := (f32.maxMin true st.m mt).1
  let c0 := sumCounts (ts.map Prod.snd)
  if mn = f32.inf true then (st, c0)
  else
    let sub := fun a => counted (f32.addV 0 (f32.decode a) (f32.decode mn).neg)
    let ex := fun a => let d := sub a; let e := counted (exp2 d.1); (e.1, d.2.add e.2)
    let alpha := ex st.m
    let ps := ts.map fun t => ex t.1
    let rs := ps.foldl (fun (a : Nat × Counts) p => let r := counted (f32.addV 0 (f32.decode a.1) (f32.decode p.1)); (r.1, a.2.add r.2)) (0, zeroCounts)
    let al := counted (f32.mulF 0 (f32.decode alpha.1) (f32.decode st.l))
    let l := counted (f32.addV 0 (f32.decode al.1) (f32.decode rs.1))
    let bs := ps.map fun p => let r := bf16.rne (f32.decode p.1); (r.1, countOf bf16 r.1 r.2)
    let cols := (List.range v.dv).map fun col => v.column (bs.map Prod.fst) i alpha.1 (st.o.getD col 0) col
    (⟨mn, l.1, cols.map Prod.fst⟩,
      sumCounts ([c0, alpha.2, rs.2, al.2, l.2] ++ ps.map Prod.snd ++ bs.map Prod.snd ++ cols.map Prod.snd))

/-- Some product of K group `g` of the scores is left: of a pair that is not excluded, with neither element removed by Z. -/
def Visit.anyScore (v : Visit) (qs : List (List (List Cell))) (q g : Nat) : Bool :=
  qs.zipIdx.any fun r => v.kg.zipIdx.any fun k => !v.x.out (128 * q + r.2) (128 * v.tile + k.2) &&
    ((r.1.getD g []).zip (k.1.getD g [])).any fun z => !z.1.zero && !z.2.zero

/-- Array clocks of a visit (09 R272 R286). -/
def visitClocks (v : Visit) (qs : List (List (List Cell))) (q dk : Nat) : Nat :=
  let live := fun j => (List.range qs.length).any fun i => !v.x.out (128 * q + i) (128 * v.tile + j)
  let krows := (v.kg.zipIdx.filter fun x => live x.2).map Prod.fst
  let gp := fun g => if !v.anyScore qs q g then none else groupPlanes (qs.map fun r => (r.getD g []).map some) (krows.map fun r => (r.getD g []).map some)
  let score := ((List.range (cdiv dk 128)).map fun k => arrayClocks v.int (((List.range (min 4 (dk / 32 - 4 * k))).map fun g => 4 * k + g).filterMap gp)).sum
  let vals := fun j => (v.vg.getD j []).any fun e => !e.zero
  score + 64 * ((List.range 4).filter fun g => (List.range 32).any fun k => live (32 * g + k) && vals (32 * g + k)).length

def visit (c : Cmd) (t : Nat) (pq pk pv : Phase) (s : State) : State :=
  let w := s.work 0
  let b := w.prm
  let a := attnOf c b
  let q := s.mark 0 1
  let n := s.mark 0 0
  let groups := fun (pair : Nat) (ph : Phase) (rows first len : Nat) =>
    (List.range rows).map fun i => (List.range (len / 32)).map fun g => (attnOperand c b pair n).group ph.blocks (first + i) (32 * g)
  let qs := groups 0 pq (a.rows q) (128 * q) a.dk
  let v : Visit := ⟨attnExcl c b, field b 12 4, (c.shape 0).intClass, t, a.keys t, a.dv, groups 1 pk (a.keys t) (128 * t) a.dk,
    (groups 2 pv (a.keys t) (128 * t) a.dv).map List.flatten⟩
  let res := (List.range (a.rows q)).map fun i =>
    let st := sget w.rows freshRow i
    (i, v.row (qs.getD i []) (128 * q + i) ⟨bits st 0 32, bits st 32 32, (List.range a.dv).map fun col => (sget w.data 0 (accKey (i, col))).toNat⟩)
  let bad := (pq.blocks ++ pk.blocks ++ pv.blocks).any fun x => x.2.poison
  let s := s.modWork 0 fun w => { w with
    rows := res.foldl (fun (m : SMap Word) r => sput m r.1 (word2 r.2.1.l r.2.1.m)) w.rows,
    data := res.foldl (fun m r => r.2.1.o.zipIdx.foldl (fun m o => sput m (accKey (r.1, o.2)) (BitVec.ofNat 32 o.1)) m) w.data,
    poison := w.poison || bad, mid := true }
  let s := (s.addCounts 0 (sumCounts (res.map fun r => r.2.2))).setMarks 0 [(2, t + 1), (3, s.mark 0 3 + 1)]
  let s := chargeWaits (chargeClocks 0 (visitClocks v qs q a.dk) s)
  swapPhase 0 2 pv.unit (swapPhase 0 1 pk.unit s)

/-- Visited tiles of a reduction chunk (09 R296). -/
def attnChunk (a : Attn) (s : State) : Nat := max 1 (s.maxred / a.steps)

/-- A stop may retire the tile partially after the visits so far. -/
def attnAtChunk (a : Attn) (s : State) : Bool :=
  (s.work 0).stopReq != 0 && field (s.work 0).prm 16 8 != 0 && s.mark 0 3 != 0 && s.mark 0 3 % attnChunk a s == 0

/-- The matrix command that may go on. -/
def matrixReady (s : State) : Option Cmd := s.engineReady 0

/-- MATTN_KEY_TILE_VISIT: the next key tile updates each row's state (09 R293). -/
def execMattnKeyTileVisit (s : State) : EngEnds :=
  match matrixReady s with
  | none => .next s
  | some c =>
    if isGemm c.instr then .next s else
    let a := attnOf c (s.work 0).prm
    let n := s.mark 0 0
    let q := s.mark 0 1
    if s.mark 0 4 = 0 ∨ ((s.work 0).stopReq ≠ 0 ∧ !(s.work 0).mid) ∨ attnAtChunk a s then .next s
    else match candidates c a (s.mark 0 2) s with
      | [] => .next s
      | t :: _ =>
        match s.phaseOf 0 0 (attnUnit a n q 0), s.phaseOf 0 1 (attnUnit a n q t), s.phaseOf 0 2 (attnUnit a n q t) with
        | some pq, some pk, some pv => .next (visit c t pq pk pv s)
        | _, _, _ => .next s

/-! Retirement (09 R294 to R296). -/

/-- The miss entries of tiles below `hi`, in order. -/
def missElems (b : List Byte) (n q hi : Nat) (s : State) : List EElem × Nat :=
  let ms := (s.work 0).rows.filter fun x => decide (6000 ≤ x.1) && decide (x.1 < 6000 + hi)
  let es := ms.mapIdx fun k x =>
    let at_ := s.mark 0 5 + k
    (⟨fw b 72 + BitVec.ofNat 64 (16 * at_), toBytes 8 (x.2.toNat - 1) ++ toBytes 4 (x.1 - 6000) ++ toBytes 2 q ++ toBytes 2 n, none, false⟩,
      at_)
  (if field b 72 8 = 0 then [] else (es.filter fun e : EElem × Nat => decide (e.2 < field b 80 4)).map Prod.fst, ms.length)

/-- What a complete query tile writes to O and the row state. The divisions are not counted (09 R301). -/
def attnOut (c : Cmd) (b : List Byte) (a : Attn) (n q : Nat) (s : State) : List EElem :=
  let w := s.work 0
  let rows := List.range (a.rows q)
  let os := rows.flatMap fun i => (List.range a.dv).map fun col =>
    let l := bits (sget w.rows freshRow i) 32 32
    let o := (sget w.data 0 (accKey (i, col))).toNat
    let r := if !isFin c then o else if l = 0 then 0 else (f32.divV (f32.decode o) (f32.decode l)).1
    (⟨attnOutVa c b a n q i col, toBytes 4 r, some f32Tag, w.poison⟩ : EElem)
  let rs := if field b 64 8 = 0 then [] else
    rows.map fun i => (⟨rowStateVa a b n q i, b8 (sget w.rows freshRow i), some f32Tag, w.poison⟩ : EElem)
  os ++ rs

/-- The partial-accumulator area of a stopped tile. -/
def attnArea (b : List Byte) (a : Attn) (q : Nat) (s : State) : List EElem :=
  let w := s.work 0
  let rows := List.range (a.rows q)
  (rows.flatMap fun i => (List.range a.dv).map fun col =>
    (⟨areaVa b (i, col), toBytes 4 (sget w.data 0 (accKey (i, col))).toNat, some f32Tag, w.poison⟩ : EElem)) ++
  rows.map fun i => (⟨areaRowVa b i, b8 (sget w.rows freshRow i), some f32Tag, w.poison⟩ : EElem)

def attnRetire (c : Cmd) (s : State) : EngEnds :=
  let b := (s.work 0).prm
  let a := attnOf c b
  let n := s.mark 0 0
  let q := s.mark 0 1
  let t := s.mark 0 2
  let ag := attnAgent s b 0
  let miss := fun (k : Nat) (s : State) => (s.addCounts 0 ⟨0, 0, 0, 0, k⟩).setMark 0 5 (s.mark 0 5 + k)
  if s.mark 0 4 = 0 ∨ a.nb ≤ n then .next s
  else if (candidates c a t s).isEmpty then
    let o := attnOut c b a n q s
    let m := missElems b n q a.tk s
    let next : Pos := if q + 1 < a.tq then ⟨n, q + 1, 0, 0⟩ else ⟨n + 1, 0, 0, 0⟩
    retireElems c ag (o ++ m.1) (fun s => retireTo next false false (miss m.2 (swapPhase 0 0 (attnUnit a n q 0) s))) s
  else if attnAtChunk a s then
    let m := missElems b n q t s
    retireElems c ag (attnArea b a q s ++ m.1) (fun s => retireTo ⟨n, q, t, 0⟩ true false (miss m.2 s)) s
  else .next s

/-! The matrix engine's steps. -/

/-- MATRIX_TILE_STEP: one tile step of a GEMM (09 R285). `ue`: an uncorrectable error, 0 in the accumulator bank (09 R303), k + 1 in
the tile of fetched phase k (08 R270). -/
def execMatrixTileStep (ue : Option Nat) (s : State) : EngEnds :=
  match matrixReady s with
  | none => .next s
  | some c =>
    match ue with
    | some 0 => .next (strikeBank c s)
    | some (k + 1) => .next (strikeTile 0 k c s)
    | none => if isGemm c.instr then gemmNext c s else .next s

/-- MATRIX_RETIREMENT: the bank retires to C, to O or to the partial area (09 R285 R294). -/
def execMatrixRetirement (s : State) : EngEnds :=
  match matrixReady s with
  | none => .next s
  | some c => if isGemm c.instr then gemmRetire c s else attnRetire c s

/-- The running matrix command has no work left. -/
def matrixDone (c : Cmd) (s : State) : Bool := decide (field (s.work 0).prm (if isGemm c.instr then 8 else 24) 4 ≤ s.mark 0 0)

end

end Sys2Proof.Machine
end

