-- ==== Sys2Proof/Machine/Vmacro.lean ====
section
/-! DEFINITION. The vector macro sequencer: VSORT, VSOFTMAX, VNORM and VREDUCE (07 R239 to R244). A phase holds what one unit of
work reads, one row or one run segment (log 37); the progress block holds the position. Mark 0 counts the units consumed. -/

namespace Sys2Proof.Machine

noncomputable section

/-! Records (07 R239 R242 R243). -/

def isSort : Instr → Bool
  | .vsort .. => true
  | _ => false

/-- Types of row operations: 0 f32, 1 bf16, 2 i32. -/
def typeSize (t : Nat) : Nat := if t = 1 then 2 else 4
def typeFmt (t : Nat) : Fmt := if t = 1 then bf16 else f32
def itype (b : List Byte) : Nat := field b 7 1
def otype (b : List Byte) : Nat := field b 4 1

def vmacroRecordOk (i : Instr) (b : List Byte) : Bool :=
  let byte := fun n => field b n 1
  scopeOk b && tilesOk b [1, 2] && byte 3 == 0 &&
  match i with
  | .vsort .. => decide (byte 5 < 2) && (byte 6 == 0 || byte 6 == 4 || byte 6 == 8) && byte 7 == 0 && decide (1 ≤ field b 8 8) &&
      decide (field b 8 8 ≤ 2 ^ 31) && field b 16 8 % 64 == 0 && zeroBytes b 24 40
  | .vsoftmax .. => decide (byte 4 < 2) && decide (byte 5 < 2) && byte 6 == 0 && decide (byte 7 < 2) && zeroBytes b 12 4 &&
      (byte 5 == 0 || field b 16 8 % 8 == 0) && zeroBytes b 24 40
  | .vnorm .. => decide (byte 4 < 2) && decide (byte 5 < 2) && byte 6 == 0 && decide (byte 7 < 2) && zeroBytes b 12 52
  | _ => decide (byte 5 < 6) && byte 6 == 0 && decide (byte 7 < 3) && (byte 7 == 2) == decide (3 ≤ byte 5) &&
      decide (byte 4 < 2) && (byte 7 != 2 || byte 4 == 0) && zeroBytes b 8 56

/-- The shape is one dense row-major run of `n` elements of `es` bytes (07 R242): the stride of a dimension of one index says nothing,
and a wrapped dimension does not wrap. -/
def Shape.dense (h : Shape) (n es : Nat) : Bool :=
  h.count == n && h.ebytes == es && (!h.wen || decide (h.wpos + h.extent h.wdim ≤ h.wmod)) &&
  (List.range h.rank).all fun k => h.extent k == 1 || h.stride k == ((es * ((List.range k).map h.extent).foldl (· * ·) 1 : Nat) : Int)

/-- A shape read as rows of cols elements (07 R239). -/
def Shape.rowsOk (h : Shape) : Bool := h.stride 0 == (h.ebytes : Int)

/-! VSORT's layout (07 R242). -/

structure Sorter where
  n : Nat
  ps : Nat
  scratch : Word
  deriving DecidableEq, Repr

def sortOf (b : List Byte) : Sorter := ⟨field b 8 8, field b 6 1, fw b 16⟩
def Sorter.runs (x : Sorter) : Nat := cdiv x.n 32
/-- L = ceil(log2 R). -/
def Sorter.passes (x : Sorter) : Nat := if x.runs ≤ 1 then 0 else bitLen (x.runs - 1)
/-- The buffer a pass writes is A. -/
def Sorter.toA (x : Sorter) (p : Nat) : Bool := (x.passes - p) % 2 == 0
/-- The buffer a pass reads is A. -/
def Sorter.fromA (x : Sorter) (p : Nat) : Bool := p = 0 || x.toA (p - 1)
def Sorter.runLen (p : Nat) : Nat := 32 * 2 ^ p
def Sorter.runCount (x : Sorter) (p : Nat) : Nat := cdiv x.n (Sorter.runLen p)
/-- The elements of run `r` of pass `p`: first and number. -/
def Sorter.run (x : Sorter) (p r : Nat) : Nat × Nat := (r * Sorter.runLen p, min (Sorter.runLen p) (x.n - r * Sorter.runLen p))

def Sorter.keyVa (x : Sorter) (c : Cmd) (inA : Bool) (m : Nat) : Word :=
  if inA then (c.shape 0).addrOf m else x.scratch + BitVec.ofNat 64 (4 * m)
def Sorter.payVa (x : Sorter) (c : Cmd) (inA : Bool) (m : Nat) : Word :=
  if inA then (c.shape 1).addrOf m else x.scratch + BitVec.ofNat 64 (4 * x.n + x.ps * m)

/-- The first and the last byte of a payload, which may lie in two blocks of the scratch area. -/
def Sorter.payVas (x : Sorter) (c : Cmd) (inA : Bool) (m : Nat) : List Word :=
  [x.payVa c inA m, x.payVa c inA m + BitVec.ofNat 64 (x.ps - 1)]

/-- A key block's tag (07 R242). -/
def keyTagOk (ktype : Nat) (t : BitVec 24) : Bool := tagOk [0] t || (ktype == 2 && tagOk [3] t && tagScale t == 0)

/-- An input block's tag (07 R239). -/
def rowTagOk (it : Nat) (t : BitVec 24) : Bool := tagOk [0] t || (decide (it < 2) && tagOk [3 + it] t)

/-! The start. -/

def vmacroAgent (s : State) (b : List Byte) : Agent := cmdAgent s (scopeCode (field b 0 1)) 0

/-- Checks the tags of blocks before anything is written (07 R244): each is found, as a read finds it. -/
def checkTags (ag : Agent) (far : BitVec 24) (ok : BitVec 24 → Bool) (vas : List Word) (s : State) : Act State :=
  (locateBlocks ag .read (oneEach (vas.map blockOf)) s).bind fun ls s =>
    match ls.find? fun x => !ok (if x.2.far then far else (s.mdata x.2.key).setWidth 24) with
    | some x => .trap Cause.engineFormat x.1 s
    | none => .ok s s

def Shape.vas (h : Shape) : List Word := (List.range h.count).map h.addrOf

def sortChecks (s : State) (c : Cmd) (b : List Byte) : Option (BitVec 8) :=
  let x := sortOf b
  let A := c.shape 0
  let B := c.shape 1
  let sz := x.n * (4 + x.ps)
  firstFault [need (decide (field b 4 1 ≤ 2)) Cause.sortKeyType, shapeFault s A false 0, if x.ps = 0 then none else shapeFault s B false 0,
    need (A.dense x.n 4 && (x.ps == 0 || B.dense x.n x.ps)) Cause.shapeRange,
    areaFault s x.scratch sz]

def rowChecks (s : State) (c : Cmd) (b : List Byte) : Option (BitVec 8) :=
  let A := c.shape 0
  let B := c.shape 1
  let C := c.shape 2
  let norm := match c.instr with | .vnorm .. => true | _ => false
  let red := match c.instr with | .vreduce .. => true | _ => false
  let it := itype b
  firstFault [shapeFault s A false 0, if norm then shapeFault s B false 0 else none, shapeFault s C false 0,
    need (A.rowsOk && (!norm || B.rowsOk) && C.rowsOk) Cause.shapeInvalid,
    need (A.ebytes == typeSize it && (!norm || B.ebytes == typeSize it) && C.ebytes == (if it = 2 then 4 else typeSize (otype b))) Cause.shapeInvalid,
    need (decide (1 ≤ A.cols) && decide (A.cols ≤ 65536) && C.cols == (if red then 1 else A.cols) && decide (A.rows ≤ C.rows) &&
      (!norm || (B.rows == 2 && B.cols == A.cols))) Cause.shapeRange]

/-- The tag checks at the start: those of the inputs that are still to be read (07 R239 R242 R244). -/
def vmacroTags (c : Cmd) (b : List Byte) (s : State) : Act State :=
  let ag := vmacroAgent s b
  let A := c.shape 0
  let B := c.shape 1
  let from_ := if c.resume then (s.prog 3 3).toNat else 0
  if isSort c.instr then
    if from_ = 0 then checkTags ag (A.farTag 0) (keyTagOk (field b 4 1)) A.vas s else .ok s s
  else
    (checkTags ag (A.farTag 0) (rowTagOk (itype b)) (A.vas.drop (from_ * A.cols)) s).bind fun s _ =>
      match c.instr with
      | .vnorm .. => checkTags ag (B.farTag 0) (rowTagOk (itype b)) B.vas s
      | _ => .ok s s

/-- The start of an engine-3 command (07 R239 R241). -/
def startVmacro (c : Cmd) (s : State) : Act State :=
  (readRecord c 64 8 none s).bind fun b s =>
    let dig := BitVec.ofNat 64 (digestOf b)
    passes (firstFault [need (!c.resume || (resumable s 3 c && s.prog 3 2 == dig)) Cause.resumeMismatch,
      need (vmacroRecordOk c.instr b) Cause.paramRecord, phasePair s 3 8192 (field b 1 1) (field b 2 1),
      if isSort c.instr then sortChecks s c b else rowChecks s c b]) s fun s =>
      (vmacroTags c b s).bind fun s _ =>
      let s := s.setWork 3 { zeroWork with prm := b }
      let s := s.setProgs 3 [(0, startWord 3 c s), (1, c.pc), (2, dig), (8, BitVec.ofNat 64 (if isSort c.instr then field b 8 8 else (c.shape 0).rows))]
      .ok (if c.resume then s else s.setProgs 3 [(3, 0), (4, 0), (5, 0), (6, 0), (7, 0)]) s

/-! Phases. -/

/-- The place in a sort: pass, run, offset, and what was taken from the left and right runs (07 R240). -/
structure SortPos where
  p : Nat
  r : Nat
  seg : Nat
  l : Nat
  rt : Nat
  deriving DecidableEq, Repr

def sortPos (s : State) : SortPos := ⟨(s.prog 3 3).toNat, (s.prog 3 4).toNat, (s.prog 3 5).toNat, (s.prog 3 6).toNat, (s.prog 3 7).toNat⟩

/-- The elements that a segment may read: positions in the buffer that is read, left run first. -/
def Sorter.reads (x : Sorter) (z : SortPos) : List Nat × List Nat :=
  let run := x.run z.p z.r
  if z.p = 0 then ((List.range run.2).map fun i => run.1 + i, [])
  else
    let half := Sorter.runLen (z.p - 1)
    let nl := min half run.2
    let nr := run.2 - nl
    ((List.range (min 4096 (nl - z.l))).map fun i => run.1 + z.l + i, (List.range (min 4096 (nr - z.rt))).map fun i => run.1 + nl + z.rt + i)

/-- The addresses of the elements of row `r` of a shape read as rows. -/
def Shape.rowVas (h : Shape) (r : Nat) : List Word := (List.range h.cols).map fun j => h.addrOf (r * h.cols + j)

/-- What a phase reads, with the tags checked. -/
def vmacroRead (c : Cmd) (ph : Phase) (s : State) : Act (SMap EBlock) :=
  let b := (s.work 3).prm
  let ag := vmacroAgent s b
  if isSort c.instr then
    let x := sortOf b
    let z := sortPos s
    let inA := x.fromA z.p
    let ms := (x.reads z).1 ++ (x.reads z).2
    (readBlocks ag 4 c.pc (fun _ => if inA then (c.shape 0).farTag 0 else 0) (ms.map (x.keyVa c inA)) s).bind fun k s =>
      match if inA then k.find? (fun e => !keyTagOk (field b 4 1) e.2.tag) else none with
      | some e => .trap Cause.engineFormat e.2.va s
      | none =>
        if x.ps = 0 then .ok k s
        else (readBlocks ag 4 c.pc (fun _ => if inA then (c.shape 1).farTag 0 else 0) (ms.flatMap (x.payVas c inA)) s).map fun v => joinBlocks k v
  else
    let A := c.shape 0
    let B := c.shape 1
    let ok := fun (m : SMap EBlock) => m.find? fun e => !rowTagOk (itype b) e.2.tag
    (readBlocks ag 4 c.pc (fun _ => A.farTag 0) (A.rowVas ph.unit) s).bind fun m s =>
      match ok m with
      | some e => .trap Cause.engineFormat e.2.va s
      | none =>
        match c.instr with
        | .vnorm .. =>
          (readBlocks ag 4 c.pc (fun _ => B.farTag 0) (B.rowVas 0 ++ B.rowVas 1) s).bind fun g s =>
            match ok g with
            | some e => .trap Cause.engineFormat e.2.va s
            | none => .ok (joinBlocks m g) s
        | _ => .ok m s

/-- The engine-3 command that may go on: not asked to stop, and not done. -/
def vmacroReady (s : State) : Option Cmd :=
  match s.engineReady 3 with
  | some c =>
    let fin := if isSort c.instr then decide ((sortOf (s.work 3).prm).passes < (sortPos s).p) else decide ((s.prog 3 8).toNat ≤ (s.prog 3 3).toNat)
    if (s.work 3).goesOn ∧ !fin then some c else none
  | none => none

/-- The next unit's number. -/
def vmacroUnit (c : Cmd) (s : State) : Nat := if isSort c.instr then s.mark 3 0 else (s.prog 3 3).toNat

/-- Asks for the next phase. The tile of the row after may be asked for; its blocks are taken once the row before it is written (07
R241). -/
def vmacroFetch (s : State) : EngEnds :=
  match vmacroReady s with
  | none => .next s
  | some c =>
    let b := (s.work 3).prm
    let u := match (s.work 3).phases.getLast? with | some p => p.unit + 1 | none => vmacroUnit c s
    if isSort c.instr ∧ !(s.work 3).phases.isEmpty then .next s
    else if !isSort c.instr ∧ (s.prog 3 8).toNat ≤ u then .next s
    else fetchPhase 3 0 (field b 1 1) (field b 2 1) (s.phaseBit 3 0) u s

/-! VSORT. -/

/-- The key of a pattern in the order of 03 R106, reversed for DESC. -/
def mapKey (ktype : Nat) (desc : Bool) (u : Nat) : Nat :=
  let k := match ktype with
    | 0 => u
    | 1 => Nat.xor u 0x80000000
    | _ => if u / 2 ^ 31 % 2 = 1 then Nat.xor u 0xFFFFFFFF else Nat.xor u 0x80000000
  if desc then 0xFFFFFFFF - k else k

/-- Merges two runs, at most `n` elements, the left first on equal keys; with what was taken from each. -/
def mergeRuns {α : Type} (key : α → Nat) : Nat → List α → List α → List α × Nat × Nat
  | 0, _, _ => ([], 0, 0)
  | n + 1, a :: l, b :: r =>
    if key a ≤ key b then let x := mergeRuns key n l (b :: r); (a :: x.1, x.2.1 + 1, x.2.2)
    else let x := mergeRuns key n (a :: l) r; (b :: x.1, x.2.1, x.2.2 + 1)
  | n + 1, a :: l, [] => let x := mergeRuns key n l []; (a :: x.1, x.2.1 + 1, x.2.2)
  | n + 1, [], b :: r => let x := mergeRuns key n [] r; (b :: x.1, x.2.1, x.2.2 + 1)
  | _ + 1, [], [] => ([], 0, 0)

/-- Bytes of an element, zeros from a block with Z. -/
def zBytes (e : EBlock) (a : Word) (n : Nat) : List Byte := if tagZ e.tag then List.replicate n 0 else e.at a n

/-- Bytes of a payload that may lie across two blocks, zeros from a block with Z. -/
def spanBytes (m : SMap EBlock) (a : Word) (n : Nat) : List Byte :=
  let k := min n (64 - a.toNat % 64)
  let b := a + BitVec.ofNat 64 k
  zBytes (blockAt m a) a k ++ zBytes (blockAt m b) b (n - k)

/-- The blocks that a run begins with: all that it reads, so that poison in any of them stops the command before the first write of the run
(07 R244). A later segment of the run looks at its own phase alone. -/
def runBlocks (c : Cmd) (b : List Byte) (z : SortPos) (s : State) : Act (List (Word × Loc)) :=
  let x := sortOf b
  let inA := x.fromA z.p
  let run := x.run z.p z.r
  let ms := (List.range run.2).map fun i => run.1 + i
  if z.seg ≠ 0 then .ok [] s
  else locateBlocks (vmacroAgent s b) .read
    (oneEach ((ms.map (x.keyVa c inA) ++ (if x.ps = 0 then [] else ms.flatMap (x.payVas c inA))).map blockOf)) s

/-- The place after `k` outputs of a run. -/
def Sorter.next (x : Sorter) (z : SortPos) (k l r : Nat) : SortPos :=
  let run := x.run z.p z.r
  if z.seg + k < run.2 then ⟨z.p, z.r, z.seg + k, z.l + l, z.rt + r⟩
  else if z.r + 1 < x.runCount z.p then ⟨z.p, z.r + 1, 0, 0, 0⟩
  else ⟨z.p + 1, 0, 0, 0, 0⟩

def setSortPos (z : SortPos) (s : State) : State :=
  s.setProgs 3 [(3, BitVec.ofNat 64 z.p), (4, BitVec.ofNat 64 z.r), (5, BitVec.ofNat 64 z.seg), (6, BitVec.ofNat 64 z.l), (7, BitVec.ofNat 64 z.rt)]

/-- Writes elements of an engine-3 command and then moves its position. -/
def vmacroWrite (c : Cmd) (es : List EElem) (adv : State → State) (s : State) : EngEnds :=
  let ag := vmacroAgent s (s.work 3).prm
  (locateElems ag es s).eng 3 c .write fun ds s => commitUnit 3 c ag (ds.map fun x => writeElems .inherit x.1 x.2 s) adv s

/-- What a run of pass 0, or up to 4,096 outputs of a merge, writes and how the position then moves (07 R242). -/
def sortOut (c : Cmd) (ph : Phase) (s : State) : List EElem × (State → State) :=
  let b := (s.work 3).prm
  let x := sortOf b
  let z := sortPos s
  let inA := x.fromA z.p
  let toA := x.toA z.p
  let get := fun (m : Nat) =>
    let k := x.keyVa c inA m
    let v := x.payVa c inA m
    (ofBytes (zBytes (blockAt ph.blocks k) k 4), if x.ps = 0 then [] else spanBytes ph.blocks v x.ps)
  let key := fun (e : Nat × List Byte) => mapKey (field b 4 1) (field b 5 1 == 1) e.1
  let rd := x.reads z
  let out := if z.p = 0 then (sortOn key (rd.1.map get), rd.1.length, 0)
    else mergeRuns key (min 4096 ((x.run z.p z.r).2 - z.seg)) (rd.1.map get) (rd.2.map get)
  let first := (x.run z.p z.r).1 + z.seg
  let ktag := if toA ∧ field b 4 1 = 2 then f32Tag else 0
  let es := (out.1.mapIdx fun i e => (⟨x.keyVa c toA (first + i), toBytes 4 e.1, some ktag, false⟩ : EElem)) ++
    (if x.ps = 0 then [] else (out.1.mapIdx fun i e => (⟨x.payVa c toA (first + i), e.2, some 0, false⟩ : EElem)).flatMap EElem.parts)
  (es, fun s => setSortPos (x.next z out.1.length out.2.1 out.2.2) ((swapPhase 3 0 ph.unit s).setMark 3 0 (ph.unit + 1)))

/-- The inputs of the next segment hold poison, in its phase or anywhere in the run it begins. -/
def sortPoisoned (ph : Phase) (run : List (Word × Loc)) (s : State) : Bool :=
  (ph.blocks.any fun e => e.2.poison) || run.any fun x => s.poisonAt x.2.key

/-- VSORT_RUN_SEGMENT: one run or segment. `ue`: an error in the tile of that phase. -/
def execVsortRunSegment (ue : Option Nat) (s : State) : EngEnds :=
  match vmacroReady s with
  | none => .next s
  | some c =>
    if !isSort c.instr then .next s
    else match ue, s.phaseOf 3 0 (s.mark 3 0) with
      | some k, _ => .next (strikeTile 3 k c s)
      | none, none => .next s
      | none, some ph =>
        (runBlocks c (s.work 3).prm (sortPos s) s).eng 3 c .read fun run s =>
          if sortPoisoned ph run s then .next (faultHead 3 Cause.poisonTrap 0 (s.consume 1))
          else let o := sortOut c ph s; vmacroWrite c o.1 o.2 s

/-! Row operations (07 R243). -/

/-- An input element with its block's scale. -/
def rowValue (m : SMap EBlock) (it : Nat) (a : Word) : FVal :=
  let e := blockAt m a
  let v := if tagZ e.tag then 0 else ofBytes (e.at a (typeSize it))
  famValue (3 + it) (if tagFamily e.tag = 0 then 0 else tagScale e.tag) v

def rd32 (v : FVal) : Nat × Counts := let r := f32.rne v; (r.1, countOf f32 r.1 r.2)
def to32 (r : Nat × Flags) : Nat × Counts := (r.1, countOf f32 r.1 r.2)

/-- Folds with counts. -/
def foldCount (f : Nat → FVal → Nat × Flags) (a : Nat) (l : List FVal) : Nat × Counts :=
  l.foldl (fun (x : Nat × Counts) v => let r := f x.1 v; (r.1, x.2.add (countOf f32 r.1 r.2))) (a, zeroCounts)

/-- One output element of type O. -/
def outElem (o : Nat) (r : Nat × Flags) : List Byte × Counts := (toBytes (typeSize o) r.1, countOf (typeFmt o) r.1 r.2)

/-- VSOFTMAX of a row: outputs, counts, and the row state. -/
def softmaxRow (o scale : Nat) (xs : List FVal) : List (List Byte) × Counts × Nat × Nat :=
  let ts := xs.map fun x => to32 (f32.mulF 0 (f32.decode scale) x)
  let m := ts.tail.foldl (fun m t => (f32.maxMin true m t.1).1) (ts.headD (f32.nan, zeroCounts)).1
  let c0 := sumCounts (ts.map Prod.snd)
  let all := fun (v : Nat) => xs.map fun _ => toBytes (typeSize o) v
  if (f32.decode m).isNan ∨ m = f32.inf false then (all (typeFmt o).nan, c0, m, f32.nan)
  else if m = f32.inf true then (all 0, c0, m, 0)
  else
    let es := ts.map fun t =>
      let d := to32 (f32.addV 0 (f32.decode t.1) (f32.decode m).neg)
      let e := to32 (exp2 d.1)
      (e.1, d.2.add e.2)
    let l := foldCount (fun a v => f32.addV 0 (f32.decode a) v) 0 (es.map fun e => f32.decode e.1)
    let ys := es.map fun e => outElem o ((typeFmt o).divV (f32.decode e.1) (f32.decode l.1))
    (ys.map Prod.fst, sumCounts ([c0, l.2] ++ es.map Prod.snd ++ ys.map Prod.snd), m, l.1)

/-- VNORM of a row. -/
def normRow (o mode eps : Nat) (xs gamma beta : List FVal) : List (List Byte) × Counts :=
  let n : FVal := .fin false xs.length 0
  let mu : Nat × Counts := if mode = 0 then
      let t := foldCount (fun a v => f32.addV 0 (f32.decode a) v) 0 xs
      let d := to32 (f32.divV (f32.decode t.1) n)
      (d.1, t.2.add d.2)
    else (0, zeroCounts)
  let dd := xs.map fun x => to32 (f32.addV 0 x (f32.decode mu.1).neg)
  let q := foldCount (fun a v => f32.fmaV 0 v v (f32.decode a)) 0 (dd.map fun d => f32.decode d.1)
  let v := to32 (f32.divV (f32.decode q.1) n)
  let w := to32 (f32.addV 0 (f32.decode v.1) (f32.decode eps))
  let rr := to32 (f32.rsqrt 0 (f32.decode w.1))
  let ys := (dd.zip (gamma.zip beta)).map fun z =>
    let p := to32 (f32.mulF 0 (f32.decode z.1.1) (f32.decode rr.1))
    let y := outElem o ((typeFmt o).fmaV 0 (f32.decode p.1) z.2.1 z.2.2)
    (y.1, p.2.add y.2)
  (ys.map Prod.fst, sumCounts ([mu.2, q.2, v.2, w.2, rr.2] ++ dd.map Prod.snd ++ ys.map Prod.snd))

/-- VREDUCE of a row. -/
def reduceRow (o fn : Nat) (fs : List FVal) (is : List Nat) : List Byte × Counts :=
  match fn with
  | 0 => let r := foldCount (fun a v => f32.addV 0 (f32.decode a) v) (f32.zero true) fs
         let y := outElem o ((typeFmt o).rne (f32.decode r.1))
         (y.1, r.2.add y.2)
  | 1 | 2 =>
    let pick := fun (a : Nat) (v : FVal) =>
      let x := f32.rne v
      let k := f32.maxMin (fn == 1) a x.1
      let sel := if fn = 1 then (f32.decode a).lt v else v.lt (f32.decode a)
      (k.1, if sel then x.2 else k.2)
    let r := foldCount pick (f32.inf (fn == 1)) fs
    let y := outElem o ((typeFmt o).rne (f32.decode r.1))
    (y.1, r.2.add y.2)
  | 3 => (toBytes 4 (is.sum % 2 ^ 32), zeroCounts)
  | 4 => (toBytes 4 (wrap 32 (is.foldl (fun (a : Int) v => max a (sint 32 v)) (-(2 ^ 31)))), zeroCounts)
  | _ => (toBytes 4 (wrap 32 (is.foldl (fun (a : Int) v => min a (sint 32 v)) (2 ^ 31 - 1))), zeroCounts)

/-- What a row operation writes and how the position then moves (07 R243). -/
def rowOut (c : Cmd) (ph : Phase) (s : State) : List EElem × (State → State) :=
  let r := (s.prog 3 3).toNat
  let b := (s.work 3).prm
  let A := c.shape 0
  let B := c.shape 1
  let C := c.shape 2
  let it := itype b
  let o := otype b
  let vals := fun (h : Shape) (k : Nat) => (h.rowVas k).map (rowValue ph.blocks it)
  let poison := ph.blocks.any fun e => e.2.poison
  let otag := mkTag (3 + o) 1 0 0 false
  let put := fun (tag : BitVec 24) (ys : List (List Byte)) =>
    ys.mapIdx fun j y => (⟨C.addrOf (r * C.cols + j), y, some tag, poison⟩ : EElem)
  let res : List EElem × Counts := match c.instr with
    | .vsoftmax .. =>
      let y := softmaxRow o (field b 8 4) (vals A r)
      let st := if field b 5 1 = 1 then [(⟨fw b 16 + BitVec.ofNat 64 (8 * r), toBytes 4 y.2.2.1 ++ toBytes 4 y.2.2.2, some f32Tag, poison⟩ : EElem)] else []
      (put otag y.1 ++ st, y.2.1)
    | .vnorm .. => let y := normRow o (field b 5 1) (field b 8 4) (vals A r) (vals B 0) (vals B 1); (put otag y.1, y.2)
    | _ =>
      let is := (A.rowVas r).map fun a => let e := blockAt ph.blocks a; if tagZ e.tag then 0 else ofBytes (e.at a 4)
      let y := reduceRow o (field b 5 1) (if it = 2 then [] else vals A r) (if it = 2 then is else [])
      (put (if it = 2 then 0 else otag) [y.1], y.2)
  (res.1, fun s =>
    let s := (if poison then s.consume 1 else s).addCounts 3 res.2
    (swapPhase 3 0 r s).setProg 3 3 (BitVec.ofNat 64 (r + 1)))

/-- ROW_OPERATION: one row of VSOFTMAX, VNORM or VREDUCE. `ue`: an error in the tile of that phase. -/
def execRowOperation (ue : Option Nat) (s : State) : EngEnds :=
  match vmacroReady s with
  | none => .next s
  | some c =>
    if isSort c.instr then .next s
    else match ue, s.phaseOf 3 0 (s.prog 3 3).toNat with
      | some k, _ => .next (strikeTile 3 k c s)
      | none, none => .next s
      | none, some ph => let o := rowOut c ph s; vmacroWrite c o.1 o.2 s

end

end Sys2Proof.Machine
end

