-- ==== Sys2Proof/Machine/Exchange.lean ====
section
/-! DEFINITION. The exchange engine: the start of its commands, the steps of their chunks, and the messages START, DATA,
ACK and PAUSED (11 R328 to R351). -/

namespace Sys2Proof.Machine

noncomputable section

/-- Does something at another core. -/
def atCore (k : Nat) (f : State → EngEnds) (s : State) : EngEnds :=
  match f (s.focus k) with
  | .next t => .next (t.focus s.core.id)
  | r => r

/-! A collective (11 R333 R335). -/

/-- What the shapes and records of a command say: opcode, ranks, this rank, element bytes, elements of a chunk, elements and
chunks of a block, chunks. -/
structure Coll where
  op : Nat
  n : Nat
  me : Nat
  es : Nat
  ce : Nat
  blk : Nat
  per : Nat
  nchunk : Nat
  deriving DecidableEq, Repr, Inhabited

def collOf (c : Cmd) (b : List Byte) : Coll :=
  let op := opCode c.instr
  let n := xRanks b
  let es := if op = 6 then (c.shape 0).ebytes else (c.shape 2).ebytes
  let ce := (if xDtype b = 2 then xChunk b / 2 else xChunk b) / es
  let blk := match op with
    | 1 | 3 | 6 => (c.shape 0).count
    | 5 => (c.shape 2).count / n
    | 2 => (c.shape 0).count
    | _ => (c.shape 2).count
  let per := cdiv blk ce
  ⟨op, n, xMe b, es, ce, blk, per, if op = 2 ∨ op = 5 then n * per else per⟩

def Coll.reduces (k : Coll) : Bool := k.op == 1 || k.op == 3
def Coll.succ (k : Coll) : Nat := (k.me + 1) % k.n
def Coll.pred (k : Coll) : Nat := (k.me + k.n - 1) % k.n
/-- The first element and the element count of a chunk. -/
def Coll.range (k : Coll) (c : Nat) : Nat × Nat :=
  let i := c % k.per
  (c / k.per * k.blk + i * k.ce, min k.ce (k.blk - i * k.ce))
/-- The elements of REDSCAT that each rank owns. -/
def Coll.own (k : Coll) : Nat := k.blk / k.n

/-- The rank a chunk starts at (11 R336 R338). -/
def Coll.origin (k : Coll) (b : List Byte) (c : Nat) : Nat :=
  match k.op with
  | 1 | 3 => c % k.n
  | 2 | 5 => c / k.per
  | 4 => xPeer b
  | 6 => k.me
  | _ => xPeer b
/-- The distance of this rank from the chunk's origin. -/
def Coll.offset (k : Coll) (b : List Byte) (c : Nat) : Nat := (k.me + k.n - k.origin b c) % k.n

/-- The rank at distance `o` owns elements of a chunk of REDSCAT. -/
def Coll.owns (k : Coll) (c o : Nat) : Bool :=
  let r := (c % k.n + o) % k.n
  let x := k.range c
  decide (r * k.own < x.1 + x.2) && decide (x.1 < r * k.own + k.own)

/-- The number of ranks from the origin on that the final value of a chunk travels to (11 R336 R337). -/
def Coll.finals (k : Coll) (c : Nat) : Nat :=
  if k.op = 1 then k.n - 1
  else ((List.range (k.n - 1)).filter fun o => k.owns c o).foldl (fun a o => max a (o + 1)) 0

/-- The steps of DATA this rank receives for a chunk (11 R336 to R339). -/
def Coll.receives (k : Coll) (b : List Byte) (c : Nat) : List Nat :=
  let o := k.offset b c
  match k.op with
  | 1 | 3 => (if o = 0 then [] else [o - 1]) ++ (if o < k.finals c then [k.n - 1 + o] else [])
  | 2 | 4 => if o = 0 then [] else [o - 1]
  | 5 => if o = 0 then [] else [0]
  | 6 => []
  | _ => [0]

/-- The rank DATA of a chunk comes from. -/
def Coll.source (k : Coll) (b : List Byte) (c : Nat) : Nat :=
  match k.op with
  | 5 => c / k.per
  | 7 => xPeer b
  | _ => k.pred

/-! Reading inputs (11 R334 R336). -/

def xAgent (s : State) (b : List Byte) : Agent := cmdAgent s (scopeCode (field b 0 1)) 0

def xTagOk (dtype : Nat) (t : BitVec 24) : Bool := tagOk [0] t || (decide (dtype = 1) && tagOk [3] t) || (decide (dtype = 2) && tagOk [4] t)

/-- An input of a reduction: its pattern widened to 32 bits, the flags of that rounding, and its exact value. -/
structure XInput where
  pat : Nat
  flags : Flags
  val : FVal
  deriving DecidableEq, Repr

/-- Reads an input; none for a tag that does not fit. A scale makes the pattern a rounding of the exact value. -/
def xInput (dtype : Nat) (m : SMap EBlock) (a : Word) : Option XInput :=
  let e := blockAt m a
  if !xTagOk dtype e.tag then none else
  let scale := if tagFamily e.tag = 0 then 0 else tagScale e.tag
  let float := fun (x : FVal) (pat : Nat) =>
    let r := f32.rne (x.scale scale)
    if scale = 0 then (⟨pat, noFlags, x⟩ : XInput) else ⟨r.1, r.2, x.scale scale⟩
  match dtype with
  | 1 => let v := ofBytes (zBytes e a 4); some (float (f32.decode v) v)
  | 2 => let v := ofBytes (zBytes e a 2); some (float (bf16.decode v) (v * 65536))
  | _ => some ⟨ofBytes (zBytes e a 4), noFlags, .nan false⟩

/-- The counts of an input that is rounded without an operation (11 R336). -/
def XInput.counts (x : XInput) : Counts := if x.flags = noFlags then zeroCounts else countOf f32 x.pat x.flags

/-- One combination (11 R336). -/
def xCombine (dtype rop : Nat) (sat : Bool) (acc : Nat) (x : XInput) : Nat × Counts :=
  if dtype ≤ 2 then
    let a := f32.decode acc
    if rop = 0 then let r := f32.addV 0 a x.val; (r.1, countOf f32 r.1 r.2)
    else
      let r := f32.maxMin (rop == 1) acc x.pat
      (r.1, countOf f32 r.1 (if (if rop = 1 then a.lt x.val else x.val.lt a) then x.flags else r.2))
  else
    let v := fun (w : Nat) => if dtype = 3 then sint 32 w else (w : Int)
    let lo : Int := if dtype = 3 then -(2 ^ 31) else 0
    let hi : Int := if dtype = 3 then 2 ^ 31 - 1 else 2 ^ 32 - 1
    match rop with
    | 0 => let t := v acc + v x.pat
           let r := if sat then clampInt t lo hi else t
           (wrap 32 r, { zeroCounts with sat := boolBit (sat && r != t) })
    | 1 => (if v acc < v x.pat then x.pat else acc, zeroCounts)
    | _ => (if v x.pat < v acc then x.pat else acc, zeroCounts)

/-- The result a rank writes: bf16 by the conversion of 03 R94. -/
def xResult (dtype acc : Nat) : List Byte × Counts :=
  if dtype = 2 then let r := bf16.convV 0 (f32.decode acc); (toBytes 2 r.1, countOf bf16 r.1 r.2) else (toBytes 4 acc, zeroCounts)

/-- The tag of a reduction's output (11 R334). -/
def xOutTag (dtype : Nat) : BitVec 24 := if dtype = 1 then mkTag 3 1 0 0 false else if dtype = 2 then mkTag 4 1 0 0 false else 0

/-! Payloads. -/

/-- Elements as a payload: bytes, the tag of the block each came from, poison. -/
structure XElem where
  bytes : List Byte
  tag : BitVec 24
  poison : Bool
  deriving DecidableEq, Repr, Inhabited

/-- The metadata of a payload: each element keeps the tag and the poison of the block it came from, so that a receiver writes the
tags that a local copy would (11 R334). -/
def payloadMetas (l : List XElem) : List (BitVec 25) := l.map fun x => mkMdata x.tag x.poison

/-- The elements of a payload of `es`-byte elements. -/
def payloadElems (es n : Nat) (payload : List Byte) (metas : List (BitVec 25)) : List XElem :=
  (List.range n).map fun i =>
    let m := metas.getD i 0
    ⟨slice payload (es * i) es, m.setWidth 24, m.getLsbD 24⟩

/-- The elements that a 64-byte block of a message's payload holds. -/
def perBlock (m : Message) : Nat := max 1 (64 / max 1 (m.payload.length / max 1 m.metas.length))

/-- The metadata of each 64-byte block of a payload in the staging area: the tag of its first element, as 08 R252 has it, and the
poison of any (11 R328). -/
def blockMetas (m : Message) : List (BitVec 25) :=
  (List.range (cdiv m.metas.length (perBlock m))).map fun j =>
    let xs := (m.metas.drop (j * perBlock m)).take (perBlock m)
    mkMdata ((xs.headD 0).setWidth 24) (xs.any fun x => x.getLsbD 24)

/-- The message with payload block `j` poisoned. -/
def poisonBlock (m : Message) (j : Nat) : Message :=
  { m with metas := m.metas.mapIdx fun i v => if i / perBlock m = j then setBit v 24 true else v }

/-! What a step comes to. -/

/-- A step's message (receiver, step, elements), the elements it writes here, whether the chunk is complete, and counts. -/
structure XOut where
  msg : Option (Nat × Nat × List XElem)
  writes : List EElem
  complete : Bool
  counts : Counts
  deriving DecidableEq, Repr, Inhabited

/-- An action of this rank on one chunk (11 R342). -/
inductive XAct where
  /-- Sends a staged message. -/
  | send (m : Staged)
  /-- Processes a consumed message. -/
  | take (p : Partial)
  /-- Starts its own chunk towards a rank. -/
  | begin (chunk dst : Nat)
  /-- Copies its own block, or reduces alone. -/
  | alone (chunk : Nat)
  deriving DecidableEq, Repr

def Coll.isFinal (k : Coll) (step : Nat) : Bool := k.reduces && decide (k.n - 1 ≤ step)

/-- The elements of shA an action reads, by ordinal. -/
def Coll.reads (k : Coll) (a : XAct) : Nat × Nat :=
  match a with
  | .send _ => (0, 0)
  | .take p => if k.reduces && !k.isFinal p.step then k.range p.chunk else (0, 0)
  | .begin c d => let r := k.range c; if k.op = 2 then (r.1 - k.me * k.blk, r.2) else if k.op = 5 then (d * k.blk + (r.1 - k.me * k.blk), r.2) else r
  | .alone c => let r := k.range c; if k.op = 2 then (r.1 - k.me * k.blk, r.2) else r

/-- Reduction results as elements that this rank writes: only its own ones for REDSCAT. -/
def Coll.results (k : Coll) (c : Cmd) (chunk : Nat) (l : List XElem) : List EElem :=
  let r := k.range chunk
  (l.zipIdx).filterMap fun x =>
    let e := r.1 + x.2
    if k.op = 1 then some ⟨(c.shape 2).addrOf e, x.1.bytes, none, x.1.poison⟩
    else if k.me * k.own ≤ e ∧ e < k.me * k.own + k.own then some ⟨(c.shape 2).addrOf (e - k.me * k.own), x.1.bytes, none, x.1.poison⟩
    else none

/-- Moved elements as this rank writes them. -/
def Coll.places (k : Coll) (c : Cmd) (chunk : Nat) (l : List XElem) : List EElem :=
  let r := k.range chunk
  (l.zipIdx).map fun x => ⟨(c.shape 2).addrOf (r.1 + x.2), x.1.bytes, some x.1.tag, x.1.poison⟩

/-- Local elements of shA as they stand. -/
def xLocal (c : Cmd) (k : Coll) (m : SMap EBlock) (r : Nat × Nat) : List XElem :=
  (List.range r.2).map fun i =>
    let a := (c.shape 0).addrOf (r.1 + i)
    let e := blockAt m a
    ⟨e.at a k.es, e.tag, e.poison⟩

/-- A final value at this rank, at distance `o` from the origin: it writes its elements and passes the value on. -/
def Coll.finish (k : Coll) (c : Cmd) (chunk o step : Nat) (l : List XElem) (n : Counts) : XOut :=
  let next := if o = k.n - 1 then 0 else o + 1
  ⟨if next < k.finals chunk ∧ 1 < k.n then some (k.succ, step, l) else none, k.results c chunk l, true, n⟩

/-- Accumulated values: passed on as f32 or integers, or made the result at the last rank (11 R336). -/
def Coll.pass (k : Coll) (c : Cmd) (b : List Byte) (chunk : Nat) (accs : List (Nat × Bool)) (n : Counts) : XOut :=
  let o := k.offset b chunk
  if o = k.n - 1 then
    let rs := accs.map fun a => (xResult (xDtype b) a.1, a.2)
    k.finish c chunk o (k.n - 1) (rs.map fun r => ⟨r.1.1, 0, r.2⟩) (n.add (sumCounts (rs.map fun r => r.1.2)))
  else ⟨some (k.succ, o, accs.map fun a => ⟨toBytes 4 a.1, 0, a.2⟩), [], decide (k.finals chunk ≤ o), n⟩

/-- What an action does with the blocks it read; none for an input of another family (11 R334). -/
def Coll.act (k : Coll) (c : Cmd) (b : List Byte) (m : SMap EBlock) (a : XAct) : Option XOut :=
  let r := k.reads a
  let as := (List.range r.2).map fun i => (c.shape 0).addrOf (r.1 + i)
  let ins := as.mapM fun a => (xInput (xDtype b) m a).map fun v => (v, (blockAt m a).poison)
  match a with
  | .send _ => none
  | .take p =>
    let o := k.offset b p.chunk
    let len := (k.range p.chunk).2
    if k.reduces then
      if k.isFinal p.step then some (k.finish c p.chunk o (p.step + 1) (payloadElems k.es len p.payload p.metas) zeroCounts)
      else ins.map fun xs =>
        let rs := (xs.zip (payloadElems 4 len p.payload p.metas)).map fun z =>
          (xCombine (xDtype b) (xRop b) (xSat b) (ofBytes z.2.bytes) z.1.1, z.1.2 || z.2.poison)
        k.pass c b p.chunk (rs.map fun r => (r.1.1, r.2)) (sumCounts (rs.map fun r => r.1.2))
    else
      let l := payloadElems k.es len p.payload p.metas
      some ⟨if (k.op = 2 ∨ k.op = 4) ∧ o < k.n - 1 then some (k.succ, o, l) else none, k.places c p.chunk l, true, zeroCounts⟩
  | .begin ch d =>
    if k.reduces then ins.map fun xs => k.pass c b ch (xs.map fun x => (x.1.pat, x.2)) (sumCounts (xs.map fun x => x.1.counts))
    else
      let l := xLocal c k m r
      let ring := k.op = 2 ∨ k.op = 4
      some ⟨some (d, 0, l), if ring then k.places c ch l else [], ring, zeroCounts⟩
  | .alone ch =>
    if k.reduces then ins.map fun xs => k.pass c b ch (xs.map fun x => (x.1.pat, x.2)) (sumCounts (xs.map fun x => x.1.counts))
    else some ⟨none, k.places c ch (xLocal c k m r), true, zeroCounts⟩

/-! Which action comes next (11 R342). -/

/-- The ranks this rank starts a chunk of its own towards. -/
def Coll.begins (k : Coll) (b : List Byte) (c : Nat) : List Nat :=
  if k.op = 7 then [] else if k.op = 6 then [xPeer b]
  else if k.offset b c ≠ 0 ∨ k.n ≤ 1 then []
  else if k.op = 5 then (List.range k.n).filter fun j => j != k.me else [k.succ]

/-- A chunk of this rank's own that ends without a message: ALLTOALL's own block, or a communicator of one rank. -/
def Coll.isAlone (k : Coll) (b : List Byte) (c : Nat) : Bool :=
  decide (k.op ≤ 5) && k.offset b c == 0 && (k.op == 5 || decide (k.n ≤ 1))

def beginKey (d : Nat) : Nat := 10000 + d

/-- The lowest free staging slot. -/
def freeSlot (b : List Byte) (s : State) : Option Nat :=
  (List.range (2 * xDepth b)).find? fun j => !(s.core.eng.exch.staged.any fun m => m.slot == j)

/-- An action on a chunk that passes a message on. -/
def Coll.stages (k : Coll) (b : List Byte) (a : XAct) : Bool :=
  match a with
  | .send _ | .alone _ => false
  | .begin _ _ => true
  | .take p =>
    let o := k.offset b p.chunk
    if k.reduces then
      if k.isFinal p.step || o == k.n - 1 then decide ((if o = k.n - 1 then 0 else o + 1) < k.finals p.chunk) else true
    else (k.op == 2 || k.op == 4) && decide (o < k.n - 1)

/-- The actions on chunk `c` in the order they are tried. -/
def Coll.actions (k : Coll) (b : List Byte) (s : State) (c : Nat) : List XAct :=
  let x := s.core.eng.exch
  if s.xDone c then [] else
  let bs := (k.begins b c).filter fun d => !x.consumed.contains (c, beginKey d)
  (sortOn (fun p : Partial => p.step) (x.partials.filter fun p => p.chunk == c)).map XAct.take ++ bs.map (XAct.begin c) ++
    (if k.isAlone b c && bs.isEmpty then [.alone c] else [])

/-- The next recorded delivery of a replayed command, with its place in the log (12 R374). -/
def xRecorded (c : Cmd) (b : List Byte) (s : State) : Option (Nat × LogEnt) :=
  s.core.replay.bind fun rp =>
    let l := s.core.log
    ((logEntries s (l.head.toNat / 16 + 1) l.tail.toNat l.head.toNat).find? fun x =>
      x.2.1.kind == Ent.inrec && x.2.1.src == 6 + 8 * 4 && field x.2.1.body 0 8 == 9 && x.2.1.win == c.win && x.2.1.pc == c.pc &&
      fw x.2.1.body 8 == xComm b && fw x.2.1.body 16 == xSeq b && !rp.used.contains x.1).map fun x => (x.1, x.2.1)

/-- The addresses of the elements of a chunk that this rank writes. -/
def Coll.dests (k : Coll) (c : Cmd) (chunk : Nat) : List Word :=
  let l := (List.range (k.range chunk).2).map fun _ => (default : XElem)
  (if k.op = 6 then [] else if k.reduces then k.results c chunk l else k.places c chunk l).map EElem.dst

/-- Chunk `ch` writes a byte that a lower chunk, still to be written, writes too: writes to one byte follow chunk order (11 R351). -/
def Coll.blockedBy (k : Coll) (c : Cmd) (ch : Nat) (s : State) : Bool :=
  let near := fun (x y : Word) => decide (x.toNat < y.toNat + k.es) && decide (y.toNat < x.toNat + k.es)
  ((List.range ch).filter fun d => !s.xDone d).any fun d => (k.dests c d).any fun x => (k.dests c ch).any fun y => near x y

/-- The next action: staged messages that may be sent first, then the lowest chunk that can go on. -/
def Coll.next (k : Coll) (c : Cmd) (b : List Byte) (s : State) : Option XAct :=
  let x := s.core.eng.exch
  let ready := x.staged.find? fun m => m.due && (s.core.replay.isSome || x.started.any fun t => t.src == m.msg.dst)
  match ready with
  | some m => some (.send m)
  | none =>
    let cd := (s.prog 4 5).toNat
    let cs := ((List.range (xDepth b)).map fun i => cd + i).filter fun c => decide (c < k.nchunk)
    ((cs.filter fun ch => !k.blockedBy c ch s).flatMap (k.actions b s)).find? fun a => !k.stages b a || (freeSlot b s).isSome

/-! Doing it. -/

def modStaged (f : List Staged → List Staged) (s : State) : State := s.modExch fun x => { x with staged := f x.staged }

/-- Staged messages that their receiver has: they go, and XSEND's chunk is complete (11 R342). -/
def acknowledge (op : Nat) (has : Staged → Bool) (s : State) : State :=
  let gone := s.core.eng.exch.staged.filter has
  let s := modStaged (fun l => l.filter fun z => !has z) s
  if op = 6 then gone.foldl (fun s z => xComplete z.msg.chunk s) s else s

/-- Chunk `c` is complete here: ACK goes to the sender of each of its messages, its partials go. -/
def finishChunkHere (k : Coll) (b : List Byte) (c : Nat) (s : State) : State :=
  let got := (s.core.eng.exch.consumed.filter fun z => z.1 == c && decide (z.2 < beginKey 0)).map Prod.snd
  let s := (xComplete c s).modExch fun x => { x with
    partials := x.partials.filter fun p => p.chunk != c, consumed := x.consumed.filter fun z => z.1 != c }
  got.foldl (fun s st => xSend b (xMessage k.op b .ack (k.source b c) c st) s) s

/-- A rank waits for a message of `peer`: its START, an ACK, or DATA of a chunk it takes part in. -/
def awaits (k : Coll) (b : List Byte) (peer : Nat) (s : State) : Bool :=
  let x := s.core.eng.exch
  let cd := (s.prog 4 5).toNat
  !(x.started.any fun t => t.src == peer) || (x.staged.any fun z => z.msg.dst == peer) ||
  (List.range (xDepth b)).any fun i => decide (cd + i < k.nchunk) && !s.xDone (cd + i) && k.source b (cd + i) == peer &&
    (k.receives b (cd + i)).any fun st => !x.consumed.contains (cd + i, st)

/-- The waits that begin between two states are counted from now (11 R345). -/
def beginWaits (k : Coll) (b : List Byte) (old new : State) : State :=
  let ps := (xPeers k.op b).filter fun p => !awaits k b p old && awaits k b p new
  new.modExch fun x => { x with since := ps.foldl (fun m p => sput m p new.clock) x.since }

/-- The stop of the running command by a fault that names a peer and a port (11 R346 R347). -/
def xStop (cause : BitVec 8) (peer port : Nat) (s : State) : State :=
  faultHead 4 cause 0 (s.setProg 4 8 (BitVec.ofNat 64 (peer * 65536 + port)))

/-- The IRREV entry of a DATA message that leaves the package (12 R357 R367). -/
def xIrrev (c : Cmd) (m : Message) : LogEnt :=
  { kind := Ent.irrev, flags := 2, src := 6 + 8 * 4, win := c.win, pc := c.pc,
    body := n8 2 ++ b8 m.comm ++ n8 m.payload.length ++ n8 (crc32c m.payload) }

/-- A staged message leaves; in a replay it counts as acknowledged (12 R374). -/
def sentOut (c : Cmd) (b : List Byte) (slot : Nat) (msg : Message) (s : State) : State :=
  let s := xSend b msg s
  if s.core.replay.isSome then acknowledge (opCode c.instr) (fun z => z.slot == slot) s
  else modStaged (fun l => l.map fun z => if z.slot = slot then { z with due := false } else z) s

/-- Sends a staged message. An error strikes the read of a staged block: it is posted, and where the second read fails too the block is
sent as poisoned (11 R350). -/
def sendStaged (c : Cmd) (b : List Byte) (ue : Option ReadError) (m : Staged) (s : State) : EngEnds :=
  let away := xAway b m.msg.dst
  let base := xStage b + BitVec.ofNat 64 (m.slot * (xChunk b + 64) + 64)
  let r := match ue with
    | none => (m.msg, s)
    | some u =>
      let at_ := base + BitVec.ofNat 64 (64 * u.request)
      let cause := if isOwn base then Cause.ueScratchpad else if u.l2 then Cause.ueL2 else Cause.ueHbm
      (if u.again then poisonBlock m.msg u.request else m.msg,
       report s (some s.core.partOf) (dieOf s.core.id) cause 1 (unitId s.core.id 5) false c.pc at_)
  commitWith 4 c (xAgent s b) [] (if away then [xIrrev c r.1] else []) (sentOut c b m.slot r.1) r.2

/-- The elements of a staged message: a 64-byte header, whose layout nothing states, and the payload blocks (11 R328). -/
def stageElems (b : List Byte) (slot : Nat) (hdr : List Byte) (m : Message) : List EElem :=
  let base := xStage b + BitVec.ofNat 64 (slot * (xChunk b + 64))
  ⟨base, hdr, none, false⟩ :: (blockMetas m).mapIdx fun j md =>
    ⟨base + BitVec.ofNat 64 (64 + 64 * j), (m.payload.drop (64 * j)).take 64, some (md.setWidth 24), md.getLsbD 24⟩

/-- The bookkeeping of an action: what it consumed is gone, and its chunk may be complete. -/
def actDone (b : List Byte) (k : Coll) (a : XAct) (chunk : Nat) (o : XOut) (old : State) : State :=
  let s := old
  let s := (if o.writes.any fun e => e.poison then s.consume 1 else s).addCounts 4 o.counts
  let s := s.modExch fun x => match a with
    | .take p => { x with partials := x.partials.filter fun q => !(q.chunk == p.chunk && q.step == p.step) }
    | .begin ch d => { x with consumed := x.consumed ++ [(ch, beginKey d)] }
    | _ => x
  beginWaits k b old (if o.complete then finishChunkHere k b chunk s else s)

/-- The DATA message of an action: its rank, its step and its elements. -/
def actMessage (b : List Byte) (k : Coll) (chunk : Nat) (x : Nat × Nat × List XElem) : Message :=
  { xMessage k.op b .data x.1 chunk x.2.1 with payload := x.2.2.flatMap fun e => e.bytes, metas := payloadMetas x.2.2 }

/-- The tags of what a collective writes. -/
def Coll.rule (k : Coll) (b : List Byte) : TagRule := if k.reduces then .fixed (xOutTag (xDtype b)) else .inherit

/-- Commits an action: results and the staged message are written, then its position advances (11 R342). -/
def commitAct (c : Cmd) (b : List Byte) (k : Coll) (a : XAct) (chunk : Nat) (o : XOut) (s : State) : EngEnds :=
  let ag := xAgent s b
  (locateElems ag o.writes s).eng 4 c .write fun ds s =>
    let ws := fun (s : State) => ds.map fun d => writeElems (k.rule b) d.1 d.2 s
    match o.msg, freeSlot b s with
    | some x, some slot =>
      let m := actMessage b k chunk x
      let h := freeBytes 64 s
      (locateElems ag (stageElems b slot h.1 m) h.2).eng 4 c .write fun st s =>
        commitUnit 4 c ag (ws s ++ st.map fun d => writeElems .inherit d.1 d.2 s)
          (fun s => beginWaits k b s (actDone b k a chunk o (modStaged (fun l => l ++ [⟨slot, true, m⟩]) s))) s
    | none, _ => commitUnit 4 c ag (ws s) (actDone b k a chunk o) s
    | _, none => .next s

/-- The running exchange command that may take a step. -/
def xReady (s : State) : Option Cmd := (s.engineReady 4).bind fun c => if (s.work 4).goesOn then some c else none

/-- The chunk of an action. -/
def XAct.chunk : XAct → Nat
  | .send m => m.msg.chunk
  | .take p => p.chunk
  | .begin c _ => c
  | .alone c => c

/-- EXCHANGE_STEP: one step of a chunk at this rank (11 R342). `ue`: an uncorrectable error in a local read (11 R350). In a replay a rank with nothing to do takes its next recorded delivery (12 R374). -/
def execExchangeStep (ue : Option ReadError) (s : State) : EngEnds :=
  match xReady s with
  | none => .next s
  | some c =>
    let b := (s.work 4).prm
    let k := collOf c b
    match k.next c b s with
    | some (.send m) => sendStaged c b ue m s
    | some a =>
      let r := k.reads a
      let as := (List.range r.2).map fun i => (c.shape 0).addrOf (r.1 + i)
      (locateBlocks (xAgent s b) .read (oneEach (as.map blockOf)) s).eng 4 c .read fun ls s =>
        let m := takeSources 5 (xAgent s b) c (fun _ => (c.shape 0).farTag 0) ue ls s
        match k.act c b m.1 a with
        | none => .next (xStop Cause.engineFormat 0xFFFF 0xFF m.2)
        | some o => commitAct c b k a a.chunk o m.2
    | none =>
      match xRecorded c b s, s.core.replay with
      | some r, some rp =>
        let ch := field r.2.body 24 8
        let n := (k.range ch).2
        match (k.receives b ch).find? fun st => !s.core.eng.exch.consumed.contains (ch, st) with
        | none => .next s
        | some st =>
          let sz := n * (if k.reduces && !k.isFinal st then 4 else k.es)
          let md := (List.range n).map fun j => BitVec.ofNat 25 (field r.2.body (32 + sz + 4 * j) 4)
          let s := { s with core := { s.core with replay := some { rp with used := rp.used ++ [r.1] } } }
          .next (s.modExch fun x => { x with consumed := x.consumed ++ [(ch, st)],
                                             partials := x.partials ++ [⟨ch, st, slice r.2.body 32 sz, md⟩] })
      | _, _ => .next s

/-- Every chunk is complete and every staged message acknowledged (11 R342). -/
def exchangeDone (s : State) : Bool := s.prog 4 5 == s.prog 4 7 && s.core.eng.exch.staged.isEmpty

/-! Messages that arrive. -/

/-- The core whose running command a message is for. -/
def State.exchangeOf (s : State) (m : Message) : Option Nat :=
  s.liveCores.find? fun k =>
    let c := s.coreAt k
    let b := (c.eng.work.toList.getD 4 zeroWork).prm
    (match (c.eng.queue 4).head? with | some h => h.running | none => false) && xComm b == m.comm && xSeq b == m.seq && xMe b == m.dst

/-- The core of the complete command that a message is for, with the command's opcode and records (11 R343). -/
def State.exchangeEnded (s : State) (m : Message) : Option (Nat × Nat × List Byte) :=
  s.dev.xended.find? fun x => xComm x.2.2 == m.comm && xSeq x.2.2 == m.seq && xMe x.2.2 == m.dst

def State.dropFabric (s : State) (m : Message) : State := { s with dev := { s.dev with fabric := s.dev.fabric.erase m } }

/-- A message within the package that the bridge fabric loses: FABRIC_UE is posted, and the command that sent it stops with
EXCHANGE_LINK and PORT 0xFF (11 R344). A command that has stopped already stays as it is. -/
def loseMessage (m : Message) (s : State) : State :=
  match s.exchangeOf { m with src := m.dst, dst := m.src } with
  | none => report s none 0 Cause.fabricUe 1 (unitId 0 0) false 0 0
  | some k =>
    let me := s.core.id
    let s := s.focus k
    let pc := match s.runningCmd 4 with | some c => c.pc | none => 0
    (xStop Cause.exchangeLink m.dst 0xFF
      (report s (some s.core.partOf) (dieOf k) Cause.fabricUe 1 (unitId k 5) false pc 0)).focus me

/-- A message arrives: off the bridge fabric, where it stands there, or on a port that is UP, in good DATA flits (15 R448 R449). -/
def arrive (m : Message) (s : State) : Option State :=
  if m.port = 18 then (if s.dev.fabric.contains m then some (s.dropFabric m) else none)
  else if (s.port m.port.val).state = 2 ∧ m.flits ≠ [] ∧ (m.flits.all fun f => flitGood f && flitType f == 1) = true then some (takeArrival m s)
  else none

/-- What a message does where it arrives, unless the bridge fabric loses it there. -/
def onFabric (m : Message) (s : State) (f : State → EngEnds) : EngEnds :=
  if m.lost then
    let sent := { m with lost := false }
    .next (if s.dev.fabric.contains sent then loseMessage sent (s.dropFabric sent) else s)
  else match arrive m s with
    | some s => f s
    | none => .next s

/-- The element counts that R333 has a rank announce: of shA and of shC. -/
def xCounts (c : Cmd) : List Nat :=
  match opCode c.instr with
  | 4 | 7 => [(c.shape 2).count, (c.shape 2).count]
  | 6 => [(c.shape 0).count, (c.shape 0).count]
  | _ => [(c.shape 0).count, (c.shape 2).count]

/-- What START announces (11 R340): OP, DTYPE, ROP, FLAGS, PEER, TAG, element size, element counts. -/
def xInfo (c : Cmd) (b : List Byte) : List Nat :=
  let k := collOf c b
  [k.op, xDtype b, xRop b, boolBit (xSat b), xPeer b, xTag b, k.es] ++ xCounts c

/-- What a START of `src` has to announce to this rank's command: XSEND meets XRECV of its peer, each naming the other (11 R339
R341). -/
def xExpected (c : Cmd) (b : List Byte) : List Nat :=
  let i := xInfo c b
  let op := opCode c.instr
  if op = 6 ∨ op = 7 then (i.set 0 (13 - op)).set 4 (xMe b) else i

/-- A START agrees with this rank's command. -/
def xAgrees (c : Cmd) (b : List Byte) (m : Message) : Bool :=
  m.info == xExpected c b && (xPeers (opCode c.instr) b).contains m.src

/-- The START that this rank sends to `dst`. -/
def startMessage (c : Cmd) (b : List Byte) (dst : Nat) (s : State) : Message :=
  { xMessage (opCode c.instr) b .start dst 0 0 with info := xInfo c b, cdone := (s.prog 4 5).toNat, cmap := s.prog 4 6 }

/-- A chunk is complete at a rank that announced CDONE and CMAP. -/
def messageHas (m : Message) (c : Nat) : Bool :=
  decide (c < m.cdone) || (decide (m.cdone < c) && decide (c - m.cdone - 1 < 64) && bitAt m.cmap (c - m.cdone - 1))

/-- START at the running command: DATA may flow to its sender, staged messages that the sender lacks are sent again (11 R341 R345 R348).
A second one of a sender that has not paused is that of its next command, and is held for this rank's next (11 R339; log 72).
A disagreement stops this command; its own START stops the sender's, and goes to a sender that is none of its peers too. -/
def takeStart (m : Message) (s : State) : State :=
  match s.runningCmd 4 with
  | none => s
  | some c =>
    let b := (s.work 4).prm
    if s.core.eng.exch.started.any fun t => t.src == m.src then { s with dev := { s.dev with xheld := s.dev.xheld ++ [m] } }
    else if !xAgrees c b m then
      let s := if (xPeers (opCode c.instr) b).contains m.src ∨ xRanks b ≤ m.src then s else xSend b (startMessage c b m.src s) s
      xStop Cause.exchangePeer m.src 0xFF s
    else
    let s := s.modExch fun x => { x with
      started := x.started ++ [m], pausedBy := x.pausedBy.filter (· != m.src),
      since := sput x.since m.src s.clock }
    let s := acknowledge (opCode c.instr) (fun z => z.msg.dst == m.src && messageHas m z.msg.chunk) s
    modStaged (fun l => l.map fun z => if z.msg.dst = m.src then { z with due := true } else z) s

/-- START: held until the command with its SEQ starts here (11 R341). -/
def execStartMsg (m : Message) (s : State) : EngEnds :=
  onFabric m s fun s =>
  match s.exchangeOf m with
  | none => .next (holdStarts [m] s)
  | some k => atCore k (fun s => .next (takeStart m s)) s

/-- The INREC entry of a delivery (12 R362). -/
def xDelivery (c : Cmd) (m : Message) : LogEnt :=
  { kind := Ent.inrec, flags := 0, src := 6 + 8 * 4, win := c.win, pc := c.pc,
    body := n8 9 ++ b8 m.comm ++ b8 m.seq ++ n8 m.chunk ++ m.payload ++ m.metas.flatMap fun v => toBytes 4 v.toNat }

/-- DATA at the running command: discarded as a duplicate, or consumed, with its record in FULL (11 R343, 12 R362). A full
log keeps the message waiting. -/
def takeData (m : Message) (s : State) : EngEnds :=
  match s.runningCmd 4 with
  | none => .next s
  | some c =>
    let b := (s.work 4).prm
    let k := collOf c b
    let s1 := s.modExch fun x => { x with since := sput x.since m.src s.clock }
    if s.core.replay.isSome || !(k.receives b m.chunk).contains m.step then .next s1
    else if s.xDone m.chunk then .next (xSend b (xMessage k.op b .ack m.src m.chunk m.step) (s1.setProg 4 9 (s1.prog 4 9 + 1)))
    else if s.core.eng.exch.consumed.contains (m.chunk, m.step) then .next (s1.setProg 4 9 (s1.prog 4 9 + 1))
    else
      let take := fun (s : State) => s.modExch fun x => { x with
        consumed := x.consumed ++ [(m.chunk, m.step)], partials := x.partials ++ [⟨m.chunk, m.step, m.payload, m.metas⟩] }
      let e := [xDelivery c m]
      let wait := fun (s : State) => { s with dev := { s.dev with fabric := s.dev.fabric ++ [{ m with port := 18, flits := [] }] } }
      if !s.logFull then .next (take s1)
      else match logReady e s1 with
        | (none, s2) => .next (take (e.foldl logAppend s2))
        | (some (.trap cause a), s2) => .next (faultHead 4 cause a s2)
        | (some (.fault cause a), s2) => .next (wait (appendFault cause a s2))
        | (some .blocked, s2) => .next (wait s2)

/-- DATA of a command that is complete here: every chunk is complete, so the message is discarded and acknowledged (11 R343). DUPS counts it
while the block still describes that command. -/
def lateData (op : Nat) (b : List Byte) (m : Message) (s : State) : State :=
  let s := xSend b (xMessage op b .ack m.src m.chunk m.step) s
  if s.progState 4 = 3 ∧ s.prog 4 4 = m.seq then s.setProg 4 9 (s.prog 4 9 + 1) else s

/-- DATA: a message whose command has stopped here is discarded (11 R343 R347). -/
def execDataMsg (m : Message) (s : State) : EngEnds :=
  onFabric m s fun s =>
  match s.exchangeOf m, s.exchangeEnded m with
  | some k, _ => atCore k (takeData m) s
  | none, some x => atCore x.1 (fun s => .next (lateData x.2.1 x.2.2 m s)) s
  | none, none => .next s

/-- ACK: the staged messages of the chunk for its sender are free, also those that a stopped command keeps (11 R342 R347). -/
def execAckMsg (m : Message) (s : State) : EngEnds :=
  onFabric m s fun s =>
  let has := fun (z : Staged) => z.msg.dst == m.src && z.msg.chunk == m.chunk && z.msg.seq == m.seq
  match s.exchangeOf m with
  | none =>
    .next { s with dev := { s.dev with xstage := s.dev.xstage.map fun x =>
      if x.1 = m.comm.toNat ∧ x.2.1 = m.dst then (x.1, x.2.1, x.2.2.filter fun z => !has z) else x } }
  | some k => atCore k (fun s => .next (match s.runningCmd 4 with
      | none => s
      | some c =>
        let s := s.modExch fun x => { x with since := sput x.since m.src s.clock }
        beginWaits (collOf c (s.work 4).prm) (s.work 4).prm s (acknowledge (opCode c.instr) has s))) s

/-- PAUSED: the timeout for its sender is suspended, and DATA to it waits, until its next START (11 R345). -/
def execPausedMsg (m : Message) (s : State) : EngEnds :=
  onFabric m s fun s =>
  match s.exchangeOf m with
  | none => .next { s with dev := { s.dev with xheld := s.dev.xheld.filter fun a =>
      !(a.comm == m.comm && a.seq == m.seq && a.src == m.src && a.dst == m.dst) } }
  | some k => atCore k (fun s => .next (s.modExch fun x => { x with
      started := x.started.filter fun t => t.src != m.src, pausedBy := addOnce x.pausedBy m.src,
      since := sput x.since m.src s.clock })) s

/-- TIMEOUT has passed without a message of `peer`; a microsecond is 2,250 clocks of the time base. -/
def exchangeLate (peer : Nat) (s : State) : Bool :=
  match s.runningCmd 4 with
  | none => false
  | some c =>
    let b := (s.work 4).prm
    xTimeout b != 0 && (xPeers (opCode c.instr) b).contains peer && !s.core.eng.exch.pausedBy.contains peer &&
    awaits (collOf c b) b peer s && decide (sget s.core.eng.exch.since 0 peer + xTimeout b * 2250 ≤ s.clock)

/-- EXCHANGE_TIMEOUT (11 R345). -/
def execExchangeTimeout (peer : Nat) (s : State) : EngEnds :=
  .next (if exchangeLate peer s then xStop Cause.exchangeTimeout peer 0xFF s else s)

/-! Start (11 R328 to R334 R344 R348). -/

/-- The parameter record but for what the communicator decides (11 R332). -/
def xRecordOk (op : Nat) (r : List Byte) : Bool :=
  let red := op == 1 || op == 3
  scopeOk r && (if red then decide (1 ≤ field r 1 1) && decide (field r 1 1 ≤ 4) && decide (field r 2 1 ≤ 2) && decide (field r 3 1 ≤ 1)
    else zeroField r 1 3) && zeroField r 4 4 && field r 8 8 % 64 == 0 && (op == 4 || 6 ≤ op || zeroField r 24 2) && zeroField r 26 2 &&
  (6 ≤ op || zeroField r 28 4) && zeroField r 32 32

/-- The communicator header (11 R328). -/
def xHeaderOk (op : Nat) (b : List Byte) : Bool :=
  decide (1 ≤ xRanks b) && decide (xRanks b ≤ 256) && decide (xMe b < xRanks b) && xChunk b % 64 == 0 && decide (64 ≤ xChunk b) &&
  decide (xChunk b ≤ 2 ^ 20) && decide (1 ≤ xDepth b) && decide (xDepth b ≤ 8) && zeroField b 85 3 && (xStage b).toNat % 64 == 0 &&
  zeroField b 96 32 && (!(op == 4 || 6 ≤ op) || decide (xPeer b < xRanks b))

/-- The rank entries (11 R329 R330). -/
def xEntriesOk (s : State) (b : List Byte) : Bool :=
  let mask := match s.cfg s.core.partOf.val with | some c => c.linkmask | none => 0
  (List.range (xRanks b)).all fun k =>
    decide (xDie b k < 4) && zeroField b (134 + 16 * k) 10 &&
    (if k = xMe b then !xAway b k && xDie b k == dieOf s.core.id
     else if xAway b k then xPort b k == 0xFF || (decide (xPort b k < 18) && mask.getLsbD (xPort b k))
     else (s.die (xDie b k)).up)

/-- Another command of the same rank runs on this package (11 R330). -/
def xTwin (s : State) (b : List Byte) : Bool :=
  s.liveCores.any fun k =>
    let c := s.coreAt k
    let w := (c.eng.work.toList.getD 4 zeroWork).prm
    (match (c.eng.queue 4).head? with | some h => h.running | none => false) && xComm w == xComm b && xMe w == xMe b

/-- The staging area (11 R328 R330). -/
def xStageFault (s : State) (b : List Byte) : Option (BitVec 8) :=
  let a := (xStage b).toNat
  match spanFault s (xStage b) a (a + xDepth b * 2 * (xChunk b + 64) - 1) with
  | none => none
  | some cause => some (if cause = Cause.apertureAccess then cause else Cause.paramRecord)

/-- The shapes of a command (11 R333 R334). -/
def xShapes (s : State) (c : Cmd) (b : List Byte) : Option (BitVec 8) :=
  let op := opCode c.instr
  let A := c.shape 0
  let C := c.shape 2
  let n := xRanks b
  let root := op != 4 || xPeer b == xMe b
  let red := op == 1 || op == 3
  let used := (if op ≠ 7 ∧ root then [A] else []) ++ (if op ≠ 6 then [C] else [])
  let size := if xDtype b = 2 then 1 else 2
  firstFault [used.findSome? fun h => if h.planar || h.malformed false || (red && h.esize != size) then some Cause.shapeInvalid else none,
    need (op == 6 || op == 7 || !root || A.esize == C.esize) Cause.shapeRange,
    need (match op with
      | 1 => A.count == C.count
      | 2 => C.count == n * A.count
      | 3 => A.count == n * C.count
      | 4 => !root || A.count == C.count
      | 5 => A.count == C.count && A.count % n == 0
      | _ => true) Cause.shapeRange,
    used.findSome? fun h => shapeFault s h false 0]

/-- The tags of a reduction's inputs, which are checked before START is sent (11 R334 R349). -/
def xTags (c : Cmd) (b : List Byte) (s : State) : Act State :=
  let A := c.shape 0
  if opCode c.instr = 1 ∨ opCode c.instr = 3 then checkTags (xAgent s b) (A.farTag 0) (xTagOk (xDtype b)) A.vas s else .ok s s

/-- The first rank on another package that has no route, or whose port is not UP (11 R344, 15 R449). -/
def xNoRoute (s : State) (op : Nat) (b : List Byte) : Option Nat :=
  (xPeers op b).find? fun k => xAway b k && (xPort b k == 0xFF || (s.port (xPort b k)).state != 2)

/-- SHDIG of an exchange command: the descriptors of shA and shC, 64 zero bytes for one that it does not use (11 R346). -/
def exchDigest (c : Cmd) : Nat :=
  crc32c ((match c.instr with | .xrecv .. => List.replicate 64 0 | _ => (c.shape 0).bytes) ++
    (match c.instr with | .xsend .. => List.replicate 64 0 | _ => (c.shape 2).bytes))

/-- Starts an exchange command: its checks, then its progress block, the staged messages it kept, and START. -/
def startExch (c : Cmd) (s : State) : Act State :=
  let op := opCode c.instr
  let ag := engineAgent s 2 false
  (readRecord c 64 64 none s).bind fun r s =>
  passes (need (xRecordOk op r) Cause.paramRecord) s fun s =>
  (readDirect ag (fw r 8) 64 s (unit := 5)).bind fun h s =>
  let rh := r ++ bytesOf h
  let s := consumePieces h s
  passes (need (xHeaderOk op rh) Cause.paramRecord) s fun s =>
  (readDirect ag (fw r 8 + 64) (16 * xRanks rh) s (unit := 5)).bind fun e s =>
  let b := rh ++ bytesOf e
  let s := consumePieces e s
  let dig := digestOf r
  let shd := exchDigest c
  let cdig := crc32c (slice rh 64 32)
  let st := s.progState 4
  let fresh := !c.resume || st == 0 || st == 3
  passes (firstFault [need (xEntriesOk s b && !xTwin s b) Cause.paramRecord, xStageFault s b,
    need (fresh || (resumable s 4 c && s.prog 4 2 == word2 shd dig && s.prog 4 3 == BitVec.ofNat 64 cdig)) Cause.resumeMismatch,
    xShapes s c b]) s fun s =>
  (xTags c b s).bind fun s _ =>
  let k := collOf c b
  let s := s.setWork 4 { zeroWork with prm := b }
  let s := s.setProgs 4 [(0, startWord 4 c s), (1, c.pc), (2, word2 shd dig), (3, BitVec.ofNat 64 cdig), (4, xSeq b),
    (7, BitVec.ofNat 64 k.nchunk)]
  let s := if fresh then s.setProgs 4 [(5, 0), (6, 0), (8, noPeer), (9, 0)] else s
  match xNoRoute s op b with
  | some p => .trap Cause.exchangeLink 0 (s.setProg 4 8 (BitVec.ofNat 64 (p * 65536 + xPort b p)))
  | none =>
    let mine := fun (x : Nat × Nat × List Staged) => x.1 == (xComm b).toNat && x.2.1 == xMe b
    let kept := if fresh then [] else (s.dev.xstage.filter mine).flatMap fun x => x.2.2
    let peers := xPeers op b
    let same := fun (x : Nat × Nat × List Byte) => xComm x.2.2 == xComm b && xSeq x.2.2 == xSeq b && xMe x.2.2 == xMe b
    let s := { s with dev := { s.dev with xstage := s.dev.xstage.filter (fun x => !mine x), xended := s.dev.xended.filter fun x => !same x } }
    let s := s.modExch fun _ => { noExch with staged := kept, since := peers.foldl (fun m p => sput m p s.clock) [] }
    .ok (peers.foldl (fun s p => xSend b (startMessage c b p s) s) s) s

/-- The command is complete: its records are kept for a peer that sends DATA of it again (11 R343). -/
def endExch (c : Cmd) (b : List Byte) (s : State) : State :=
  let s := s.modExch fun _ => noExch
  { s with dev := { s.dev with xended := s.dev.xended ++ [(s.core.id, opCode c.instr, b)] } }

/-- Takes the START messages that came before the command started (11 R341). -/
def takeHeld (s : State) : State :=
  let b := (s.work 4).prm
  let mine := fun (m : Message) => m.comm == xComm b && m.seq == xSeq b && m.dst == xMe b
  let ms := s.dev.xheld.filter mine
  ms.foldl (fun s m => takeStart m s) { s with dev := { s.dev with xheld := s.dev.xheld.filter fun m => !mine m } }

end

end Sys2Proof.Machine
end

