-- ==== Sys2Proof/Machine/Scout.lean ====
section
/-! DEFINITION. The scout engine: SCOUT, SSCORE, SWIN and SMASK (10 R305 to R327). The progress block holds the position, which
every unit of work moves. Marks of the running command: 4 the pass has begun, 8 and 9 PHASE of Q and K. In `rows`, key i holds
M(i) (low) and EM(i), 5000 + w a word of the mask row, 6000 + t a skipped tile: 1, or 2 once it is counted. `mid`: key tiles of sweep 1
were done since the row state was stored last. -/

namespace Sys2Proof.Machine

noncomputable section

/-! Records (10 R308 R309). -/

/-- The kinds of scout commands. -/
inductive ScoutOp where
  | scout | sscore | swin | smask
  deriving DecidableEq, Repr

def scoutOp : Instr → ScoutOp
  | .swin .. => .swin
  | .smask .. => .smask
  | .sscore .. => .sscore
  | _ => .scout

/-- The command reads Q and K. -/
def ScoutOp.array (o : ScoutOp) : Bool := o == .scout || o == .sscore

/-- An f32 field that is finite. -/
def finite32 (v : Nat) : Bool := decide (v / 2 ^ 23 % 256 < 255)

def scoutRecordOk (o : ScoutOp) (b : List Byte) : Bool :=
  let byte := fun n => field b n 1
  let z := fun n k => zeroBytes b n k
  scopeOk b && (if o.array then decide (byte 1 ≤ 2) && tilesOk b [2, 3, 4, 5] && decide (byte 6 ≤ 3) else z 1 6) &&
  decide (byte 7 < 4) && (o == .scout || byte 7 % 2 == 0) && (o != .smask || byte 7 == 0) &&
  (if o.array then finite32 (field b 8 4) && decide (0 < field b 8 4) && decide (field b 8 4 < 2 ^ 31) else z 8 4) &&
  (if o == .scout then finite32 (field b 12 4) && (decide (field b 12 4 < 2 ^ 31) || field b 12 4 == 2 ^ 31) else z 12 4) &&
  (o != .smask || (z 16 8 && z 32 16)) && (if o.array then z 24 8 else true) &&
  (o != .sscore || z 48 8) && (o != .swin || z 56 8) && (o == .smask || z 64 8) && (o == .scout || z 72 8) && (o == .sscore || z 80 8) &&
  (o == .scout || z 88 2) && (if o == .smask then decide (byte 90 ≤ 2) else byte 90 == 0) && byte 91 == 0 &&
  (if o.array then decide (1 ≤ field b 92 4) && decide (field b 92 4 ≤ 65536) else z 92 20) && (o == .sscore || z 112 8) && z 120 8

/-- LQ and NK: from the shapes, or from the record. -/
def scoutLQ (c : Cmd) (b : List Byte) : Nat := if (scoutOp c.instr).array then (c.shape 0).rows else field b 24 4
def scoutNK (c : Cmd) (b : List Byte) : Nat := if (scoutOp c.instr).array then (c.shape 1).rows else field b 28 4
def scoutTq (c : Cmd) (b : List Byte) : Nat := cdiv (scoutLQ c b) 128
def scoutTk (c : Cmd) (b : List Byte) : Nat := cdiv (scoutNK c b) 128
/-- KS' (10 R306). -/
def scoutKS (b : List Byte) : Nat := if field b 6 1 = 0 then 2 else field b 6 1
def scoutDk (c : Cmd) : Nat := (c.shape 0).cols

def scoutExcl (c : Cmd) (b : List Byte) : Excl :=
  ⟨scoutLQ c b, field b 16 4, field b 7 1 / 2 % 2 == 1, field b 20 4, fieldInt b 32, fieldInt b 40⟩

/-- Addresses of masks that the command requires or may use. -/
def scoutMasksOk (o : ScoutOp) (b : List Byte) : Bool :=
  [48, 56, 64].all (fun n => field b n 8 % 8 == 0) && (o == .sscore || field b 48 8 != 0) &&
  (o != .smask || (field b 56 8 != 0 && field b 64 8 != 0))

/-- The phase size of Q or K (10 R310). -/
def scoutPhase (h : Shape) (k : Nat) : Nat := if h.planar then 16 * h.cols * k else 128 * h.cols

def wsBytes (tk : Nat) : Nat := 17408 + 1024 * tk

/-- The checks at the start (10 R308 to R311 R314 R318 R324). -/
def scoutChecks (s : State) (c : Cmd) (b : List Byte) : Option (BitVec 8) :=
  let o := scoutOp c.instr
  let Q := c.shape 0
  let K := c.shape 1
  let S := c.shape 2
  let lq := scoutLQ c b
  let nk := scoutNK c b
  let nb := field b 92 4
  let range := fun x => decide (1 ≤ x) && decide (x ≤ 2 ^ 19)
  let lk := if o == .smask then none else need (decide (1 ≤ field b 16 4) && decide (field b 16 4 ≤ nk)) Cause.shapeRange
  let arr := if o.array then firstFault
      [need (Q.esize != 1 && K.esize != 1) Cause.engineFormat,
       need (Q.operandOk [4, 0] && K.operandOk [4, 0] && fieldInt b 96 % 64 == 0 && fieldInt b 104 % 64 == 0) Cause.shapeInvalid,
       batchFault s Q true nb (fieldInt b 96), batchFault s K true nb (fieldInt b 104),
       need (decide (32 ≤ Q.cols) && decide (Q.cols ≤ 256) && Q.cols % 32 == 0 && K.cols == Q.cols) Cause.shapeRange,
       phaseTiles s 1 [(field b 2 1, scoutPhase Q (scoutKS b)), (field b 3 1, scoutPhase Q (scoutKS b)), (field b 4 1, scoutPhase K (scoutKS b)),
         (field b 5 1, scoutPhase K (scoutKS b))]] else none
  let own := match o with
    | .scout => firstFault [need (field b 72 8 != 0 && field b 72 8 % 64 == 0) Cause.shapeInvalid,
        areaFault s (fw b 72) (wsBytes (scoutTk c b))]
    | .sscore => firstFault [need (field b 80 8 % 4 == 0 && S.outputOk && fieldInt b 112 % 4 == 0) Cause.shapeInvalid,
        batchFault s S false nb (fieldInt b 112), need (S.cols == nk && S.rows == lq) Cause.shapeRange]
    | _ => none
  firstFault [need (scoutRecordOk o b) Cause.paramRecord, need (scoutMasksOk o b) Cause.maskShape, arr,
    need (range lq && range nk && decide (scoutTk c b ≤ 4096)) Cause.shapeRange, lk, own]

/-- The start of a scout command (10 R321 R323). -/
def startScout (c : Cmd) (s : State) : Act State :=
  (readRecord c 128 64 none s).bind fun b s =>
    let dig := word2 (shapeDigest c.instr c.shapes 3) (digestOf b)
    passes (firstFault [need (!c.resume || (resumable s 1 c && s.prog 1 2 == dig)) Cause.resumeMismatch, scoutChecks s c b]) s fun s =>
      let s := s.setWork 1 { zeroWork with prm := b }
      let s := s.setProgs 1 [(0, startWord 1 c s), (1, c.pc), (2, dig), (7, 0)]
      .ok (if c.resume then s else s.setProgs 1 [(3, 0), (4, if scoutOp c.instr = .scout then word2 1 0 else 0), (5, 0), (6, 0)]) s

/-! Position (10 R321). -/

structure ScoutPos where
  q : Nat
  b : Nat
  sweep : Nat
  t : Nat
  deriving DecidableEq, Repr

def scoutPos (s : State) : ScoutPos := ⟨s.progHi 1 3, s.progLo 1 3, s.progHi 1 4, s.progLo 1 4⟩

def setScoutPos (p : ScoutPos) (s : State) : State := s.setProgs 1 [(3, word2 p.q p.b), (4, word2 p.sweep p.t)]

/-- The agents: only K follows the tier policy (10 R317). -/
def scoutAgent (s : State) (b : List Byte) (k : Bool) : Agent := cmdAgent s (scopeCode (field b 0 1)) (if k then field b 1 1 else 0)

/-! Elements with their half-widths (10 R306). -/

/-- An element as the scout array reads it: value, and the exponent of its half-width when it is not 0. -/
structure SCell where
  val : FVal
  half : Option Int
  poison : Bool
  deriving DecidableEq, Repr

/-- The 32 elements of a K group, read with `k` planes. -/
def Operand.scoutGroup (o : Operand) (m : SMap EBlock) (r c : Nat) : List SCell :=
  if o.shape.planar then
    let x := o.sub m (o.subOf r c)
    let t := x.1.getD default
    (List.range 32).map fun j => ⟨t.value (32 * (r % 16) + j), if t.full then none else some t.exp, x.2.any fun b => b.poison⟩
  else (List.range 32).map fun j =>
    let a := o.elemVa r (c + j)
    let b := blockAt m a
    let k := o.planes
    let v := sint 8 (if tagZ b.tag then 0 else ofBytes (b.at a 1))
    let e := tagScale b.tag + 7 - k
    ⟨(ofIntV (2 * (v / ((2 ^ (8 - k) : Nat) : Int)) + 1)).scale e, some e, b.poison⟩

/-- The Q operand (pair 0) or the K operand (pair 1) of batch `n`. -/
def scoutOperand (c : Cmd) (b : List Byte) (pair n : Nat) : Operand :=
  ⟨(c.shape pair).moved (n * fieldInt b (96 + 8 * pair)), scoutKS b⟩

/-- Rows of tile `t` of an operand. -/
def tileRows (h : Shape) (t : Nat) : Nat := min 128 (h.rows - 128 * t)

def scoutGroups (h : Shape) (t : Nat) : List (Nat × Nat) :=
  (List.range (tileRows h t)).flatMap fun i => (List.range (h.cols / 32)).map fun g => (128 * t + i, 32 * g)

/-- The rows of a tile by group. -/
def scoutRows (o : Operand) (m : SMap EBlock) (t : Nat) : List (List (List SCell)) :=
  (List.range (tileRows o.shape t)).map fun i => (List.range (o.shape.cols / 32)).map fun g => o.scoutGroup m (128 * t + i) (32 * g)

/-! Scores and bounds (10 R312 R313). -/

/-- A value rounded to f32 in a direction: 2 toward +Inf, 3 toward -Inf. -/
def roundDir (rm : Nat) : FVal → Nat
  | .nan _ => f32.nan
  | .inf n => f32.inf n
  | .fin n m e => (f32.round rm n m e false).1

/-- The exact score of a query row and a key row. -/
def exactScore (scale : Nat) (q k : List (List SCell)) : FVal :=
  prodV (f32.decode scale) (sumV ((q.flatten.zip k.flatten).map fun x => prodV x.1.val x.2.val))

def FVal.abs : FVal → FVal
  | .fin _ m e => .fin false m e
  | v => v

def greatest (l : List FVal) : FVal := l.foldl (fun a v => if a.lt v then v else a) (.fin false 0 0)

/-- H and N of a column group over some rows. -/
def boundTerms (rows : List (List (List SCell))) (g : Nat) : FVal × FVal :=
  let gs := rows.map fun r => r.getD g []
  (greatest (gs.flatten.map fun x => match x.half with | some e => .fin false 1 e | none => .fin false 0 0),
   greatest (gs.map fun x => sumV (x.map fun y => FVal.abs y.val)))

/-- E(q, t). -/
def scoutBound (scale : Nat) (qs ks : List (List (List SCell))) (groups : Nat) : Nat :=
  roundDir 2 (prodV (f32.decode scale) (sumV ((List.range groups).flatMap fun g =>
    let q := boundTerms qs g
    let k := boundTerms ks g
    [prodV q.2 k.1, prodV k.2 q.1, prodV (.fin false 32 0) (prodV q.1 k.1)])))

/-! The beginning of a pass (10 R311 R314 R323). -/

/-- The lowest far page of the K rows of tile `t`. -/
def scoutFar (c : Cmd) (b : List Byte) (n t : Nat) (s : State) : Act Bool :=
  ((scoutOperand c b 1 n).locs (scoutAgent s b true) (scoutGroups (c.shape 1) t) s).map fun l => (lowestFar l).isSome

/-- The tile has a mask bit of 1 and a pair that is not excluded. -/
def wanted (c : Cmd) (s : State) (t : Nat) : Bool :=
  let w := s.work 1
  bitAt (sget w.rows 0 (5000 + t / 64)) (t % 64) && (scoutExcl c w.prm).anyPair (scoutPos s).q t

/-- Marks the skipped tiles among those that a stopped pass had passed. -/
def markSkipped (c : Cmd) (b : List Byte) (n : Nat) : List Nat → State → Act State
  | [], s => .ok s s
  | t :: r, s =>
    if wanted c s t then
      (scoutFar c b n t s).bind fun far s =>
        markSkipped c b n r (if far then s.modWork 1 fun w => { w with rows := sput w.rows (6000 + t) 2 } else s)
    else markSkipped c b n r s

/-- A row's state at the start of a pass: M = -Inf, EM = +0. -/
def freshMax : Word := BitVec.ofNat 64 0xFF800000
def wsRow (b : List Byte) (i : Nat) : Word := fw b 72 + BitVec.ofNat 64 (8 * i)
/-- Where D and U of row `i`, and E, stand for key tile `t`. -/
def wsScore (b : List Byte) (t i : Nat) : Word := fw b 72 + BitVec.ofNat 64 (17408 + 1024 * t + 8 * i)
def wsBound (b : List Byte) (t : Nat) : Word := fw b 72 + BitVec.ofNat 64 (1024 + 4 * t)

def skippedTile (s : State) (t : Nat) : Bool := (sfind (s.work 1).rows (6000 + t)).isSome

/-- Tiles from `lo` on whose K rows are needed: considered tiles, and under EBOUND every tile that is not skipped. -/
def needed (c : Cmd) (lo : Nat) (s : State) : List Nat :=
  let b := (s.work 1).prm
  (List.range (scoutTk c b)).filter fun t => decide (lo ≤ t) && !skippedTile s t &&
    (wanted c s t || (scoutOp c.instr == .sscore && field b 80 8 != 0))

/-- What EM(i) is without a poisoned block: the bound of the tile that set M(i), from the stored values. -/
def boundOf (b : List Byte) (m : SMap EBlock) (ts : List Nat) (i M : Nat) : Nat :=
  let rd := fun a => ofBytes ((blockAt m a).at a 4)
  if M = f32.inf true then 0
  else match ts.find? fun t => rd (wsScore b t i) == M with
    | some t => rd (wsBound b t)
    | none => f32.inf false

/-- Reloads the row state of a pass that was stopped in sweep 1 (10 R323). An EM(i) of +Inf that no bound explains is that of a
pass that met poison (10 R314; log 114). -/
def reloadRows (c : Cmd) (b : List Byte) (p : ScoutPos) (s : State) : Act State :=
  let is := List.range (tileRows (c.shape 0) p.q)
  let ts := (needed c 0 s).filter fun t => decide (t < p.t)
  (readBlocks (scoutAgent s b false) 2 c.pc (fun _ => 0)
    (is.map (wsRow b) ++ ts.map (wsBound b) ++ ts.flatMap fun t => is.map (wsScore b t)) s).bind fun m s =>
    let rs := is.map fun i => (i, BitVec.ofNat 64 (ofBytes ((blockAt m (wsRow b i)).at (wsRow b i) 8)))
    let bad := rs.any fun r => bits r.2 32 32 == f32.inf false && boundOf b m ts r.1 (bits r.2 0 32) != f32.inf false
    let t := s.modWork 1 fun w => { w with rows := rs.foldl (fun (m : SMap Word) r => sput m r.1 r.2) w.rows, poison := bad }
    .ok t t

/-- A pass of SCOUT, or a query tile of SSCORE, begins or is resumed. -/
def beginPass (c : Cmd) (b : List Byte) (s : State) : Act State :=
  let p := scoutPos s
  let tk := scoutTk c b
  let mask : Act (List Nat) := if field b 56 8 = 0 then .ok (List.replicate (maskWords tk) (2 ^ 64 - 1)) s
    else (readMask (scoutAgent s b false) 2 (fw b 56) p.q tk s).map Prod.fst
  mask.bind fun ws s =>
    let s := s.modWork 1 fun w => { w with rows := ws.zipIdx.foldl (fun (m : SMap Word) x => sput m (5000 + x.2) (BitVec.ofNat 64 x.1)) [], poison := false }
    let resumed := scoutOp c.instr = .scout ∧ (p.sweep = 2 ∨ p.t ≠ 0)
    let skips := if field b 1 1 = 1 then List.range (if p.sweep = 2 then tk else p.t) else []
    (if resumed then markSkipped c b p.b skips s else .ok s s).bind fun _ s =>
      let is := List.range (tileRows (c.shape 0) p.q)
      if resumed ∧ p.sweep = 1 then (reloadRows c b p s).bind fun s _ => let t := s.setMark 1 4 1; .ok t t
      else
        let s := s.modWork 1 fun w => { w with rows := is.foldl (fun (m : SMap Word) i => sput m i freshMax) w.rows }
        let t := s.setMark 1 4 1
        .ok t t

/-! Phase fetches. -/

def scoutUnit (c : Cmd) (b : List Byte) (p : ScoutPos) (t : Nat) : Nat := (p.b * scoutTq c b + p.q) * scoutTk c b + t

def scoutRead (c : Cmd) (ph : Phase) (s : State) : Act (SMap EBlock) :=
  let b := (s.work 1).prm
  let p := scoutPos s
  (scoutOperand c b ph.pair p.b).fetch (scoutAgent s b (ph.pair == 1)) 1 c
    (scoutGroups (c.shape ph.pair) (if ph.pair = 0 then p.q else ph.unit % scoutTk c b)) s

/-- The command is past its last unit. The block of a complete SCOUT shows its last pass, past the last key tile of sweep 2, and that
of a complete SSCORE its last query tile in the same way (10 R321; log 115). -/
def scoutOver (c : Cmd) (b : List Byte) (p : ScoutPos) : Bool :=
  match scoutOp c.instr with
  | .scout => p.sweep == 2 && decide (scoutTk c b ≤ p.t)
  | .sscore => decide (scoutTk c b ≤ p.t)
  | _ => decide (scoutTq c b ≤ p.q)

/-- The next phase of SCOUT or SSCORE: the pass begins first; under SKIP a far tile is skipped (10 R317). -/
def scoutFetch (c : Cmd) (s : State) : EngEnds :=
  let w := s.work 1
  let b := w.prm
  let p := scoutPos s
  if !(scoutOp c.instr).array ∨ scoutOver c b p ∨ w.stopReq ≠ 0 ∨ w.deferred.isSome then .next s
  else if s.mark 1 4 = 0 then (beginPass c b s).eng 1 c .read fun t _ => .next t
  else if p.sweep = 2 then .next s
  else
    let held := fun pair => w.phases.filter fun x => x.pair == pair
    let from_ := match (held 1).getLast? with | some x => x.unit % scoutTk c b + 1 | none => p.t
    if (held 0).isEmpty ∧ !(needed c p.t s).isEmpty then
      fetchPhase 1 0 (field b 2 1) (field b 3 1) (s.phaseBit 1 0) (scoutUnit c b p 0) s
    else match (needed c from_ s).head? with
      | none => .next s
      | some t =>
        let get := fun s => fetchPhase 1 1 (field b 4 1) (field b 5 1) (s.phaseBit 1 1) (scoutUnit c b p t) s
        if 2 ≤ (held 1).length then .next s
        else if field b 1 1 = 1 ∧ wanted c s t then
          (scoutFar c b p.b t s).eng 1 c .read fun far s =>
            if far then .next (s.modWork 1 fun w => { w with rows := sput w.rows (6000 + t) 1 }) else get s
        else get s

/-! Units of work. -/

/-- The scout command that may perform a unit. -/
def scoutReady (s : State) : Option Cmd :=
  match s.engineReady 1 with
  | some c => if (s.work 1).goesOn ∧ !scoutOver c (s.work 1).prm (scoutPos s) then some c else none
  | none => none

/-- Writes elements and then moves the position. -/
def scoutWrite (c : Cmd) (es : List EElem) (adv : State → State) (s : State) : EngEnds :=
  let ag := scoutAgent s (s.work 1).prm false
  (locateElems ag es s).eng 1 c .write fun ds s => commitUnit 1 c ag (ds.map fun x => writeElems .inherit x.1 x.2 s) adv s

/-- Skipped tiles below `hi` are counted in SKIPN (10 R317). -/
def countSkips (hi : Nat) (s : State) : State :=
  let new := (s.work 1).rows.filter fun x => decide (6000 ≤ x.1) && decide (x.1 < 6000 + hi) && x.2 == 1
  let s := s.setProg 1 6 (s.prog 1 6 + BitVec.ofNat 64 new.length)
  s.modWork 1 fun w => { w with rows := new.foldl (fun (m : SMap Word) x => sput m x.1 2) w.rows }

/-- The row states M(i) and EM(i) as they go to the workspace. -/
def rowElems (c : Cmd) (b : List Byte) (p : ScoutPos) (s : State) : List EElem :=
  (List.range (tileRows (c.shape 0) p.q)).map fun i => ⟨wsRow b i, b8 (sget (s.work 1).rows freshMax i), none, false⟩

/-- The row states are stored: no key tile is past them. -/
def rowsStored (s : State) : State := s.modWork 1 fun w => { w with mid := false }

/-- Stores the row state where a stop or a fault waits for it (10 R314 R322). A fault is then delivered. -/
def storeRows (c : Cmd) (b : List Byte) (p : ScoutPos) (s : State) : EngEnds :=
  scoutWrite c (rowElems c b p s) (fun s =>
    let s := rowsStored s
    match (s.work 1).deferred with
    | some f => faultNow 1 f.1 f.2 s
    | none => s) s

/-- An uncorrectable error in a workspace read (10 R325): the pass begins once more, and a second one is UE_SCRATCHPAD. -/
def workspaceError (c : Cmd) (b : List Byte) (p : ScoutPos) (s : State) : State :=
  let s := report s (some s.core.partOf) (dieOf s.core.id) Cause.ueScratchpad 1 (unitId s.core.id 2) false c.pc (fw b 72)
  if (s.work 1).errors = 0 then
    let s := dropPhases 1 s
    let s := s.modWork 1 fun w => { w with errors := 1, rows := w.rows.filter fun x => decide (5000 ≤ x.1), poison := false }
    setScoutPos { p with sweep := 1, t := 0 } s
  else faultHead 1 Cause.ueScratchpad (fw b 72) s

/-- One key tile of sweep 1 (10 R314). The row states stay in the engine until a stop or the end of the sweep. -/
def sweepOut (c : Cmd) (t : Nat) (pq pk : Phase) (s : State) : List EElem × (State → State) :=
  let w := s.work 1
  let b := w.prm
  let p := scoutPos s
  let x := scoutExcl c b
  let qs := scoutRows (scoutOperand c b 0 p.b) pq.blocks p.q
  let ks := scoutRows (scoutOperand c b 1 p.b) pk.blocks t
  let scale := field b 8 4
  let E := if field b 7 1 % 2 = 1 then 0 else scoutBound scale (qs.take (x.lq - 128 * p.q)) (ks.take (x.lk - 128 * t)) (scoutDk c / 32)
  let bad := (pq.blocks ++ pk.blocks).any fun y => y.2.poison
  let poison := w.poison || bad
  let res := qs.zipIdx.map fun q =>
    let js := (ks.zipIdx.filter fun k => !x.out (128 * p.q + q.2) (128 * t + k.2)).map fun k => exactScore scale q.1 k.1
    let smax := match js with | [] => FVal.inf true | v :: r => r.foldl (fun a v => if a.lt v then v else a) v
    let D := roundDir 3 smax
    let U := roundDir 2 smax
    let st := sget w.rows freshMax q.2
    let up := (f32.decode (bits st 0 32)).lt (f32.decode D)
    let M := if up then D else bits st 0 32
    let EM := if poison then f32.inf false else if up then E else bits st 32 32
    (q.2, D, U, word2 EM M)
  let es := (res.map fun r => (⟨wsScore b t r.1, toBytes 4 r.2.1 ++ toBytes 4 r.2.2.1, none, false⟩ : EElem)) ++
    [⟨wsBound b t, toBytes 4 E, none, false⟩]
  (es, fun s =>
    let s := if bad && !w.poison then s.consume 1 else s
    let s := s.modWork 1 fun w => { w with rows := res.foldl (fun (m : SMap Word) r => sput m r.1 r.2.2.2) w.rows, poison := poison, mid := true }
    setScoutPos { p with t := t + 1 } (countSkips (t + 1) (swapPhase 1 1 pk.unit s)))

/-- A phase of a pair is asked for and not yet filled. -/
def State.filling (s : State) (q pair : Nat) : Bool := (s.work q).phases.any fun x => x.pair == pair && !x.done

/-- SCOUT_SWEEP1_TILE: the next considered key tile, the end of sweep 1, or the row state for a stop. `ue`: an uncorrectable error, 0 in
the row state that a resumed pass reads back (10 R325), k + 1 in the tile of phase k (08 R270). -/
def execScoutSweep1Tile (ue : Option Nat) (s : State) : EngEnds :=
  match scoutReady s with
  | none => .next s
  | some c =>
    let b := (s.work 1).prm
    let p := scoutPos s
    if scoutOp c.instr ≠ .scout ∨ p.sweep ≠ 1 then .next s
    else if s.mark 1 4 = 0 then .next (if ue = some 0 ∧ p.t ≠ 0 then workspaceError c b p s else s)
    else match ue with
    | some (k + 1) => .next (if (s.work 1).deferred.isSome then s else strikeTile 1 k c s)
    | some 0 => .next s
    | none =>
      if (s.work 1).mid ∧ ((s.work 1).stopReq ≠ 0 ∨ (s.work 1).deferred.isSome) then storeRows c b p s
      else match needed c p.t s with
      | [] =>
        if s.filling 1 0 then .next s else
        scoutWrite c (rowElems c b p s) (fun s =>
          setScoutPos { p with sweep := 2, t := 0 } (countSkips (scoutTk c b) (swapPhase 1 0 (scoutUnit c b p 0) (rowsStored s)))) s
      | t :: _ =>
        match s.phaseOf 1 0 (scoutUnit c b p 0), s.phaseOf 1 1 (scoutUnit c b p t) with
        | some pq, some pk => let o := sweepOut c t pq pk s; scoutWrite c o.1 o.2 s
        | _, _ => .next s

/-- Sweep 2's bit of a tile (10 R315), from the stored values: `rd` reads the f32 at an offset of the workspace. -/
def sweep2Bit (c : Cmd) (b : List Byte) (p : ScoutPos) (s : State) (rd : Nat → Nat) (t : Nat) : Bool :=
  let x := scoutExcl c b
  let cand := (List.range (scoutTk c b)).filter (wanted c s)
  if skippedTile s t then true
  else if !wanted c s t then false
  else if t < field b 88 1 ∨ (cand.reverse.take (field b 89 1)).contains t then true
  else
    let v := fun o => f32.decode (rd o)
    (List.range (tileRows (c.shape 0) p.q)).any fun i =>
      ((List.range 128).any fun j => !x.out (128 * p.q + i) (128 * t + j)) &&
      let l := f32.decode (roundDir 2 (sumV [v (17408 + 1024 * t + 8 * i + 4), v (1024 + 4 * t)]))
      let r := f32.decode (roundDir 3 (sumV [v (8 * i), (v (8 * i + 4)).neg, (f32.decode (field b 12 4)).neg]))
      !l.lt r && !l.isNan && !r.isNan

/-- The words of a mask row from its bits. -/
def bitsWords (tk : Nat) (f : Nat → Bool) : List Nat :=
  (List.range (maskWords tk)).map fun w => ((List.range 64).map fun k => if decide (64 * w + k < tk) && f (64 * w + k) then 2 ^ k else 0).sum

/-- The elements of a mask row: family raw (10 R320). -/
def maskElems (base : Word) (row tk : Nat) (ws : List Nat) (poison : List Bool) : List EElem :=
  ws.zipIdx.map fun w => ⟨base + BitVec.ofNat 64 (8 * (row * maskWords tk + w.2)), toBytes 8 w.1, none, poison.getD w.2 false⟩

def popWords (ws : List Nat) : Nat := (ws.map fun w => ((List.range 64).filter fun k => w / 2 ^ k % 2 = 1).length).sum

/-- SCOUT_SWEEP2: every key tile of the pass is decided and the mask row written (10 R315). `ue`: an uncorrectable error in a
workspace read (10 R325). -/
def execScoutSweep2 (ue : Bool) (s : State) : EngEnds :=
  match scoutReady s with
  | none => .next s
  | some c =>
    let b := (s.work 1).prm
    let p := scoutPos s
    let tk := scoutTk c b
    let ag := scoutAgent s b false
    if scoutOp c.instr ≠ .scout ∨ p.sweep ≠ 2 ∨ s.mark 1 4 = 0 then .next s
    else if ue then .next (workspaceError c b p s)
    else
      (readBlocks ag 2 c.pc (fun _ => 0) ((List.range (wsBytes tk / 64)).map fun k => fw b 72 + BitVec.ofNat 64 (64 * k)) s).eng 1 c .read fun m s =>
        let rd := fun o => let a := fw b 72 + BitVec.ofNat 64 o; ofBytes ((blockAt m a).at a 4)
        let new := bitsWords tk (sweep2Bit c b p s rd)
        let old : Act (List Nat) := if p.b = 0 then .ok [] s else (readMaskRow ag 2 (fw b 48) p.q tk s).map Prod.fst
        old.eng 1 c .read fun prev s =>
          let ws := new.zipIdx.map fun w => Nat.lor w.1 (prev.getD w.2 0)
          scoutWrite c (maskElems (fw b 48) p.q tk ws []) (fun s =>
            let last := decide (p.b + 1 = field b 92 4)
            let s := if last then s.setProg 1 5 (s.prog 1 5 + BitVec.ofNat 64 (popWords ws)) else s
            let s := (s.setMark 1 4 0).modWork 1 fun w => { w with errors := 0, rows := [], poison := false }
            setScoutPos (if !last then ⟨p.q, p.b + 1, 1, 0⟩ else if p.q + 1 < scoutTq c b then ⟨p.q + 1, 0, 1, 0⟩ else ⟨p.q, p.b, 2, tk⟩) s) s

/-! SSCORE (10 R318). -/

/-- The scores of one tile pair; without phases every score is that of an excluded key or of a skipped tile. -/
def scoreElems (c : Cmd) (b : List Byte) (p : ScoutPos) (ph : Option (Phase × Phase)) (s : State) : List EElem × Counts :=
  let x := scoutExcl c b
  let S := (c.shape 2).moved (p.b * fieldInt b 112)
  let nk := scoutNK c b
  let qs := match ph with | some z => scoutRows (scoutOperand c b 0 p.b) z.1.blocks p.q | none => []
  let ks := match ph with | some z => scoutRows (scoutOperand c b 1 p.b) z.2.blocks p.t | none => []
  let cells := (List.range (tileRows (c.shape 0) p.q)).flatMap fun i => (List.range (tileRows (c.shape 1) p.t)).map fun j => (i, j)
  let bad := fun (r : List (List SCell)) => r.any fun g => g.any fun e => e.poison
  let rs := cells.map fun z =>
    let dst := S.addrOf ((128 * p.q + z.1) * nk + (128 * p.t + z.2))
    if skippedTile s p.t then ((⟨dst, toBytes 4 f32.nan, some f32Tag, false⟩ : EElem), zeroCounts)
    else if !wanted c s p.t || x.out (128 * p.q + z.1) (128 * p.t + z.2) then (⟨dst, toBytes 4 (f32.inf true), some f32Tag, false⟩, zeroCounts)
    else
      let r := f32.rne (exactScore (field b 8 4) (qs.getD z.1 []) (ks.getD z.2 []))
      (⟨dst, toBytes 4 r.1, some f32Tag, bad (qs.getD z.1 []) || bad (ks.getD z.2 [])⟩, countOf f32 r.1 r.2)
  (rs.map Prod.fst, sumCounts (rs.map Prod.snd))

/-- The bound that EBOUND receives, poisoned by the blocks that reach it (10 R325); of a skipped tile it is a value that nothing states (log 36). -/
def boundElem (c : Cmd) (b : List Byte) (p : ScoutPos) (ph : Option (Phase × Phase)) (s : State) : List EElem :=
  if field b 80 8 = 0 then [] else
  let x := scoutExcl c b
  let v : Nat × Bool := match ph with
    | some z =>
      let qs := (scoutRows (scoutOperand c b 0 p.b) z.1.blocks p.q).take (x.lq - 128 * p.q)
      let ks := (scoutRows (scoutOperand c b 1 p.b) z.2.blocks p.t).take (x.lk - 128 * p.t)
      (scoutBound (field b 8 4) qs ks (scoutDk c / 32), (qs ++ ks).any fun r => r.any fun g => g.any SCell.poison)
    | none => ((Config.freeWord s.free).toNat % 2 ^ 32, false)
  [⟨fw b 80 + BitVec.ofNat 64 (4 * ((p.b * scoutTq c b + p.q) * scoutTk c b + p.t)), toBytes 4 v.1, none, v.2⟩]

/-- What a tile pair of SSCORE writes and how the position then moves. -/
def scoreOut (c : Cmd) (b : List Byte) (p : ScoutPos) (ph : Option (Phase × Phase)) (s : State) : List EElem × (State → State) :=
  let r := scoreElems c b p ph s
  let es := r.1 ++ boundElem c b p ph s
  (es, fun s =>
    let s := if es.any EElem.poison then s.consume 1 else s
    let s := { (countSkips (p.t + 1) (s.addCounts 1 r.2)) with free := s.free + 1 }
    let s := match ph with | some z => swapPhase 1 1 z.2.unit s | none => s
    if p.t + 1 < scoutTk c b then setScoutPos { p with t := p.t + 1 } s
    else
      let s := (swapPhase 1 0 (scoutUnit c b p 0) s).setMark 1 4 0
      setScoutPos (if p.q + 1 < scoutTq c b then ⟨p.q + 1, p.b, 0, 0⟩ else if p.b + 1 < field b 92 4 then ⟨0, p.b + 1, 0, 0⟩
        else ⟨p.q, p.b, 0, p.t + 1⟩) s)

def scoreTile (c : Cmd) (b : List Byte) (p : ScoutPos) (ph : Option (Phase × Phase)) (s : State) : EngEnds :=
  let o := scoreOut c b p ph s
  scoutWrite c o.1 o.2 s

/-- SSCORE_TILE: the scores of the next key tile. `ue`: an error in the tile of that phase. -/
def execSscoreTile (ue : Option Nat) (s : State) : EngEnds :=
  match scoutReady s with
  | none => .next s
  | some c =>
    let b := (s.work 1).prm
    let p := scoutPos s
    if scoutOp c.instr ≠ .sscore ∨ s.mark 1 4 = 0 then .next s
    else match ue with
    | some k => .next (strikeTile 1 k c s)
    | none =>
      if (needed c p.t s).contains p.t then
        match s.phaseOf 1 0 (scoutUnit c b p 0), s.phaseOf 1 1 (scoutUnit c b p p.t) with
        | some pq, some pk => scoreTile c b p (some (pq, pk)) s
        | _, _ => .next s
      else if scoutTk c b ≤ p.t + 1 ∧ s.filling 1 0 then .next s
      else scoreTile c b p none s

/-! SWIN and SMASK (10 R319 R320). -/

/-- The two masks combined. -/
def maskOp (sop x y : Nat) : Nat := match sop with | 0 => Nat.land x y | 1 => Nat.lor x y | _ => x - Nat.land x y

/-- MASK_ROW: one mask row of SWIN or SMASK. -/
def execMaskRow (s : State) : EngEnds :=
  match scoutReady s with
  | none => .next s
  | some c =>
    let b := (s.work 1).prm
    let p := scoutPos s
    let tk := scoutTk c b
    let ag := scoutAgent s b false
    let done := fun (bad : Bool) (s : State) => setScoutPos { p with q := p.q + 1 } (if bad then s.consume 1 else s)
    match scoutOp c.instr with
    | .swin => scoutWrite c (maskElems (fw b 48) p.q tk (bitsWords tk ((scoutExcl c b).anyPair p.q)) []) (done false) s
    | .smask =>
      (readMask ag 2 (fw b 56) p.q tk s).eng 1 c .read fun x s =>
        (readMask ag 2 (fw b 64) p.q tk s).eng 1 c .read fun y s =>
          let bad := (x.2.zip y.2).map fun z => z.1 || z.2
          scoutWrite c (maskElems (fw b 48) p.q tk ((x.1.zip y.1).map fun z => maskOp (field b 90 1) z.1 z.2) bad) (done (bad.contains true)) s
    | _ => .next s

end

end Sys2Proof.Machine
end

