-- ==== Sys2Proof/Machine/EngineIssue.lean ====
section
/-! DEFINITION. The E slot: how a macro-instruction becomes a command in a queue (01 R24 to R33, 02 R60, 04 R138 R140, 12
R381). -/

namespace Sys2Proof.Machine

noncomputable section

/-- The bytes of a command's record as they stand. -/
def recordNow (s : State) (c : Cmd) : List Byte :=
  if pregOf c.instr = 0 then [] else (devRead (engineAgent s 2 false) c.preg 128 s).1

/-- The intervals of a scout command (10 R326). -/
def scoutBoxes (c : Cmd) (b : List Byte) : List Box :=
  let o := scoutOp c.instr
  let nb := field b 92 4
  let tq := scoutTq c b
  let tk := scoutTk c b
  let mask := fun (n : Nat) (wr : Bool) => let a := field b n 8; if a = 0 then [] else [Box.mk a (a + 8 * tq * maskWords tk) wr]
  let batch := fun (i n : Nat) (wr : Bool) => let x := (c.shape i).batchBox nb (fieldInt b n); Box.mk x.1 x.2 wr
  (if o.array then [batch 0 96 false, batch 1 104 false] else []) ++ (if o == .sscore then [batch 2 112 true] else []) ++
  mask 56 false ++ mask 64 false ++ mask 48 true ++
  (if o == .scout then [⟨field b 72 8, field b 72 8 + wsBytes tk, true⟩] else []) ++
  (if field b 80 8 = 0 then [] else [⟨field b 80 8, field b 80 8 + 4 * nb * tq * tk, true⟩])

/-- The intervals of a command with those its record names (01 R32, 09 R279, 10 R326). -/
def intervals (s : State) (c : Cmd) : List Box :=
  let both := fun (x : List (Nat × Nat) × List (Nat × Nat)) => x.1.map (fun a => Box.mk a.1 a.2 false) ++ x.2.map fun a => Box.mk a.1 a.2 true
  match c.instr with
  | .mgemm .. | .mgemms .. | .mconv .. => both (gemmBoxes c (recordNow s c))
  | .mattn .. => both (attnBoxes c (recordNow s c))
  | .scout .. | .swin .. | .smask .. | .sscore .. => scoutBoxes c (recordNow s c)
  | i => cmdBoxes s i c.preg c.shapes

/-- The queues whose places an operation needs (01 R25, 04 R140). -/
def targets : Instr → List Nat
  | .etrel _ _ _ e => [e.val]
  | i => if engineCode i < 6 then [engineCode i] else (List.range 5).filter fun q => markerMask i / 2 ^ q % 2 == 1

/-- No place in a queue or in the interval table (01 R25). -/
def noPlace (i : Instr) (s : State) : Bool :=
  ((targets i).any fun q => decide (16 ≤ s.core.eng.depth q)) || (decide (engineCode i < 5) && decide (32 ≤ s.core.eng.commands.length))

/-- Exchanges the active and shadow copies named by a swap mask (01 R30). -/
def swapShapes (m : Nat) (s : State) : State :=
  s.modR fun r => (List.range 4).foldl (fun (r : Regs) k =>
    if m / 2 ^ k % 2 = 1 then
      { r with shA := vset r.shA k (r.shS.toList.getD k zeroShape), shS := vset r.shS k (r.shA.toList.getD k zeroShape) }
    else r) r

/-- The command of an operation, with what it captures at issue. -/
def newCmd (i : Instr) (s : State) : Cmd :=
  let shapes := (shapeFields i).map fun x => s.core.r.shA.get x.2
  let c : Cmd :=
    { instr := i, seq := s.core.eng.nextSeq, win := s.core.r.sr.win, mode := s.core.mode, pc := s.core.iss.pc,
      preg := s.x (pregOf i), shapes := shapes, boxes := [], tiles := cmdTiles s i (s.x (pregOf i)) shapes, committed := false,
      running := false, started := false, resume := resumeBit i, faulted := false, mismatch := false, errors := 0 }
  { c with boxes := if engineCode i < 5 then intervals s c else [] }

/-- Puts a command into its queue; markers that stand in several queues are kept once. Its commit has its place in the window. -/
def enqueue (c : Cmd) (s : State) : State :=
  (s.modWin fun w => { w with held := w.held ++ [.command c.seq] }).modEng fun g =>
    let g := match c.instr with
      | .etrel _ _ _ e => g.setQueue e.val (g.queue e.val ++ [c])
      | i => if engineCode i < 6 then g.setQueue (engineCode i) (g.queue (engineCode i) ++ [c]) else { g with signals := g.signals ++ [c] }
    { g with nextSeq := g.nextSeq + 1 }

/-- Every E-slot operation (02 R60): it waits for a place, swaps, captures, and enters its queue. -/
def issueCmd (i : Instr) (s : State) : Ends :=
  slotOp i s fun s =>
    if noPlace i s then stallOut s else
    let s := swapShapes (swapOf i).val s
    .next (enqueue (newCmd i s) s)

/-- The MARK entry of a LOGMARK (12 R381): part of its window's entries in MEM and FULL, unless its unit performs none (14 R439). -/
def markEntry (p : Fin 64) (code : Fin 256) (s : State) : State :=
  if s.logOn 1 && !s.unitHeld then s.modWin fun w => { w with
    held := w.held ++ [.entry Ent.mark false s.core.iss.pc s.core.iss.slot.val (n8 code.val ++ b8 (s.x p))] } else s

def execMgemm (g : Fin 8) (sa sb sc : Fin 4) (sw : Fin 16) (p : Fin 64) (r : Fin 2) (acc : Fin 2) (s : State) : Ends := issueCmd (.mgemm g sa sb sc sw p r acc) s
def execMgemms (g : Fin 8) (sa sb sc : Fin 4) (sw : Fin 16) (p : Fin 64) (r : Fin 2) (acc : Fin 2) (s : State) : Ends := issueCmd (.mgemms g sa sb sc sw p r acc) s
def execMconv (g : Fin 8) (sa sb sc : Fin 4) (sw : Fin 16) (p : Fin 64) (r : Fin 2) (acc : Fin 2) (s : State) : Ends := issueCmd (.mconv g sa sb sc sw p r acc) s
def execMattn (g : Fin 8) (sa sb sc : Fin 4) (sw : Fin 16) (p : Fin 64) (r : Fin 2) (v : Fin 4) (fin : Fin 2) (s : State) : Ends := issueCmd (.mattn g sa sb sc sw p r v fin) s
def execScout (g : Fin 8) (sa sb : Fin 4) (sw : Fin 16) (p : Fin 64) (r : Fin 2) (s : State) : Ends := issueCmd (.scout g sa sb sw p r) s
def execSwin (g : Fin 8) (sw : Fin 16) (p : Fin 64) (r : Fin 2) (s : State) : Ends := issueCmd (.swin g sw p r) s
def execSmask (g : Fin 8) (sw : Fin 16) (p : Fin 64) (r : Fin 2) (s : State) : Ends := issueCmd (.smask g sw p r) s
def execSscore (g : Fin 8) (sa sb sc : Fin 4) (sw : Fin 16) (p : Fin 64) (r : Fin 2) (s : State) : Ends := issueCmd (.sscore g sa sb sc sw p r) s
def execCcopy (g : Fin 8) (sa sc : Fin 4) (sw : Fin 16) (p : Fin 64) (r : Fin 2) (s : State) : Ends := issueCmd (.ccopy g sa sc sw p r) s
def execCgather (g : Fin 8) (sa sb sc : Fin 4) (sw : Fin 16) (p : Fin 64) (r : Fin 2) (s : State) : Ends := issueCmd (.cgather g sa sb sc sw p r) s
def execCscatter (g : Fin 8) (sa sb sc : Fin 4) (sw : Fin 16) (p : Fin 64) (r : Fin 2) (s : State) : Ends := issueCmd (.cscatter g sa sb sc sw p r) s
def execCfill (g : Fin 8) (sc : Fin 4) (sw : Fin 16) (p : Fin 64) (r : Fin 2) (s : State) : Ends := issueCmd (.cfill g sc sw p r) s
def execCtrans (g : Fin 8) (sa sc : Fin 4) (sw : Fin 16) (p : Fin 64) (r : Fin 2) (s : State) : Ends := issueCmd (.ctrans g sa sc sw p r) s
def execCplane (g : Fin 8) (sa sc : Fin 4) (sw : Fin 16) (p : Fin 64) (r : Fin 2) (s : State) : Ends := issueCmd (.cplane g sa sc sw p r) s
def execCflat (g : Fin 8) (sa sc : Fin 4) (sw : Fin 16) (p : Fin 64) (r : Fin 2) (s : State) : Ends := issueCmd (.cflat g sa sc sw p r) s
def execCpagein (g : Fin 8) (sw : Fin 16) (p : Fin 64) (r : Fin 2) (s : State) : Ends := issueCmd (.cpagein g sw p r) s
def execCmigrate (g : Fin 8) (sw : Fin 16) (p : Fin 64) (r : Fin 2) (s : State) : Ends := issueCmd (.cmigrate g sw p r) s
def execCtags (g : Fin 8) (sw : Fin 16) (p : Fin 64) (r : Fin 2) (s : State) : Ends := issueCmd (.ctags g sw p r) s
def execVsort (g : Fin 8) (sa sb sc : Fin 4) (sw : Fin 16) (p : Fin 64) (r : Fin 2) (s : State) : Ends := issueCmd (.vsort g sa sb sc sw p r) s
def execVsoftmax (g : Fin 8) (sa sb sc : Fin 4) (sw : Fin 16) (p : Fin 64) (r : Fin 2) (s : State) : Ends := issueCmd (.vsoftmax g sa sb sc sw p r) s
def execVnorm (g : Fin 8) (sa sb sc : Fin 4) (sw : Fin 16) (p : Fin 64) (r : Fin 2) (s : State) : Ends := issueCmd (.vnorm g sa sb sc sw p r) s
def execVreduce (g : Fin 8) (sa sb sc : Fin 4) (sw : Fin 16) (p : Fin 64) (r : Fin 2) (s : State) : Ends := issueCmd (.vreduce g sa sb sc sw p r) s
def execAllred (g : Fin 8) (sa sc : Fin 4) (sw : Fin 16) (p : Fin 64) (r : Fin 2) (s : State) : Ends := issueCmd (.allred g sa sc sw p r) s
def execAllgath (g : Fin 8) (sa sc : Fin 4) (sw : Fin 16) (p : Fin 64) (r : Fin 2) (s : State) : Ends := issueCmd (.allgath g sa sc sw p r) s
def execRedscat (g : Fin 8) (sa sc : Fin 4) (sw : Fin 16) (p : Fin 64) (r : Fin 2) (s : State) : Ends := issueCmd (.redscat g sa sc sw p r) s
def execXbcast (g : Fin 8) (sa sc : Fin 4) (sw : Fin 16) (p : Fin 64) (r : Fin 2) (s : State) : Ends := issueCmd (.xbcast g sa sc sw p r) s
def execAlltoall (g : Fin 8) (sa sc : Fin 4) (sw : Fin 16) (p : Fin 64) (r : Fin 2) (s : State) : Ends := issueCmd (.alltoall g sa sc sw p r) s
def execXsend (g : Fin 8) (sa : Fin 4) (sw : Fin 16) (p : Fin 64) (r : Fin 2) (s : State) : Ends := issueCmd (.xsend g sa sw p r) s
def execXrecv (g : Fin 8) (sc : Fin 4) (sw : Fin 16) (p : Fin 64) (r : Fin 2) (s : State) : Ends := issueCmd (.xrecv g sc sw p r) s
/-- LOGMARK: with CHECK the comparison of 12 R380 is made at the commit. -/
def execLogmark (g : Fin 8) (sw : Fin 16) (p : Fin 64) (code : Fin 256) (chk : Fin 2) (s : State) : Ends :=
  let i := Instr.logmark g sw p code chk
  slotOp i s fun s =>
    if noPlace i s then stallOut s else
    let s := markEntry p code (swapShapes (swapOf i).val s)
    .next (enqueue (newCmd i s) s)
def execLogflush (g : Fin 8) (sw : Fin 16) (sc : Fin 5) (s : State) : Ends := issueCmd (.logflush g sw sc) s
def execQfence (g : Fin 8) (sw : Fin 16) (mask : Fin 32) (s : State) : Ends := issueCmd (.qfence g sw mask) s
def execEtrel (g : Fin 8) (sw : Fin 16) (t : Fin 64) (e : Fin 5) (s : State) : Ends := issueCmd (.etrel g sw t e) s
def execEcancel (g : Fin 8) (sw : Fin 16) (mask : Fin 32) (s : State) : Ends := issueCmd (.ecancel g sw mask) s
def execEsignal (g : Fin 8) (sw : Fin 16) (p : Fin 64) (mask : Fin 32) (sc : Fin 5) (s : State) : Ends := issueCmd (.esignal g sw p mask sc) s
def execEsignalAdd (g : Fin 8) (sw : Fin 16) (p : Fin 64) (mask : Fin 32) (sc : Fin 5) (s : State) : Ends := issueCmd (.esignalAdd g sw p mask sc) s

end

end Sys2Proof.Machine
end

