-- ==== Sys2Proof/Machine/EngineEvents.lean ====
section
/-! DEFINITION. What happens to commands beside their own steps: start, completion, stop, markers, phase fetches (01 R24 R27
R33 R35 R36, 04 R141 to R144, 08 R268 R269). -/

namespace Sys2Proof.Machine

noncomputable section

/-! Start (01 R24 R33 R35). -/

/-- The intervals of the committed commands that do not run, from the records as they stand (10 R326): also those of a command that
was stopped and is to resume. -/
def refreshBoxes (s : State) : State :=
  s.modEng fun g => { g with queues := g.queues.map fun l => l.map fun c =>
    if c.committed && !c.running && decide (engineCode c.instr < 5) then { c with boxes := intervals s c } else c }

/-- The checks and the first effects of a command that starts. -/
def startCmd (q : Nat) (c : Cmd) (s : State) : Act State :=
  match q with
  | 0 => if isGemm c.instr then startGemm c s else startAttn c s
  | 1 => startScout c s
  | 2 => startCopy c s
  | 3 => startVmacro c s
  | _ => startExch c s

/-- The head may be looked at: committed, and waiting to start or to resume. -/
def startable (q : Nat) (c : Cmd) (s : State) : Bool :=
  decide (q < 5) && c.committed && !c.running && !c.faulted && (!c.started || c.resume) && !isEtrel c.instr &&
  (s.core.eng.faults.toList.getD q none).isNone

/-- The record of a command and its size: what DIGEST covers (08 R264, 09 R297, 10 R321, 11 R346, 07 R240). -/
def recordSize (q : Nat) : Nat := if q ≤ 1 then 128 else 64

/-- The record of a command can be read. -/
def recordReadable (q : Nat) (c : Cmd) (s : State) : Bool :=
  pregOf c.instr == 0 || (c.preg.toNat % 8 == 0 && devMapped (engineAgent s 2 false) .read c.preg (recordSize q) s)

/-- The progress block of a command that starts, before its checks: the block describes it from its first word to its last, at its first
position. A reissue with R = 1 keeps the block that it resumes (01 R28, 08 R264, 09 R297, 10 R321, 11 R346). -/
def describeCmd (q : Nat) (c : Cmd) (s : State) : State :=
  if c.resume then s else
  let b := if pregOf c.instr = 0 then [] else (devRead (engineAgent s 2 false) c.preg (recordSize q) s).1
  let dig := digestOf b
  let shd := shapeDigest c.instr c.shapes (if q = 0 ∧ !isGemm c.instr then 4 else 3)
  let w2 := if q = 2 ∨ q = 3 then BitVec.ofNat 64 dig else word2 (if q = 4 then exchDigest c else shd) dig
  let base : List (Nat × Word) := (List.range 16).map fun i => (i, 0)
  let w0 := BitVec.ofNat 64 (opCode c.instr * 256 + 1 + (if q = 0 then immBits c.instr * 2 ^ 17 else 0))
  let s := s.setProgs q (base ++ [(0, w0), (1, c.pc), (2, w2)])
  if q = 2 then s.setProg 2 3 (BitVec.ofNat 64 shd)
  else if q = 1 ∧ scoutOp c.instr = .scout then s.setProg 1 4 (word2 1 0)
  else if q = 0 then s.setProg 0 6 (accloc b)
  else if q = 4 then s.setProgs 4 [(3, BitVec.ofNat 64 (crc32c (devRead (engineAgent s 2 false) (fw b 8) 32 s).1)), (4, xSeq b), (8, noPeer)]
  else s

/-- A command faults at its start. Its image says STARTED where its block describes it as it will be read again (14 R430). -/
def startFault (q : Nat) (c : Cmd) (cause : BitVec 8) (addr : Word) (s : State) : State :=
  let ok := c.started || c.resume || recordReadable q c s
  (faultHead q cause addr s).modHead q fun d => { d with started := d.started || ok }

/-- A reissue of an exchange command after the queue's last command completed, or before any, starts as with R = 0 (11 R348). -/
def asStarted (q : Nat) (c : Cmd) (s : State) : Cmd :=
  if q = 4 ∧ (s.progState 4 = 0 ∨ s.progState 4 = 3) then { c with resume := false } else c

/-- The block as it stood in `old`: it describes the command that started last, so a start that waits leaves it (09 R297, 11 R346). -/
def keepProg (q : Nat) (old s : State) : State := s.setProgs q ((List.range 16).map fun i => (i, old.prog q i))

/-- COMMAND_START: the head of queue `q` starts once nothing holds it (01 R24 R33 R35, 04 R141, 14 R439). -/
def execCommandStart (q : Fin 6) (s : State) : EngEnds :=
  match s.head q.val with
  | none => .next s
  | some c0 =>
    if !startable q.val c0 s then .next s else
    let s := refreshBoxes s
    let c := asStarted q.val ((s.head q.val).getD c0) s
    if s.core.eng.hazard c || s.core.eng.fenced q.val c then .next s
    else match tileFault s c with
      | some cause => .next (startFault q.val c cause 0 (describeCmd q.val c s))
      | none =>
        if s.core.hold q.val ≠ 0 then .next s
        else
          let old := s
          let s := describeCmd q.val c s
          if s.core.eng.disabled.getLsbD (q.val + 1) then .next (startFault q.val c Cause.quarantinedUnit 0 s)
          else match startCmd q.val c s with
            | .trap cause v t => .next (startFault q.val c cause v t)
            | .fault cause v t => .next (engineFault q.val c cause v .read (keepProg q.val old t))
            | .wait t => .next (keepProg q.val old t)
            | .ok t _ =>
              let t := if c.started then t else t.modTiles (onTiles Tile.start c.tiles)
              let t := (t.modHead q.val fun c => { c with running := true, started := true }).modWork q.val fun w => { w with errors := c.errors }
              .next (if q.val = 4 then takeHeld t else t)

/-! Completion and stop (01 R24, 14 R427). -/

/-- The running command has no work left. -/
def cmdDone (q : Nat) (c : Cmd) (s : State) : Bool :=
  match q with
  | 0 => matrixDone c s
  | 1 => scoutOver c (s.work 1).prm (scoutPos s)
  | 2 => decide ((s.prog 2 5).toNat ≤ (s.prog 2 4).toNat)
  | 3 => if isSort c.instr then decide ((sortOf (s.work 3).prm).passes < (sortPos s).p) else decide ((s.prog 3 8).toNat ≤ (s.prog 3 3).toNat)
  | _ => exchangeDone s

/-- COMMAND_COMPLETE (01 R24): the last write of the head of queue `q` is performed. -/
def execCommandComplete (q : Fin 6) (s : State) : EngEnds :=
  match s.engineReady q.val with
  | none => .next s
  | some c =>
    if q.val < 5 && !(s.work q.val).open_ && cmdDone q.val c s then
      let b := (s.work q.val).prm
      let s := completeCmd q.val s
      .next (if q.val = 4 then endExch c b s else s)
    else .next s

/-- ENGINE_STOP: a requested stop takes effect at a pre-emption point (09 R287, 14 R427); ECANCEL's removes the command (04
R143). -/
def execEngineStop (q : Fin 6) (s : State) : EngEnds :=
  if (s.runningCmd q.val).isSome && (s.work q.val).stopReq != 0 && !(s.work q.val).open_ then .next (endHead q.val s) else .next s

/-! Markers (04 R141 R142 R144). -/

/-- ETREL_AT_HEAD: the tile is released (01 R35 R36, 04 R142). -/
def execEtrelAtHead (q : Fin 6) (s : State) : EngEnds :=
  match s.head q.val with
  | none => .next s
  | some c =>
    match c.instr with
    | .etrel _ _ t _ =>
      let v := s.core.tiles.get t
      if !c.committed || c.started || c.faulted || s.core.ttPend.any (fun ch => ch.tile == t) || s.core.eng.fenced q.val c then .next s
      else if v.size = 0 then .next (faultHead q.val Cause.tileUndefined 0 s)
      else if v.state = .empty ∨ v.state = .filling ∨ (v.owner.toNat ≤ 4 ∧ v.owner.toNat ≠ q.val) then .next (faultHead q.val Cause.tileState 0 s)
      else .next ((s.modTiles fun w => w.set t v.release).dropHead q.val)
    | _ => .next s

/-- Every command that was issued before a marker into the queues it names is complete or cancelled. -/
def earlierDone (c : Cmd) (s : State) : Bool :=
  (targets c.instr).all fun q => (s.core.eng.queue q).all fun d => decide (c.seq ≤ d.seq)

def removeSignal (c : Cmd) (s : State) : State := s.modEng fun g => { g with signals := g.signals.filter fun d => d.seq != c.seq }

/-- QFENCE_RELEASE: the marker goes when every earlier command of its queues is complete (04 R141). -/
def execQfenceRelease (k : Nat) (s : State) : EngEnds :=
  match s.core.eng.signals[k]? with
  | none => .next s
  | some c => if isQfence c.instr && c.committed && earlierDone c s then .next (removeSignal c s) else .next s

/-- Mode and scope of an ESIGNAL: whether it adds, and the place of its scope. -/
def signalForm : Instr → Option (Bool × Nat)
  | .esignal _ _ _ _ sc => some (false, sc.val)
  | .esignalAdd _ _ _ _ sc => some (true, sc.val)
  | _ => none

/-- The end of an ESIGNAL's access: a fault is the strand's engine fault (04 R144), a resolvable one waits in place 5. -/
def Act.signal {α : Type} (a : Act α) (c : Cmd) (kind : AKind) (f : α → State → EngEnds) : EngEnds :=
  match a with
  | .ok v s => f v s
  | .trap cause v s => .next ((removeSignal c s).pendEvent cause v)
  | .fault cause v s => .next (engineFault 5 c cause v kind s)
  | .wait s => .next s

/-- A replayed signal that leaves the chip: its entry must be the next recorded one of its marker (12 R374). -/
def matchSignal (c : Cmd) (e : List LogEnt) (s : State) : State :=
  match s.core.replay with
  | none => s
  | some rp =>
    let body := ((e.map LogEnt.body).headD [])
    let differs := fun (w : Word) => { rp with diverged := some (rp.diverged.getD (c.pc, fw body 8, w, fw body 24)) }
    let rp := match tileRecords 6 c rp.used s with
      | [] => differs 0
      | r :: _ => if r.2.kind = Ent.irrev ∧ r.2.body.take 32 = body then { rp with used := rp.used ++ [r.1] } else differs (fw r.2.body 24)
    { s with core := { s.core with replay := some rp } }

/-- The write of an ESIGNAL (04 R144): wider than `core`, it comes after every store the strand made before. One to host memory at
system scope is irreversible (12 R367): its entry is appended first, as a store of the strand (12 R355), and a replay leaves the signal
out and compares its entry with the record (12 R374). A far block that it writes counts (04 R125). -/
def performSignal (c : Cmd) (ag : Agent) (va v : Word) (l : Loc) (irr : Bool) (s : State) : EngEnds :=
  let write := fun (s : State) => match performRun ag none l.key (b8 v) (if ag.scope = 0 then s else s.releaseL1) with
    | (false, s) => Host.Outcome.next s
    | (true, s) => .next (removeSignal c (if l.far then s.countFar (dieOf ag.core) ag.part va 1 else s))
  let e : List LogEnt :=
    [{ kind := Ent.irrev, flags := 2, src := 6 + 8 * 6, win := c.win, pc := c.pc,
       body := n8 4 ++ b8 va ++ n8 8 ++ n8 (crc32c (b8 v)) }]
  if !irr then write s
  else if s.core.replay.isSome then .next (removeSignal c (matchSignal c e s))
  else if bits s.core.log.mode 0 2 = 0 then write s
  else match markDirtyKey s ag.part l.key with
    | (false, s) => .next s
    | (true, s) => match logReady e s with
      | (none, s) => write (e.foldl logAppend s)
      | (some (.trap cause a), s) => .next ((removeSignal c s).pendEvent cause a)
      | (some (.fault cause a), s) => .next (appendFault cause a s)
      | (some .blocked, s) => .next s

/-- ESIGNAL_PERFORM: the signal's store or atomic add (04 R144). -/
def execEsignalPerform (k : Nat) (s : State) : EngEnds :=
  match s.core.eng.signals[k]? with
  | none => .next s
  | some c =>
    match signalForm c.instr with
    | none => .next s
    | some (add, scope) =>
      if !c.committed || !earlierDone c s || (s.core.eng.faults.toList.getD 5 none).isSome then .next s
      else if pregOf c.instr = 0 then .next ((removeSignal c s).pendEvent Cause.paramRecord 0)
      else
        let ag := engineAgent s scope false
        (readDirect ag c.preg 16 s (unit := 6)).signal c .read fun r s =>
          let s := consumePieces r s
          let va := fw (bytesOf r) 0
          let v := fw (bytesOf r) 8
          if va.toNat % 8 ≠ 0 then .next ((removeSignal c s).pendEvent Cause.align va) else
          (locate ag (if add then .atomic else .write) true va s).signal c (if add then .atomic else .write) fun l s =>
            if add && atomicScopeBad scope va l.far then .next ((removeSignal c s).pendEvent Cause.atomicScope va) else
            if add && s.poisonAt l.key then .next ((removeSignal c (s.reportFar 6 c.pc va l)).pendEvent Cause.poisonTrap va) else
            performSignal c ag va (if add then BitVec.ofNat 64 (s.peekNat l.key 8) + v else v) l (decide (scope = 4) && isHost l.key) s

/-! Phase fetches (08 R268 R269). -/

/-- PHASE_FETCH: a sequencer asks the copy engine for its next phase (08 R268). -/
def execPhaseFetch (q : Fin 6) (s : State) : EngEnds :=
  match s.engineReady q.val with
  | none => .next s
  | some c =>
    match q.val with
    | 0 => if isGemm c.instr then gemmFetch c s else attnFetch c s
    | 1 => scoutFetch c s
    | 3 => vmacroFetch s
    | _ => .next s

/-- PHASE_FETCH_DONE: the oldest phase of engine `q` is filled (08 R269). `ue`: an uncorrectable error in it (08 R270). -/
def execPhaseFetchDone (q : Fin 6) (ue : Option ReadError) (s : State) : EngEnds :=
  match s.engineReady q.val, s.fetching q.val with
  | some c, some ph =>
    match q.val with
    | 0 => completePhase 0 c ph ue (if isGemm c.instr then gemmRead c ph else attnRead c ph) s
    | 1 => if (s.work 1).deferred.isSome then .next s else completePhase 1 c ph ue (scoutRead c ph) s
    | 3 => if ph.unit = vmacroUnit c s then completePhase 3 c ph ue (vmacroRead c ph) s else .next s
    | _ => .next s
  | _, _ => .next s

end

end Sys2Proof.Machine
end

