-- ==== Sys2Proof/Machine/Links.lean ====
section
/-! DEFINITION. The Dyset links: flit sequence numbers, retries, port states (11 R344, 15 R447 R448 R449). -/

namespace Sys2Proof.Machine

noncomputable section

/-- A change of a port's state sets FWEVENT bit 4 of its die (15 R449). -/
def setPort (port : Nat) (st : Fin 3) (s : State) : State :=
  if (s.port port).state = st then s
  else (s.modPort port fun p => { p with state := st }).fwEvent (portDie port) 4

/-- The running command of the focused core exchanges messages over a port: the peer it reaches there. -/
def usesPort (port : Nat) (s : State) : Option Nat :=
  (s.runningCmd 4).bind fun c =>
    let b := (s.work 4).prm
    (xPeers (opCode c.instr) b).find? fun k => xAway b k && xPort b k == port

/-- A port goes down: LINK_UE is posted with its number, every running command that uses it stops (11 R344). -/
def portDown (port : Nat) (s : State) : State :=
  let s := setPort port 0 (s.modPort port fun p => { p with retries := [], replay := [], credits := 0, queue := [] })
  let s := report s none (portDie port) Cause.linkUe 1 (unitId (portDie port) 0) false 0 (BitVec.ofNat 64 port)
  let me := s.core.id
  (s.liveCores.foldl (fun s k =>
    let s := s.focus k
    match usesPort port s with
    | some p => xStop Cause.exchangeLink p port s
    | none => s) s).focus me

/-- LINK_UE: the eighth retry of a flit failed (11 R344). -/
def execLinkUe (port : Fin 18) (s : State) : EngEnds :=
  .next (if (s.port port.val).state = 2 then portDown port.val s else s)

/-- LINK_RETRY_REQUEST: the flits of the replay buffer are sent again from that flit on; the request after its eighth retry takes the
port down (15 R448, 11 R344). -/
def execLinkRetryRequest (port : Fin 18) (seq : Fin 4096) (s : State) : EngEnds :=
  let p := s.port port.val
  if p.state ≠ 2 ∨ !(p.replay.any fun f => flitSeq f == seq) then .next s
  else
    let n := sget p.retries 0 seq.val + 1
    .next (if 8 < n then portDown port.val s else
      let s := s.modPort port.val fun p => { p with retries := sset p.retries 0 seq.val n }
      { s with dev := { s.dev with out := s.dev.out ++ [.flits port.val (p.replay.dropWhile fun f => flitSeq f != seq)] } })

/-- The flits that an acknowledgement covers: those up to it, which arrive in order. -/
def Port.acked (p : Port) (seq : Fin 4096) : List (List Byte) :=
  if p.replay.any fun f => flitSeq f == seq then p.replay.take ((p.replay.takeWhile fun f => flitSeq f != seq).length + 1) else []

/-- LINK_ACKNOWLEDGEMENT: the flits it covers leave the replay buffer, and its credits are used (15 R448). -/
def execLinkAcknowledgement (port : Fin 18) (seq : FlitAck) (s : State) : EngEnds :=
  if (s.port port.val).state ≠ 2 then .next s else
  let gone := (s.port port.val).acked seq.seq
  .next (giveCredits port.val seq.cred.val (s.modPort port.val fun p => { p with
    replay := p.replay.drop gone.length, retries := p.retries.filter fun r => !gone.any fun f => (flitSeq f).val == r.1 }))

/-- FLIT_CRC_ERROR: the receiver answers a flit whose CRC fails, or that carries a reserved TYPE or bit, with a retry request for its SEQ (15
R448). -/
def execFlitCrcError (port : Fin 18) (seq : List Byte) (s : State) : EngEnds :=
  .next (if (s.port port.val).state = 2 ∧ flitGood seq = false then
    { s with dev := { s.dev with out := s.dev.out ++ [.control port.val true (flitSeq seq) 0] } } else s)

/-- The die was brought up and its firmware core runs (13 R420). Core `d` is that of die `d`. -/
def State.firmwareRuns (s : State) (d : Nat) : Bool := s.dev.power && (s.die d).up && (s.coreAt d).run != .dead

/-- LINK_TRAINING_START: the firmware of its die trains a port that is DOWN (15 R449). -/
def execLinkTrainingStart (port : Fin 18) (s : State) : EngEnds :=
  .next (if (s.port port.val).state = 0 ∧ s.firmwareRuns (portDie port.val) then setPort port.val 1 s else s)

/-- LINK_TRAINING_COMPLETE: the port is UP; how many credits it begins with is a free value (15 R448 R449). -/
def execLinkTrainingComplete (port : Fin 18) (s : State) : EngEnds :=
  .next (if (s.port port.val).state = 1 then
    (let s := setPort port.val 2 s
     { s.modPort port.val fun p => { p with credits := Config.freeNat s.free } with free := s.free + 1 }) else s)

/-- LINK_TRAINING_TIMEOUT: 50 ms passed, and the port is DOWN again (15 R449). -/
def execLinkTrainingTimeout (port : Fin 18) (s : State) : EngEnds :=
  .next (if (s.port port.val).state = 1 then setPort port.val 0 s else s)

end

end Sys2Proof.Machine
end

