-- ==== Sys2Proof/Machine/FaultEvents.lean ====
section
/-! DEFINITION. Resolvable faults and what waits for software: the replies to the translation-fault ring, stalled writes,
tier notifications and configured areas (04 R118 R119 R125 R126 R128, 14 R436 R458). -/

namespace Sys2Proof.Machine

noncomputable section

/-! The translation-fault ring (14 R436). -/

/-- The REPLY byte of a posted entry; 0 while its place does not translate. -/
def replyOf (p : Fin 8) (index : Nat) (s : State) : Nat × State :=
  match s.cfg p with
  | none => (0, s)
  | some c =>
    let cap := (2 ^ c.log2s.getD 1 0 - 64) / 32
    match areaKey s p 1 (c.areas.getD 1 0 + BitVec.ofNat 64 (64 + 32 * (index % cap) + 12)) with
    | (none, s) => (0, s)
    | (some k, s) => ((getByte s.mem k).toNat, s)

/-- The strand's fault is delivered: a precise trap of the access's bundle (04 R119). -/
def deliverStrand (f : PendingFault) (s : State) : State :=
  let s : State := { s with core := { s.core with fault := none, iss := { s.core.iss with pc := f.pc, slot := f.uslot } } }
  takeTrap f.cause f.uslot.val f.va 0 s

def clearEngineFault (q : Nat) (s : State) : State := s.modEng fun g => { g with faults := vset g.faults q none }

/-- An engine's fault is delivered: the head of its queue stops. Place 5 holds the fault of an ESIGNAL, whose marker goes. -/
def deliverEngine (q : Nat) (f : PendingFault) (s : State) : State :=
  let s := clearEngineFault q s
  if q = 5 then
    match s.core.eng.signals.find? fun c => (signalForm c.instr).isSome && c.committed && c.pc == f.pc with
    | some c => (removeSignal c s).pendEvent f.cause f.va
    | none => s.pendEvent f.cause f.va
  else match s.head q with
    | some c =>
      if c.running then faultHead q f.cause f.va s
      else let c := asStarted q c s; startFault q c f.cause f.va (describeCmd q c s)
    | none => s

/-- Posts a fault that could not be posted before, and keeps its place in the ring. -/
def repost (f : PendingFault) (unit : Nat) (keep : PendingFault → State → State) (s : State) : State :=
  if f.ring.isSome then s else
  match postRing s s.core.partOf 1 false (tfEntry s f unit) with
  | (.done i, s) => keep { f with ring := some i } s
  | (_, s) => s

/-! Stalled writes. -/

/-- WRITE_BLOCK_RETRY: the stalled access walks again (04 R118): a waiting close is tried again, a stalled bundle issues at
the core's next turn. -/
def execWriteBlockRetry (s : State) : EngEnds :=
  if s.core.closing then .next (quiesce s)
  else .next { s with core := { s.core with iss := { s.core.iss with stalled := false } } }

/-- DIRTY_RING_RESUME: a full dirty ring has room again, and the stalled write is tried again (04 R128). -/
def execDirtyRingResume (s : State) : EngEnds :=
  let p := s.core.partOf
  match s.cfg p.val with
  | none => .next s
  | some c =>
    match areaKey s p 4 (c.areas.getD 4 0) with
    | (none, s) => .next s
    | (some k, s) =>
      let cap := (2 ^ c.log2s.getD 4 0 - 64) / 8
      if !(s.part p.val).dringFull ∨ cap ≤ s.peekNat k 8 - s.peekNat (k + 8) 8 then .next s
      else execWriteBlockRetry (s.modPart p.val fun q => { q with dringFull := false })

/-- CONFIG_AREA_WALK_RETRY: the device walks again for an area whose walk failed (14 R458). -/
def execConfigAreaWalkRetry (part : Fin 8) (area : Fin 6) (s : State) : EngEnds :=
  match s.cfg part with
  | none => .next s
  | some c => if (s.part part).areaDown.getLsbD area then .next (areaKey s part area (c.areas.getD area 0)).2 else .next s

/-- TIER_NOTIFY: a counter passed the threshold, and one entry is posted (04 R125 R126). -/
def execTierNotify (die : Fin 4) (idx : Fin 4096) (s : State) : EngEnds :=
  match sfind (s.die die).monitor idx with
  | none => .next s
  | some e =>
    if !e.crossed then .next s else
    let put := fun (v : MonEntry) (s : State) => s.modDie die fun d => { d with monitor := sput d.monitor idx v }
    if e.notified then .next (put { e with crossed := false } s) else
    let page := BitVec.ofNat 64 (e.page.toNat / 65536 * 65536)
    let s := (postRing s e.part 2 true (b8 page ++ toBytes 2 e.count.toNat ++ [BitVec.ofNat 8 e.part, BitVec.ofNat 8 die] ++ toBytes 4 idx)).2
    .next (put { e with notified := true, crossed := false } s)

end

end Sys2Proof.Machine
end

