-- ==== Sys2Proof/Machine/Packets.lean ====
section
/-! DEFINITION. The launch unit: command queues, packets, indirect buffers, the interval table, captures, and the packets
that act on memory (13 R389 to R401), with the replies that a stalled fetcher waits for (14 R436). -/

namespace Sys2Proof.Machine

noncomputable section

/-! Queues and packets. -/

def State.cq (s : State) (p : Fin 8) (k : Nat) : Option CmdQueue := sfind (s.part p).queues k

def State.modCq (s : State) (p : Fin 8) (k : Nat) (f : CmdQueue → CmdQueue) : State :=
  match s.cq p k with
  | none => s
  | some q => s.modPart p fun v => { v with queues := sput v.queues k (f q) }

/-- The launch unit that fetches a queue reads and writes at system scope (13 R390 R393). -/
def fetchAgent (s : State) (p : Fin 8) (q : CmdQueue) : Agent := partAgent s p q.fdie.val 4

def pktType (b : List Byte) : Nat := field b 0 1
def pktLines (b : List Byte) : Nat := field b 1 1
def pktCrc (b : List Byte) : Bool := field b 2 1 % 2 == 1
def pktBarrier (b : List Byte) : Bool := field b 2 1 / 2 % 2 == 1
def pktRanges (b : List Byte) : Nat := field b 3 1
def pktMark (b : List Byte) : Nat := field b 4 4
def pktCompl (b : List Byte) : Word := fw b 8
/-- The type-specific body (13 R392). -/
def pktBody (b : List Byte) : List Byte := slice b 32 32

/-- The ranges that a packet enters (13 R395 R396): first byte, length, written. -/
def pktEntries (b : List Byte) : List (Nat × Nat × Bool) :=
  (List.range (pktRanges b)).map (fun i =>
    let l := field b (72 + 16 * i) 8
    (field b (64 + 16 * i) 8, l % 2 ^ 40, decide (l / 2 ^ 41 % 2 = 1))) ++
  (if pktType b = 9 then [(field b 32 8, field b 40 8, true)] else [])

/-! Completion and faults. -/

/-- A completion record (13 R398). -/
def complBytes (b : List Byte) (cause : Option (BitVec 8)) (unit : Option (BitVec 16)) (pc : Word) (time : Nat) : List Byte :=
  slice b 16 8 ++ [cause.getD 0, BitVec.ofNat 8 (boolBit unit.isSome + 2 * boolBit cause.isSome)] ++
  toBytes 2 (unit.getD 0).toNat ++ toBytes 4 0 ++ b8 pc ++ n8 time

/-- A launch unit reaches global addresses only. -/
def globalRange (va : Word) (n : Nat) (s : State) : Act Unit := Act.check (decide (va.toNat + n ≤ 2 ^ 56)) Cause.noncanonical va s

def fetchRead (ag : Agent) (va : Word) (n : Nat) (s : State) : Act (List Byte) :=
  (globalRange va n s).bind fun _ s => (readDirect ag va n s).map bytesOf

def fetchWrite (ag : Agent) (va : Word) (bs : List Byte) (s : State) : Act Unit :=
  (globalRange va bs.length s).bind fun _ s => writeDirect ag va bs s

/-- The entry in the translation-fault ring of a fault of `unit` (14 R436). -/
def unitEntry (unit : Nat) (f : PendingFault) (time : Nat) : List Byte :=
  b8 f.va ++ [f.cause, f.kind] ++ toBytes 2 unit ++ [0, 0, 0, 0] ++ b8 f.pc ++ n8 time

/-- The entry of a fetcher's fault. -/
def fetchEntry (q : CmdQueue) (f : PendingFault) (time : Nat) : List Byte := unitEntry (unitId q.fdie.val 8) f time

/-- A resolvable fault stalls the fetcher and is posted (13 R391, 04 R119). -/
def stallFetch (p : Fin 8) (k : Nat) (f : PendingFault) (s : State) : State :=
  match s.cq p k with
  | none => s
  | some q =>
    match postRing s p 1 false (fetchEntry q f s.clock) with
    | (.done i, s) => s.modCq p k fun q => { q with fault := some { f with ring := some i } }
    | (_, s) => s.modCq p k fun q => { q with fault := some f }

/-- The queue stops at a queue fault (13 R391): ENABLE is cleared, the packets that have not started and the started one of place `order`
leave it, and the cause is posted with the queue number in ADDR. What a started packet waits for, and a store, goes on waiting. -/
def stopQueue (p : Fin 8) (k : Nat) (cause : BitVec 8) (order : Nat) (s : State) : State :=
  match s.cq p k with
  | none => s
  | some q =>
    let s := s.modCq p k fun q => { q with
      enable := false, packets := q.packets.filter (fun x => x.started && x.order != order), tears := 0, spins := 0,
      fault := q.fault.filter fun f => f.uslot == 1 || f.uslot == 2 }
    report s (some p) q.fdie.val cause 1 (unitId q.fdie.val 8) false 0 (BitVec.ofNat 64 k)

/-- The stores of a queue's launch unit are performed in order, at most `n` of them. One whose translation fails waits for a reply, unless
the queue waits for one already; one that cannot be performed is a queue fault (13 R391, 14 R436). -/
def flushQueue (p : Fin 8) (k : Nat) : Nat → State → State
  | 0, s => s
  | n + 1, s =>
    match s.cq p k with
    | none => s
    | some q =>
      match q.out with
      | [] => s
      | (va, bs) :: _ =>
        let next := fun (s : State) => s.modCq p k fun q => { q with out := q.out.drop 1 }
        if q.fault.any fun f => f.uslot == 2 then s else
        match fetchWrite (fetchAgent s p q) va bs s with
        | .ok _ s => flushQueue p k n (next s)
        | .trap cause _ s => flushQueue p k n (stopQueue p k cause 0 (next s))
        | .fault cause va t => if q.fault.isSome then s else stallFetch p k ⟨va, cause, AKind.write.code, 0, 2, none⟩ t
        | .wait s => s

/-- Performs what stores of a queue it can. -/
def flush (p : Fin 8) (k : Nat) (s : State) : State := flushQueue p k (((s.cq p k).map fun q => q.out.length).getD 0) s

/-- The launch unit of a queue stores bytes at `system` scope. -/
def storeOut (p : Fin 8) (k : Nat) (va : Word) (bs : List Byte) (s : State) : State :=
  flush p k (s.modCq p k fun q => { q with out := q.out ++ [(va, bs)] })

/-- Writes the completion record of a packet that names one. -/
def writeCompl (p : Fin 8) (k : Nat) (b : List Byte) (cause : Option (BitVec 8)) (unit : Option (BitVec 16)) (pc : Word)
    (s : State) : State :=
  if pktCompl b = 0 ∨ (pktCompl b).toNat % 32 ≠ 0 then s else storeOut p k (pktCompl b) (complBytes b cause unit pc s.clock) s

/-- A packet of a queue completes: it leaves the queue, which frees its interval entries, and its record is written. -/
def endPacket (p : Fin 8) (k order : Nat) (cause : Option (BitVec 8)) (unit : Option (BitVec 16)) (pc : Word) (s : State) : State :=
  match s.cq p k with
  | none => s
  | some q =>
    match q.packets.find? fun x => x.order == order with
    | none => s
    | some x =>
      writeCompl p k x.bytes cause unit pc (s.modCq p k fun q => { q with packets := q.packets.filter fun y => y.order != order })

def completePacket (p : Fin 8) (k order : Nat) (s : State) : State := endPacket p k order none none 0 s

/-- A queue fault (13 R391): the queue stops, and the faulting packet's record is written. `order`: a started packet that faults. -/
def queueFaultOf (p : Fin 8) (k : Nat) (cause : BitVec 8) (named : Option (List Byte)) (order : Nat) (s : State) : State :=
  match named with
  | none => stopQueue p k cause order s
  | some b => writeCompl p k b (some cause) none 0 (stopQueue p k cause order s)

/-- The packet at the head of a queue: fetched and not started. -/
def CmdQueue.head (q : CmdQueue) : Option Packet := q.packets.find? fun x => !x.started

/-- A queue fault of the packet at the head. -/
def queueFault (p : Fin 8) (k : Nat) (cause : BitVec 8) (s : State) : State :=
  queueFaultOf p k cause (((s.cq p k).bind fun q => q.head).map fun x => x.bytes) 0 s

/-- Goes on with the value of a launch unit's access, or stalls or faults the queue. `who`: which access waits (`CmdQueue.fault`). -/
def Act.queue {α : Type} (a : Act α) (p : Fin 8) (k : Nat) (kind : AKind) (fault : BitVec 8 → State → State) (f : α → State → State)
    (who : Fin 8 := 0) : State :=
  match a with
  | .ok v s => f v s
  | .trap cause _ s => fault cause s
  | .fault cause va s => stallFetch p k ⟨va, cause, kind.code, 0, who, none⟩ s
  | .wait s => s

/-! The checks of a packet (13 R392 R395 R396). -/

/-- The body's reserved bytes and ranges, by type. `pages`: the partition's page count. -/
def pktBodyOk (b : List Byte) (pages : Nat) : Bool :=
  let x := pktBody b
  let t := pktType b
  let zeroFrom := fun n => zeroBytes x n (32 - n)
  if t = 0 ∨ t = 6 ∨ t = 7 then zeroFrom 0
  else if t = 1 then zeroFrom 12 && field x 0 8 % 64 == 0
  else if t = 2 then zeroFrom 17 && field x 0 8 % 8 == 0 && decide (field x 16 1 ≤ 2)
  else if t = 3 then zeroFrom 17 && field x 0 8 % 8 == 0 && decide (field x 16 1 ≤ 1)
  else if t = 4 ∨ t = 5 then zeroFrom 12 && field x 0 8 % 64 == 0 && decide (1 ≤ field x 8 4) && decide (field x 8 4 ≤ 2 ^ 20)
  else if t = 8 then zeroFrom 8 && field x 0 8 % 64 == 0
  else if t = 9 then zeroFrom 16 && field x 0 8 % 64 == 0 && field x 8 8 % 64 == 0 && decide (64 ≤ field x 8 8)
  else if t = 10 then zeroFrom 11 && field x 0 8 % 64 == 0 && decide (field x 10 1 ≤ 1)
  else zeroBytes x 10 6 && zeroFrom 24 && field x 0 8 % 65536 == 0 && decide (field x 8 1 ≤ 2) && decide (field x 9 1 < 8) &&
    decide (field x 16 8 ≤ pages)

/-- The header and the bytes that no field covers. -/
def packetOk (q : CmdQueue) (b : List Byte) (pages : Nat) : Bool :=
  let used := 64 + 16 * pktRanges b
  let stop := b.length - 8 * boolBit (pktCrc b)
  decide (pktType b ≤ 11) && decide (field b 2 1 < 4) && decide (pktRanges b ≤ 8) && zeroBytes b 24 8 &&
  (pktCompl b).toNat % 32 == 0 && (pktCrc b || !q.reqcrc) && (pktRanges b == 0 || pktType b == 1 || pktType b == 9) &&
  decide (1 + cdiv (16 * pktRanges b + 8 * boolBit (pktCrc b)) 64 ≤ pktLines b) && zeroBytes b used (stop - used) &&
  (!pktCrc b || zeroBytes b (b.length - 4) 4) && pktBodyOk b pages

/-- A range entry (13 R395). -/
def rangeOk (b : List Byte) (i : Nat) : Bool :=
  let a := field b (64 + 16 * i) 8
  let l := field b (72 + 16 * i) 8
  decide (l % 2 ^ 40 ≠ 0) && decide (l / 2 ^ 40 % 4 ≠ 0) && decide (l < 2 ^ 42) && decide (a + l % 2 ^ 40 ≤ 2 ^ 56)

/-- The cause of a packet's fault at fetch, if any. -/
def packetCause (q : CmdQueue) (b : List Byte) (pages : Nat) : Option (BitVec 8) :=
  if !packetOk q b pages then some Cause.packetMalformed
  else if (List.range (pktRanges b)).all (rangeOk b) then none else some Cause.rangeDecl

/-- The trailer holds the CRC of every byte before it (13 R394). -/
def trailerOk (b : List Byte) : Bool := !pktCrc b || field b (b.length - 8) 4 == crc32c (b.take (b.length - 8))

/-! The interval table (13 R399). -/

/-- The packets that hold entries in the table of a die: partition, queue and packet. -/
def State.entered (s : State) (die : Fin 4) : List (Fin 8 × Packet) :=
  (List.finRange 8).flatMap fun (p : Fin 8) => (s.part p.val).queues.flatMap fun (q : Nat × CmdQueue) =>
    if q.2.fdie = die then (q.2.packets.filter fun x => x.entered).map fun x => (p, x) else []

def State.entryCount (s : State) (die : Fin 4) : Nat := ((s.entered die).map fun x => (pktEntries x.2.bytes).length).sum

/-- The heads of a die's queues whose ranges do not stand in the table yet, with partition and queue, in the order in which they became
heads. -/
def State.waitingHeads (s : State) (die : Fin 4) : List (Fin 8 × Nat × Packet) :=
  sortOn (fun x => x.2.2.order) ((List.finRange 8).flatMap fun (p : Fin 8) => (s.part p.val).queues.filterMap fun (q : Nat × CmdQueue) =>
    if q.2.fdie = die then (q.2.head.filter fun x => !x.entered).map fun x => (p, q.1, x) else none)

/-- Heads enter their ranges in order, while there is room for them. -/
def enterHeads (die : Fin 4) : List (Fin 8 × Nat × Packet) → State → State
  | [], s => s
  | (p, k, x) :: r, s =>
    if 512 < s.entryCount die + (pktEntries x.bytes).length then s else
    enterHeads die r (s.modCq p k fun q =>
      { q with packets := q.packets.map fun y => if y.order = x.order then { y with entered := true } else y })

/-- The heads of the queues that a queue's launch unit fetches enter their ranges, as far as there is room. -/
def enterHead (p : Fin 8) (k : Nat) (s : State) : State :=
  match s.cq p k with
  | none => s
  | some q => enterHeads q.fdie (s.waitingHeads q.fdie) s

/-- Two range lists overlap with a written one. -/
def rangesClash (a b : List (Nat × Nat × Bool)) : Bool :=
  a.any fun x => b.any fun y => decide (x.1 < y.1 + y.2.1) && decide (y.1 < x.1 + x.2.1) && (x.2.2 || y.2.2)

/-- An older entry of the same partition holds the packet. -/
def heldBy (s : State) (p : Fin 8) (q : CmdQueue) (x : Packet) : Bool :=
  (s.entered q.fdie).any fun o => o.1 == p && decide (o.2.order < x.order) && rangesClash (pktEntries o.2.bytes) (pktEntries x.bytes)

/-! Starting (13 R390 R396 R397). -/

/-- The partition's launch units start packets: it is enabled and not being migrated (14 R426 R433). -/
def State.serves (s : State) (p : Fin 8) : Bool :=
  match s.cfg p with
  | none => false
  | some c => c.flags.getLsbD 0 && !c.migr

/-- The packet types that wait for every earlier packet of the queue. -/
def startsLast (b : List Byte) : Bool := pktBarrier b || pktType b == 3 || pktType b == 8 || pktType b == 11

/-- The packet at the head of the queue, of type `ty`, when it may start. -/
def canStart (s : State) (p : Fin 8) (k ty : Nat) : Option (CmdQueue × Packet) :=
  match s.cq p k with
  | none => none
  | some q =>
    match q.head with
    | none => none
    | some x =>
      let before := q.packets.filter fun y => y.started
      if q.enable && q.fault.isNone && s.serves p && pktType x.bytes == ty && x.entered && q.out.isEmpty &&
         !(startsLast x.bytes && !before.isEmpty) && !(before.any fun y => pktType y.bytes == 2) && !heldBy s p q x
      then some (q, x) else none

/-- The head starts: RIDX passes a packet of the ring and is stored; the position in an indirect buffer moves on. -/
def startHead (p : Fin 8) (k : Nat) (s : State) : State :=
  match s.cq p k with
  | none => s
  | some q =>
    match q.head with
    | none => s
    | some x =>
      let n := pktLines x.bytes
      let ring := x.depth = 0
      let s := s.modCq p k fun q => { q with
        packets := q.packets.map fun y => { y with started := true },
        ridx := if ring then q.ridx + BitVec.ofNat 32 n else q.ridx,
        ibs := if ring then q.ibs else (match q.ibs with | (b, l, i) :: r => (b, l, i + n) :: r | [] => []),
        spins := if pktType x.bytes = 0 ∨ pktType x.bytes = 5 then q.spins + 1 else 0 }
      if ring then storeOut p k q.ridxa (n8 (q.ridx + BitVec.ofNat 32 n).toNat) s else s

/-- The head starts and completes at once. -/
def startAndEnd (p : Fin 8) (k : Nat) (x : Packet) (s : State) : State := completePacket p k x.order (startHead p k s)

/-- A started packet of a type. -/
def startedOf (q : CmdQueue) (ty : Nat) : Option Packet := q.packets.find? fun x => x.started && pktType x.bytes == ty

/-! Fetching (13 R390 R393 R394 R400). -/

/-- Where the next packet's line 0 is read, its expected MARK, and the lines up to the end of its ring or buffer. -/
def CmdQueue.next (q : CmdQueue) : Word × Nat × Nat :=
  match q.ibs with
  | (b, l, i) :: _ => (b + BitVec.ofNat 64 (64 * i), i, l - i)
  | [] =>
    let lines := 2 ^ (q.log2 - 6)
    let slot := q.ridx.toNat % lines
    (q.ring + BitVec.ofNat 64 (64 * slot), q.ridx.toNat, lines - slot)

/-- Indirect buffers whose lines are exhausted are left. -/
def CmdQueue.popped (q : CmdQueue) : CmdQueue := { q with ibs := q.ibs.dropWhile fun b => decide (b.2.1 ≤ b.2.2) }

/-- The doorbell's lines not consumed. -/
def CmdQueue.avail (q : CmdQueue) : Nat := (q.widx - q.ridx).toNat

/-- The partition's pages. -/
def State.pagesOfPart (s : State) (p : Fin 8) : Nat := match s.cfg p with | some c => c.granules.length * 16384 | none => 0

/-- A packet read whole is checked and becomes the head; a torn one is read again, at most four times. -/
def takePacket (p : Fin 8) (k : Nat) (q : CmdQueue) (b : List Byte) (s : State) : State :=
  let fault := fun c => queueFaultOf p k c (some b) 0
  if !trailerOk b then
    if q.tears = 4 then fault Cause.packetTorn s else s.modCq p k fun q => { q with tears := q.tears + 1 }
  else match packetCause q b (s.pagesOfPart p) with
    | some c => fault c s
    | none =>
      let n := s.dev.tickets + 1
      let x : Packet := ⟨q.ibs.length, b, n, (pktEntries b).isEmpty, false, false⟩
      let s := { s with dev := { s.dev with tickets := n } }
      enterHead p k (s.modCq p k fun q => { q with packets := q.packets ++ [x], tears := 0 })

/-- Line 0 has been read. -/
def takeLine0 (p : Fin 8) (k : Nat) (q : CmdQueue) (b : List Byte) (s : State) : State :=
  let n := q.next
  let ring := q.ibs.isEmpty
  let bad := queueFaultOf p k Cause.packetMalformed (some b) 0
  if pktMark b ≠ n.2.1 % 2 ^ 32 then (if ring then s else bad s)
  else if pktLines b = 0 ∨ 16 < pktLines b ∨ n.2.2 < pktLines b then bad s
  else if ring ∧ q.avail < pktLines b then s
  else (fetchRead (fetchAgent s p q) (n.1 + 64) (64 * (pktLines b - 1)) s).queue p k .read
    (fun c => queueFaultOf p k c (some b) 0) (fun r s => takePacket p k q (b ++ r) s) 3

/-- More lines are claimed by the doorbell than the ring holds (13 R390). -/
def CmdQueue.overshoot (q : CmdQueue) : Bool := decide (2 ^ (q.log2 - 6) < q.avail)

/-- PACKET_LINE0_POLL: the fetcher's stores that wait are performed, and it reads the next packet. It does not read ahead of a packet that
has not started. -/
def execPacketLine0Poll (part : Fin 8) (k : Fin 64) (s : State) : EngEnds :=
  let s := flush part k (s.modCq part k CmdQueue.popped)
  match s.cq part k with
  | none => .next s
  | some q =>
    if !q.enable || !q.out.isEmpty || q.fault.isSome || q.head.isSome || decide (2 ^ 20 ≤ q.spins) || !s.serves part then .next s
    else if q.ibs.isEmpty && q.overshoot then .next (queueFaultOf part k Cause.packetMalformed none 0 s)
    else if q.ibs.isEmpty && q.avail == 0 then .next s
    else .next ((fetchRead (fetchAgent s part q) q.next.1 64 s).queue part k .read
      (fun c => queueFaultOf part k c none 0) fun b s => takeLine0 part k q b s)

/-- Runs a packet's start when it may start; ranges that found no room enter first. -/
def startOf (p : Fin 8) (k ty : Nat) (s : State) (f : CmdQueue → Packet → State → State) : EngEnds :=
  let s := enterHead p k s
  match canStart s p k ty with
  | none => .next s
  | some (q, x) => .next (f q x s)

/-- NOP completes at its start. -/
def execPacketNop (part : Fin 8) (k : Fin 64) (s : State) : EngEnds :=
  startOf part k 0 s fun _ x s => startAndEnd part k x s

/-! WAITV and SIGNAL (13 R396). -/

/-- COND of WAITV holds of a word. -/
def waitvMet (b : List Byte) (v : Word) : Bool :=
  let c := field b 48 1
  if c = 0 then decide (0 ≤ (v - fw b 40).toInt) else if c = 1 then v == fw b 40 else v != fw b 40

/-- WAITV starts: its first read completes it when the condition holds. -/
def execWaitv (part : Fin 8) (k : Fin 64) (s : State) : EngEnds :=
  startOf part k 2 s fun q x s =>
    (fetchRead (fetchAgent s part q) (fw x.bytes 32) 8 s).queue part k .read (queueFault part k) fun b s =>
      let s := startHead part k s
      if waitvMet x.bytes (fw b 0) then completePacket part k x.order s else s

/-- WAITV_SATISFIED: a further read finds the condition. -/
def execWaitvSatisfied (part : Fin 8) (k : Fin 64) (s : State) : EngEnds :=
  match s.cq part k with
  | none => .next s
  | some q =>
    match startedOf q 2 with
    | none => .next s
    | some x =>
      if q.fault.isSome then .next s else
      .next ((fetchRead (fetchAgent s part q) (fw x.bytes 32) 8 s).queue part k .read
        (fun c => queueFaultOf part k c (some x.bytes) x.order)
        (fun b s => if waitvMet x.bytes (fw b 0) then completePacket part k x.order s else s) 1)

/-- An atomic add of a launch unit. -/
def fetchAdd (ag : Agent) (va v : Word) (s : State) : Act Unit :=
  (globalRange va 8 s).bind fun _ s => (locate ag .atomic false va s).bind fun l s =>
    let s := if l.far then s.countFar (dieOf ag.core) ag.part va 1 else s
    match performRun ag none l.key (b8 (BitVec.ofNat 64 (s.peekNat l.key 8) + v)) s with
    | (true, s) => .ok () s
    | (false, s) => .wait s

/-- SIGNAL stores or adds its value and completes. -/
def execSignalPacket (part : Fin 8) (k : Fin 64) (s : State) : EngEnds :=
  startOf part k 3 s fun q x s =>
    let ag := fetchAgent s part q
    let add := field x.bytes 48 1 = 1
    let a := if add then fetchAdd ag (fw x.bytes 32) (fw x.bytes 40) s else fetchWrite ag (fw x.bytes 32) (b8 (fw x.bytes 40)) s
    a.queue part k (if add then .atomic else .write) (queueFault part k) fun _ s => startAndEnd part k x s

/-! Indirect buffers (13 R400). -/

/-- IBCALL enters its buffer at the next depth. -/
def execIbcall (part : Fin 8) (k : Fin 64) (s : State) : EngEnds :=
  startOf part k 4 s fun q x s =>
    if 4 ≤ q.ibs.length then queueFault part k Cause.ibDepth s
    else (startAndEnd part k x s).modCq part k fun q => { q with ibs := (fw x.bytes 32, field x.bytes 40 4, 0) :: q.ibs }

/-- IBJUMP replaces the present buffer. -/
def execIbjump (part : Fin 8) (k : Fin 64) (s : State) : EngEnds :=
  startOf part k 5 s fun q x s =>
    if q.ibs.isEmpty then queueFault part k Cause.packetMalformed s
    else (startAndEnd part k x s).modCq part k fun q => { q with ibs := (fw x.bytes 32, field x.bytes 40 4, 0) :: q.ibs.drop 1 }

/-- IB_SPIN_WATCHDOG: 2^20 packets IBJUMP or NOP in succession fault the queue. -/
def execIbSpinWatchdog (part : Fin 8) (k : Fin 64) (s : State) : EngEnds :=
  match s.cq part k with
  | none => .next s
  | some q => if q.spins < 2 ^ 20 then .next s else .next (queueFault part k Cause.watchdog s)

/-! FENCE and captures (13 R396 R401). -/

/-- A started FENCE completes once no earlier packet is left. -/
def endFence (p : Fin 8) (k : Nat) (s : State) : State :=
  match (s.cq p k).bind fun q => q.packets.head? with
  | some x => if x.started && pktType x.bytes == 6 then completePacket p k x.order s else s
  | none => s

def execPacketFence (part : Fin 8) (k : Fin 64) (s : State) : EngEnds :=
  match startOf part k 6 s fun _ _ s => startHead part k s with
  | .next s => .next (endFence part k s)
  | e => e

/-- CAPSTART opens the queue's capture. -/
def execCapstart (part : Fin 8) (k : Fin 64) (s : State) : EngEnds :=
  startOf part k 7 s fun q x s =>
    if q.capture.isSome then queueFault part k Cause.counterCapture s
    else (startAndEnd part k x s).modCq part k fun q =>
      { q with capture := some ⟨0, List.replicate 5 0, 0, s.clock, !(s.part part).resident⟩ }

/-- RESIDENT of a capture. -/
def Capture.total (c : Capture) (loaded : Bool) (clock : Nat) : Word :=
  if loaded then c.resident + BitVec.ofNat 64 (clock - c.since) else c.resident

/-- The record of a capture. -/
def Capture.bytes (c : Capture) (loaded : Bool) (clock : Nat) : List Byte :=
  b8 c.beats ++ (padTo 5 0 c.clocks).flatMap b8 ++ b8 (c.total loaded clock) ++ [BitVec.ofNat 8 (boolBit c.preempted)] ++ List.replicate 7 0

/-- CAPSTOP writes the record and closes the capture. -/
def execCapstop (part : Fin 8) (k : Fin 64) (s : State) : EngEnds :=
  startOf part k 8 s fun q x s =>
    match q.capture with
    | none => queueFault part k Cause.counterCapture s
    | some c =>
      (fetchWrite (fetchAgent s part q) (fw x.bytes 32) (c.bytes (s.part part).resident s.clock) s).queue part k .write
        (queueFault part k) fun _ s => (startAndEnd part k x s).modCq part k fun q => { q with capture := none }

/-! ZERO (13 R396). -/

/-- Zeroes the blocks of the pages of a region: payload, tags and poison. -/
def zeroPages (ag : Agent) (ls : List (Word × Nat × Loc)) (s : State) : State :=
  ls.foldl (fun s x =>
    let s := if x.2.2.far then s.countFar (dieOf ag.core) ag.part x.1 (x.2.1 / 64) else s
    let s := (List.range (x.2.1 / 64)).foldl (fun s i => noteAccess s ag.core none ag.scope (x.2.2.key + 64 * i) true) s
    s.zeroBlocks x.2.2.key (x.2.1 / 64)) s

/-- ZERO needs Wr on every page it covers; nothing is written while one is missing. -/
def execZeroPacket (part : Fin 8) (k : Fin 64) (s : State) : EngEnds :=
  startOf part k 9 s fun q x s =>
    let ag := fetchAgent s part q
    let va := fw x.bytes 32
    let n := field x.bytes 40 8
    ((globalRange va n s).bind fun _ s => Act.mapM (fun (y : Word × Nat) s => (locate ag .write false y.1 s).map fun l => (y.1, y.2, l))
      (pagesOf va n) s).queue part k .write (queueFault part k) fun ls s =>
        match markDirty s part (ls.map fun y => y.2.2.key) with
        | (false, s) => s
        | (true, s) => startAndEnd part k x (zeroPages ag ls s)

/-! Doorbells' effect on a queue, and the waits of R436. -/

/-- The fault of whoever waits, if one is pending. -/
def waiterPending (w : Waiter) (s : State) : Option PendingFault :=
  match w with
  | .strand => s.core.fault
  | .engine q => s.core.eng.faults.get q
  | .fetcher p k => (s.cq p k).bind fun q => q.fault
  | .pickup p pipe at_ => ((s.pipeline p pipe).bind fun x => x.misses.find? fun m => m.1 == at_).map fun m => m.2.2

/-- The pickup of a record waits no longer. -/
def dropMiss (p : Fin 8) (pipe : Nat) (at_ : Word) (s : State) : State :=
  s.modPipe p pipe fun x => { x with misses := x.misses.filter fun m => m.1 != at_ }

/-- The fault is no longer pending: the access is made again. -/
def waiterRetry (w : Waiter) (s : State) : State :=
  match w with
  | .strand => { s with core := { s.core with fault := none } }
  | .engine q => clearEngineFault q s
  | .fetcher p k => flush p k (s.modCq p k fun q => { q with fault := none })
  | .pickup p pipe at_ => dropMiss p pipe at_ s

/-- A record whose pickup fails: one whose frame or context cannot be had is written back FAULTED, one that fails 01 R18 stays as it is; the
pipeline faults. -/
def pickupFault (part : Fin 8) (pipe : Nat) (at_ : Word) (cause : BitVec 8) (checked : Bool) (s : State) : State :=
  let ag := partAgent s part s.core.id 2
  let b := (devRead ag at_ 64 s).1
  let s := if checked then
      (devWrite ag at_ (recSeal (recSet (recSet b 24 1 Status.faulted) 25 1 cause.toNat)) s).readyTime part.val pipe at_ none
    else s.readyTime part.val pipe at_ none
  pipelineFault part pipe cause 0 none none [] s

/-- The fault of a fetcher is delivered (13 R391): to the started WAITV that made the access, to the packet being fetched, or to the packet at
the head; a store that cannot be performed is dropped. -/
def deliverFetch (p : Fin 8) (k : Nat) (f : PendingFault) (s : State) : State :=
  let s := s.modCq p k fun q => { q with fault := none }
  match s.cq p k with
  | none => s
  | some q =>
    flush p k (
      if f.uslot = 1 then (match startedOf q 2 with
        | some x => queueFaultOf p k f.cause (some x.bytes) x.order s
        | none => s)
      else if f.uslot = 2 then stopQueue p k f.cause 0 (s.modCq p k fun q => { q with out := q.out.drop 1 })
      else if f.uslot = 3 then
        let r := devRead (fetchAgent s p q) q.next.1 64 s
        queueFaultOf p k f.cause (some r.1) 0 r.2
      else queueFault p k f.cause s)

/-- The fault is delivered. -/
def waiterDeliver (w : Waiter) (f : PendingFault) (s : State) : State :=
  match w with
  | .strand => deliverStrand f s
  | .engine q => deliverEngine q f s
  | .fetcher p k => deliverFetch p k f s
  | .pickup p pipe at_ => pickupFault p pipe at_ f.cause true (dropMiss p pipe at_ s)

/-- The partition of whoever waits. -/
def waiterPart (w : Waiter) (s : State) : Fin 8 :=
  match w with
  | .fetcher p _ => p
  | .pickup p _ _ => p
  | _ => s.core.partOf

/-- A record's pickup by core `k` waits for a reply, and its fault is posted (04 R119, 14 R436). -/
def stallPickup (p : Fin 8) (pipe : Nat) (at_ : Word) (k : Nat) (f : PendingFault) (s : State) : State :=
  let keep := fun (f : PendingFault) (s : State) => s.modPipe p pipe fun x => { x with misses := (x.misses.filter fun m => m.1 != at_) ++ [(at_, k, f)] }
  match postRing s p 1 false (unitEntry (unitId k 0) f s.clock) with
  | (.done i, s) => keep { f with ring := some i } s
  | (_, s) => keep f s

/-- FAULT_REPLY_POLL: the stalled unit reads REPLY and acts on a nonzero value. -/
def execFaultReplyPoll (w : Waiter) (s : State) : EngEnds :=
  match waiterPending w s with
  | none => .next s
  | some f =>
    match f.ring with
    | none => .next s
    | some i =>
      let r := replyOf (waiterPart w s) i s
      if r.1 = 0 then .next r.2 else if r.1 = 1 then .next (waiterRetry w r.2) else .next (waiterDeliver w f r.2)

/-- TFRING_POST_RETRY: an entry that found no room is posted. -/
def execTfringPostRetry (w : Waiter) (s : State) : EngEnds :=
  match waiterPending w s with
  | none => .next s
  | some f =>
    match w with
    | .strand => .next (repost f (if f.uslot = 3 then 7 else 0) (fun f s => { s with core := { s.core with fault := some f } }) s)
    | .engine q => .next (repost f (q.val + 1) (fun f s => s.modEng fun g => { g with faults := vset g.faults q.val (some f) }) s)
    | .fetcher p k => .next (if f.ring.isSome then s else stallFetch p k f s)
    | .pickup p pipe at_ =>
      match (s.pipeline p pipe).bind fun x => x.misses.find? fun m => m.1 == at_ with
      | none => .next s
      | some m => .next (if f.ring.isSome then s else stallPickup p pipe at_ m.2.1 f s)

end

end Sys2Proof.Machine
end

