-- ==== Sys2Proof/Machine/Images.lean ====
section
/-! DEFINITION. Checkpoint images and pipeline images: LAUNCH and its completion, the pipeline switch (13 R402 to R410 R418
R419). -/

namespace Sys2Proof.Machine

noncomputable section

/-! Continuation records (01 R18). -/

/-- The cause that keeps a record from being picked up, if any. -/
def recordCause (b : List Byte) (part nstages : Nat) : Option (BitVec 8) :=
  if field b 60 4 ≠ crc32c (b.take 60) ∨ 16 ≤ field b 18 1 ∨ field b 27 1 ≠ 0 ∨ field b 31 1 ≠ 0 ∨ field b 0 8 % 32 ≠ 0 ∨
     field b 8 8 % 4096 ≠ 0 ∨ field b 19 1 = 0 ∨ 8 < field b 19 1 ∨ field b 19 1 ≤ field b 26 1 ∨ 1 < field b 24 1
  then some Cause.contRecord
  else if nstages ≤ field b 16 2 then some Cause.stageInvalid
  else if field b 30 1 ≠ part then some Cause.partitionBounds
  else none

/-! The pipeline image (13 R407 R408 R409 R410). -/

/-- The header but for its CRC and PIPE. -/
def pipeHeadOk (h : List Byte) : Bool :=
  let spill := field h 44 8
  let n := field h 52 1
  field h 0 4 == 0x50495051 && field h 4 2 == 1 && decide (1 ≤ field h 6 1) && decide (field h 6 1 ≤ 32) && decide (field h 7 1 ≤ 64) &&
  zeroBytes h 10 6 && field h 16 8 % 4096 == 0 && decide (1 ≤ field h 24 4) && decide (field h 24 4 ≤ 65536) && zeroBytes h 28 4 &&
  field h 32 8 % 64 == 0 && decide (field h 40 4 ≤ 2 ^ 24) && spill % 65536 == 0 &&
  (if spill = 0 then n == 0 else decide (1 ≤ n) && decide (n ≤ 7)) && zeroBytes h 53 7

/-- A stage record. -/
def stageOk (b : List Byte) (nq : Nat) : Bool :=
  field b 0 8 % 32 == 0 && field b 8 8 % 64 == 0 && decide (1 ≤ field b 16 1) && decide (field b 16 1 ≤ 8) && decide (field b 17 1 < 8) &&
  decide (1 ≤ field b 18 2) && (slice b 20 8).all (fun q => q == 0xFF || decide (q.toNat < nq)) && zeroBytes b 32 32

/-- A queue record. -/
def queueOk (b : List Byte) : Bool :=
  let e := field b 0 2
  decide (16 ≤ e) && decide (e ≤ 256) && e % 16 == 0 && zeroBytes b 2 2 && decide (1 ≤ field b 4 4) && decide (1 ≤ field b 8 4) &&
  decide (field b 8 4 ≤ field b 4 4 + field b 28 4) && decide (field b 12 4 < field b 8 4) && field b 16 8 % 64 == 0 &&
  decide (field b 28 4 ≤ field b 24 4) && zeroBytes b 32 32

/-- A stage as declared, with its context template. -/
def parseStage (b template : List Byte) : Stage :=
  { entry := fw b 0, template := template, gang := field b 16 1, prio := field b 17 1 % 4, steal := decide (field b 17 1 / 4 % 2 = 1),
    maxinst := field b 18 2, inq := (slice b 20 4).map BitVec.toNat, outq := (slice b 24 4).map BitVec.toNat,
    affinity := field b 28 4, deficit := 0 }

/-- An empty queue as declared. -/
def parseQueue (b : List Byte) : SQueue :=
  { esize := field b 0 2, cap := field b 4 4, high := field b 8 4, low := field b 12 4, ring := fw b 16, ringcap := field b 24 4,
    quota := field b 28 4, chip := [], ringHead := 0, ringCount := 0, nextSeq := 1, resvChip := 0, resvRing := 0, latched := false,
    closed := false }

/-- No queue is the input of two stages, and the on-chip parts fit the queue store. -/
def queuesFit (stages : List (List Byte)) (queues : List SQueue) : Bool :=
  ((List.range queues.length).all fun q => decide ((stages.filter fun b => (slice b 20 4).any fun x => x.toNat == q).length ≤ 1)) &&
  decide ((queues.map fun q => q.cap * q.esize).sum ≤ 256 * 1024)

/-- A context template (13 R403): reserved bits, the limits of 05 R162, LOGMODE and LOGSIZE, and the tile rules of 01 R34. -/
def templateOk (t : List Byte) (spad : Nat) : Bool :=
  let sizes := (List.range 8).map fun k => fw t (16 * k + 8)
  let mode := field t 656 8
  sizes.all (fun w => bits w 13 50 == 0 && decide (bits w 0 13 ≤ 4096)) && decide ((sizes.map fun w => bits w 0 13).sum ≤ 8192) &&
  (List.range 64).all (fun i =>
    let w := fw t (128 + 8 * i)
    bits w 36 3 == 0 && bits w 42 22 == 0 && bits w 39 3 != 5 && bits w 39 3 != 6 && decide ((bits w 0 21 + bits w 21 15) * 64 ≤ spad)) &&
  field t 640 8 % 4096 == 0 && decide (field t 648 8 < 64) && decide (mode < 8) && mode % 4 != 3 &&
  (mode % 4 == 0 || (decide (12 ≤ field t 648 8) && decide (field t 648 8 ≤ 40))) &&
  bits (fw t 664) 8 56 == 0 && !bitAt (fw t 664) 3 && zeroBytes t 672 352

/-- A structure of an image does not lie in the far tier. -/
def nearBase (ag : Agent) (a : Word) (s : State) : Act Unit :=
  (Act.check (decide (a.toNat < 2 ^ 56)) Cause.imageInvalid a s).bind fun _ s =>
    (locate ag .read false a s).bind fun l s => Act.check (!l.far) Cause.imageInvalid a s

/-- The RING of a queue does not lie in the far tier; that of a queue that spills is a place in memory (13 R409 R410). -/
def nearRing (ag : Agent) (q : SQueue) (s : State) : Act Unit :=
  if q.ringcap ≠ 0 then nearBase ag q.ring s else
  match locate ag .read false q.ring s with
  | .ok l s => Act.check (!l.far) Cause.imageInvalid q.ring s
  | _ => Act.check (decide (q.ring.toNat < 2 ^ 56)) Cause.imageInvalid q.ring s

/-- Reads and checks a pipeline image with its stages' templates. `spad`: the scratchpad size of the launch. -/
def readPipe (ag : Agent) (va : Word) (spad : Nat) (s : State) : Act PipeImage :=
  (fetchRead ag va 64 s).bind fun h s =>
  (Act.check (pipeHeadOk h) Cause.imageInvalid va s).bind fun _ s =>
  let ns := field h 6 1
  let nq := field h 7 1
  (fetchRead ag (va + 64) (64 * (ns + nq)) s).bind fun r s =>
  let st := (List.range ns).map fun i => slice r (64 * i) 64
  let qb := (List.range nq).map fun i => slice r (64 * (ns + i)) 64
  let queues := qb.map parseQueue
  let sound := st.all (fun b => stageOk b nq) && qb.all queueOk && queuesFit st queues &&
    field h 60 4 == crc32c (splice h 60 [0, 0, 0, 0] ++ r)
  (Act.check sound Cause.imageInvalid va s).bind fun _ s =>
  (Act.forM (nearBase ag) ([fw h 16] ++ (if fw h 44 = 0 then [] else [fw h 44])) s).bind fun _ s =>
  (Act.forM (nearRing ag) queues s).bind fun _ s =>
  (Act.mapM (fun b s => fetchRead ag (fw b 8) 1024 s) st s).bind fun ts s =>
  (Act.check (ts.all fun t => templateOk t spad) Cause.imageInvalid va s).bind fun _ s =>
  .ok { pipe := field h 8 2, framepool := fw h 16, nframes := field h 24 4, recpool := fw h 32, nrecpool := field h 40 4,
        spillpool := fw h 44, spilln := field h 52 1, stages := (st.zip ts).map fun x => parseStage x.1 x.2, queues := queues } s

/-! The checkpoint image (13 R402 R404). -/

/-- An image as read at step 1 of a LAUNCH: its tables parsed. -/
structure Image where
  l1n : Nat
  pipe : PipeImage
  rectab : Word
  nrec : Nat
  sptab : List (Nat × Nat × Nat × Word × Word)
  bartab : List (Nat × Barrier)
  qctab : List (Nat × QEntry)

/-- The scratchpad size of a split (04 R111). -/
def spadOf (l1n : Nat) : Nat := 2 ^ 21 - l1n * 2 ^ 18

/-- The header. -/
def imageHeadOk (h : List Byte) (qmax : Nat) : Bool :=
  field h 0 4 == 0x4B435451 && field h 4 2 == 1 && zeroBytes h 6 2 && decide (1 ≤ field h 8 4) && decide (field h 8 4 ≤ 4096) &&
  decide (field h 8 4 ≤ qmax) && decide (1 ≤ field h 12 1) && decide (field h 12 1 ≤ 4) && zeroBytes h 13 3 && field h 16 8 % 64 == 0 &&
  field h 24 8 % 64 == 0 && decide (field h 32 4 ≤ 65536) && decide (field h 36 4 ≤ 65536) && decide (field h 56 4 ≤ 1024) &&
  decide (field h 60 4 ≤ 64) && zeroBytes h 72 52 && field h 124 4 == crc32c (h.take 124)

/-- A table of `n` entries of `size` bytes. -/
def readTable (ag : Agent) (va : Word) (n size : Nat) (s : State) : Act (List (List Byte)) :=
  if n = 0 then .ok [] s
  else (fetchRead ag va (n * size) s).map fun b => (List.range n).map fun i => slice b (i * size) size

def spEntryOk (b : List Byte) (nrec spad : Nat) : Bool :=
  decide (field b 0 4 < nrec) && zeroBytes b 4 4 && field b 8 4 % 64 == 0 && field b 12 4 % 64 == 0 && decide (field b 8 4 + field b 12 4 ≤ spad)

def barEntryOk (b : List Byte) (ncl : Nat) : Bool :=
  decide (field b 0 1 < ncl) && decide (field b 1 1 < 32) && decide (field b 2 2 ≤ 1024) && decide (field b 4 2 ≤ 1023) && zeroBytes b 6 2 && zeroBytes b 12 4

def qcEntryOk (b : List Byte) (queues : List SQueue) : Bool :=
  zeroBytes b 1 3 && zeroBytes b 16 16 && match queues[field b 0 1]? with
    | none => false
    | some q => decide (field b 4 4 ≤ q.cap + q.quota)

/-- The entries that a row of QCTAB names, oldest first, with the metadata of their blocks. -/
def readEntries (ag : Agent) (queues : List SQueue) (b : List Byte) (s : State) : Act (List (Nat × QEntry)) :=
  match queues[field b 0 1]? with
  | none => .ok [] s
  | some q => Act.mapM (fun i s =>
      let at_ := fw b 8 + BitVec.ofNat 64 (i * q.esize)
      (globalRange at_ q.esize s).bind fun _ s =>
        (readDirect ag at_ q.esize s).map fun ps => (field b 0 1, (⟨0, bytesOf ps, ps.map fun p => p.mdata, none⟩ : QEntry)))
      (List.range (field b 4 4)) s

/-- Reads and checks everything that step 1 of 13 R405 names. `running`: the PIPEs in use. -/
def readImage (ag : Agent) (c : PartCfg) (va : Word) (running : List Nat) (s : State) : Act Image :=
  (fetchRead ag va 128 s).bind fun h s =>
  (Act.check (imageHeadOk h c.qmax.toNat) Cause.imageInvalid va s).bind fun _ s =>
  let spad := spadOf (field h 12 1)
  (readPipe ag (fw h 16) spad s).bind fun pipe s =>
  (Act.check (!running.contains pipe.pipe) Cause.imageInvalid va s).bind fun _ s =>
  (readTable ag (fw h 40) (field h 36 4) 32 s).bind fun sp s =>
  (readTable ag (fw h 48) (field h 56 4) 16 s).bind fun bar s =>
  (readTable ag (fw h 64) (field h 60 4) 32 s).bind fun qc s =>
  let sound := sp.all (fun b => spEntryOk b (field h 32 4) spad) && bar.all (fun b => barEntryOk b c.clusters.length) &&
    qc.all fun b => qcEntryOk b pipe.queues
  (Act.check sound Cause.imageInvalid va s).bind fun _ s =>
  (Act.mapM (readEntries ag pipe.queues) qc s).bind fun es s =>
  .ok { l1n := field h 12 1, pipe := pipe, rectab := fw h 24, nrec := field h 32 4,
        sptab := sp.map fun b => (field b 0 4, field b 8 4, field b 12 4, fw b 16, fw b 24),
        bartab := bar.map fun b => (32 * c.clusters.getD (field b 0 1) 0 + field b 1 1, ⟨field b 2 2, field b 4 2, BitVec.ofNat 32 (field b 8 4)⟩),
        qctab := es.flatten } s

/-! LAUNCH (13 R405). -/

/-- The records of RECTAB, in order. -/
def rectabOf (im : Image) : List Word := (List.range im.nrec).map fun i => im.rectab + BitVec.ofNat 64 (64 * i)

/-- The lowest running-pipeline slot that is free (14 R443). -/
def pipeSlot (pipes : SMap Pipeline) : Nat := ((List.range 8).find? fun i => pipes.all fun p => p.2.slots != i).getD 0

/-- A pipeline becomes active with its queues empty (step 2). -/
def newPipeline (im : Image) (k order cmask slot gid : Nat) : Pipeline :=
  { toPipeImage := im.pipe, queueK := k, packet := order, l1n := im.l1n, cmask := cmask, rectab := im.rectab, sptab := im.sptab,
    recs := [], misses := [], nextGid := gid, switch := none, cause := none, causePc := 0, unit := none, poison := false, reserve := [],
    migrating := false, slots := slot }

/-- The first cause of R18 among records; PIPE must be the image's (step 5). -/
def recordsCause (bs : List (List Byte)) (part : Nat) (pipe : PipeImage) : Option (BitVec 8) :=
  bs.findSome? fun b => match recordCause b part pipe.stages.length with
    | some c => some c
    | none => if field b 28 2 ≠ pipe.pipe then some Cause.contRecord else none

/-- Steps 2 to 4: the pipeline is active, the barrier objects are written and the queues filled. -/
def activate (p : Fin 8) (im : Image) (pl : Pipeline) (s : State) : State :=
  let s := s.modPart p fun q => { q with pipes := sput q.pipes im.pipe.pipe pl }
  let s := { s with dev := { s.dev with barriers := im.bartab.foldl (fun (m : SMap Barrier) e => sset m zeroBarrier e.1 e.2) s.dev.barriers } }
  im.qctab.foldl (fun s e => enterQueue s p im.pipe.pipe e.1 e.2.bytes e.2.mdata true) s

/-- LAUNCH. A ninth pipeline waits at its queue's head (13 R397). -/
def execLaunch (part : Fin 8) (k : Fin 64) (s : State) : EngEnds :=
  startOf part k 1 s fun q x s =>
    match s.cfg part with
    | none => s
    | some c =>
      let pipes := (s.part part).pipes
      if 8 ≤ pipes.length then s else
      let ag := fetchAgent s part q
      ((readImage ag c (fw x.bytes 32) (pipes.map Prod.fst) s).bind fun im s =>
        (readTable ag im.rectab im.nrec 64 s).map fun rs => (im, rs)).queue part k .read (queueFault part k) fun r s =>
          let im := r.1
          let gid := (r.2.map fun b => field b 20 4).foldl max 0 + 1
          let pl := newPipeline im k x.order (field x.bytes 40 4) (pipeSlot pipes) gid
          let s := activate part im pl s
          match recordsCause r.2 part im.pipe with
          | some cause => queueFault part k cause (s.modPart part fun v => { v with pipes := sdel v.pipes im.pipe.pipe })
          | none =>
            let s := startHead part k s
            let s := s.modPipe part im.pipe.pipe fun p => { p with recs := (rectabOf im).map fun a => (a, some s.clock) }
            updateClosed s part im.pipe.pipe

/-- Every strand is DONE and every queue empty (13 R406). -/
def pipelineEnded (s : State) (part : Fin 8) (p : Pipeline) : Bool :=
  (s.recStates part p).all (fun r => r.2 == Status.done) && p.queues.all fun q => q.occupancy == 0 && q.chip.isEmpty

/-! The pipeline switch (13 R419). -/

/-- With KEEPQ every old queue that is not empty stands in the new image with its entry size; without, all are empty. -/
def switchOk (keep : Bool) (old new : List SQueue) : Bool :=
  old.zipIdx.all fun x =>
    let empty := x.1.occupancy == 0 && x.1.chip.isEmpty
    if keep then empty || match new[x.2]? with
      | some v => v.esize == x.1.esize
      | none => false
    else empty

/-- PSWITCH: the checks; then the Regulator starts no strand of the pipeline. A second switch waits for the first. -/
def execPswitch (part : Fin 8) (k : Fin 64) (s : State) : EngEnds :=
  startOf part k 10 s fun q x s =>
    let pipe := field x.bytes 40 2
    let keep := decide (field x.bytes 42 1 % 2 = 1)
    let old := s.pipeline part pipe
    if (old.bind fun p => p.switch).isSome then s else
    (readPipe (fetchAgent s part q) (fw x.bytes 32) (spadOf (match old with | some p => p.l1n | none => 1)) s).queue part k .read
      (queueFault part k) fun im s =>
        match old with
        | none => queueFault part k Cause.pipelineSwitch s
        | some p =>
          if im.pipe ≠ pipe ∨ !switchOk keep p.queues im.queues then queueFault part k Cause.pipelineSwitch s
          else (startHead part k s).modPipe part pipe fun p => { p with switch := some ⟨k, x.order, keep, im⟩ }

/-- The entries of a queue in order: on chip, then in the ring. -/
def allEntries (s : State) (part : Fin 8) (pipe : Nat) (q : SQueue) : List QEntry × State :=
  (List.range q.ringCount).foldl (fun (a : List QEntry × State) i =>
    let r := ringRead a.2 part pipe q (if q.ringcap = 0 then 0 else (q.ringHead + i) % q.ringcap) 0
    (a.1 ++ [r.1], r.2)) (q.chip, s)

/-- PSWITCH_ACTIVATE: with every strand at a stop point, the new image becomes active. -/
def execPswitchActivate (part : Fin 8) (pipe : Nat) (s : State) : EngEnds :=
  match s.pipeline part pipe with
  | none => .next s
  | some p =>
    match p.switch with
    | none => .next s
    | some w =>
      if !(s.strandsOf part pipe).isEmpty || p.cause.isSome then .next s else
      let kept := if w.keep then p.queues.zipIdx.foldl (fun (a : List (Nat × QEntry) × State) q =>
          let e := allEntries a.2 part pipe q.1
          (a.1 ++ e.1.map fun e => (q.2, e), e.2)) ([], s) else ([], s)
      let s := kept.2.modPipe part pipe fun p => { p with toPipeImage := w.image, switch := none }
      let s := kept.1.foldl (fun s e => enterQueue s part pipe e.1 e.2.bytes e.2.mdata true) s
      .next (completePacket part w.queueK w.packet (updateClosed s part pipe))

end

end Sys2Proof.Machine
end

