-- ==== Sys2Proof/Machine/Regulator.lean ====
section
/-! DEFINITION. The Regulator and the Remontoire: dispatch decisions, pickup of continuation records, re-evaluation of
waiting records, refill (01 R18 R22, 04 R111 R129, 05 R162 R187, 06 R216, 13 R403 R405 R411 to R416, 14 R423 R432). -/

namespace Sys2Proof.Machine

noncomputable section

/-! Idle cores and frames. -/

/-- The idle cores of the partition's cluster of ordinal `k` (13 R411). -/
def idleIn (s : State) (c : PartCfg) (k : Nat) : List Nat :=
  ((List.range 9).map fun site => coreNumber (c.clusters.getD k 0) site).filter fun n =>
    (s.coreAt n).run == .idle && !isFirmware n && s.inService n && !(s.die (dieOf n)).hot

/-- The cores of a cluster that could run a strand. -/
def capableIn (s : State) (c : PartCfg) (k : Nat) : Nat :=
  (((List.range 9).map fun site => coreNumber (c.clusters.getD k 0) site).filter fun n => !isFirmware n && s.inService n).length

def permitBit (m k : Nat) : Bool := m == 0 || m / 2 ^ k % 2 == 1

/-- The cluster ordinals that CMASK and an AFFINITY permit (13 R396 R408). -/
def permitted (c : PartCfg) (p : Pipeline) (aff : Nat) : List Nat :=
  (List.range c.clusters.length).filter fun k => permitBit p.cmask k && permitBit aff k

/-- The records of a pipeline with their bytes and the time each became ready. -/
def readRecs (s : State) (part : Fin 8) (p : Pipeline) : List (Word × Option Nat × List Byte) :=
  p.recs.map fun r => (r.1, r.2, (devRead (partAgent s part s.core.id 2) r.1 64 s).1)

/-- The frames of the pool that no record of the pipeline names and no strand of it holds (13 R412). -/
def freeFrames (s : State) (part : Fin 8) (p : Pipeline) : List Word :=
  let named := (readRecs s part p).map (fun r => fw r.2.2 8) ++ (s.strandsOf part.val p.pipe).map fun k => (s.coreAt k).frame
  ((List.range p.nframes).map fun i => p.framepool + BitVec.ofNat 64 (98304 * i)).filter fun f => !named.contains f

/-! Candidates (13 R411 R412 R413). -/

/-- A candidate: records to pick up together, or a stage instance. -/
structure Cand where
  pipe : Nat
  prio : Nat
  stage : Option Nat
  recs : List Word
  size : Nat
  frames : Nat
  since : Nat
  key : Int
  aff : Nat
  gang : Nat

/-- The record is NEW or READY with RUN clear. -/
def dispatchable (b : List Byte) : Bool := decide (field b 24 1 ≤ 1) && field b 18 1 / 4 % 2 == 0

/-- The ready records of a pipeline as candidates: single ones, and gangs all of whose members are ready (13 R414). -/
def readyCands (s : State) (part : Fin 8) (p : Pipeline) : List Cand :=
  let waits := fun (a : Word) => p.misses.any fun m => m.1 == a
  let rs := (readRecs s part p).filterMap fun r => r.2.1.bind fun t =>
    if dispatchable r.2.2 && !waits r.1 then some (r.1, t, r.2.2) else none
  let aff := fun (b : List Byte) => match p.stages[field b 16 2]? with | some g => g.affinity | none => 0
  let need := fun (bs : List (List Byte)) => (bs.filter fun b => field b 8 8 == 0).length
  rs.filterMap fun r =>
    let b := r.2.2
    let n := field b 19 1
    if n ≤ 1 ∨ 8 < n then some ⟨p.pipe, field b 18 1 % 4, none, [r.1], 1, need [b], r.2.1, 0, aff b, 0⟩
    else if field b 26 1 ≠ 0 then none
    else
      let ms := (List.range n).filterMap fun i => rs.find? fun (x : Word × Nat × List Byte) =>
        field x.2.2 20 4 == field b 20 4 && field x.2.2 19 1 == n && field x.2.2 26 1 == i
      if ms.length = n then some ⟨p.pipe, field b 18 1 % 4, none, ms.map fun x => x.1, n, need (ms.map fun x => x.2.2),
        (ms.map fun x => x.2.1).foldl max 0, 0, aff b, field b 20 4⟩ else none

/-- min(occupancy, HIGH) and HIGH of a queue: f(q) as a ratio. -/
def SQueue.ratio (q : SQueue) : Nat × Nat := (min q.occupancy q.high, q.high)

/-- The greatest ratio of a list of queues, 0 for none. -/
def topRatio (qs : List SQueue) : Nat × Nat :=
  qs.foldl (fun a q => let r := q.ratio; if a.1 * r.2 < r.1 * a.2 then r else a) (0, 1)

/-- The key of a stage: floor(256 (IN - OUT)) + 16 DEF (13 R413). -/
def stageKey (ins outs : List SQueue) (deficit : Nat) : Int :=
  let i := topRatio ins
  let o := topRatio outs
  (256 * ((i.1 * o.2 : Nat) - (o.1 * i.2 : Nat) : Int)) / ((i.2 * o.2 : Nat) : Int) + 16 * deficit

/-- The queues that a stage names. -/
def queuesOf (p : Pipeline) (ids : List Nat) : List SQueue := (ids.filter fun q => q != 0xFF).filterMap fun q => p.queues[q]?

/-- An unclaimed entry stands in the queue. -/
def SQueue.hasEntry (q : SQueue) : Bool := q.chip.any (fun e => e.claimed.isNone) || decide (0 < q.ringCount)

/-- The eligible stages as candidates (13 R412). -/
def stageCands (s : State) (part : Fin 8) (p : Pipeline) : List Cand :=
  let recs := (freeRecords s part p).length
  let frames := (freeFrames s part p).length
  p.stages.zipIdx.filterMap fun g =>
    let ins := queuesOf p g.1.inq
    let outs := queuesOf p g.1.outq
    if ins.any SQueue.hasEntry && !(outs.any fun q => q.latched) && decide (stageStrands s part p g.2 < g.1.maxinst) &&
       decide (g.1.gang ≤ recs) && decide (g.1.gang ≤ frames)
    then some ⟨p.pipe, g.1.prio, some g.2, [], g.1.gang, g.1.gang, 0, stageKey ins outs g.1.deficit, g.1.affinity, 2 ^ 32 + g.2⟩
    else none

/-- The Regulator starts strands of the pipeline (13 R419, 14 R426 R440). -/
def Pipeline.open_ (p : Pipeline) (migr : Bool) : Bool := p.cause.isNone && p.switch.isNone && !(migr && p.migrating)

/-- The place of a candidate in the order of 13 R411: priority, records before stages, age or key, then PIPE and stage. -/
def Cand.place (x : Cand) : Nat :=
  (3 - x.prio) * 2 ^ 200 + match x.stage with
    | none => x.since
    | some g => 2 ^ 190 + ((2 ^ 60 : Int) - x.key).toNat * 2 ^ 32 + x.pipe * 32 + g

/-- Every candidate of a partition, the winner first. -/
def partCands (s : State) (part : Fin 8) (c : PartCfg) : List Cand :=
  sortOn Cand.place ((s.part part).pipes.flatMap fun (e : Nat × Pipeline) =>
    if e.2.open_ c.migr then
      (readyCands s part e.2).filter (fun x => decide (x.frames ≤ (freeFrames s part e.2).length)) ++ stageCands s part e.2 else [])

/-! A core changes hands (04 R111 R129). -/

/-- What a core of another pipeline, partition or split brings its new owner: a zeroed scratchpad, matrix registers that are ON and invalid,
an empty L1; across partitions also no shadow store and no TLB entry. Of the same pipeline its matrix registers are GATED (07 R222). -/
def takeOver (part : Fin 8) (pipe l1n : Nat) (s : State) : State :=
  let c := s.core
  let other := c.launch != some (part.val, pipe)
  let s := if other || c.l1n != l1n then s.zeroBlocks (scratchKey c.id 0) (2 ^ 21 / 64) else s
  let away := !(c.launch.any fun x => x.1 == part.val)
  { s with core := { s.core with
      l1n := l1n, l1 := if other || c.l1n != l1n then [] else c.l1,
      r := { c.r with m := if other then zeroedMatrix else Vector.replicate 16 gatedReg },
      shadow := if away then [] else c.shadow, tlb := if away then [] else c.tlb } }

/-! Pickup (01 R18, 13 R403 R405, 14 R423 R432). -/

/-- SINFO of a strand (05 R151). -/
def sinfoOf (b : List Byte) (steal : Bool) : Word :=
  BitVec.ofNat 64 (field b 16 2 % 32 + field b 28 2 * 2 ^ 16 + field b 30 1 % 8 * 2 ^ 32 + field b 19 1 % 16 * 2 ^ 35 +
    field b 26 1 % 8 * 2 ^ 39 + boolBit steal * 2 ^ 48)

/-- The supervisor registers at a pickup: those of the configuration are loaded (14 R423). -/
def pickupSup (t : SupRegs) (c : PartCfg) : SupRegs :=
  { t with tvec := c.tvec, wdlimit := c.wdlimit, qmax := c.qmax, maxred := c.maxred, troot := c.troot, tcmp := c.tcmp,
           tstatus := 0, trootNext := none }

/-- The core of a strand at its pickup, before its context: what belongs to the core stays. -/
def pickupCore (k : Core) (c : PartCfg) (b : List Byte) (at_ frame : Word) (spill : Word × Nat) (steal : Bool) : Core :=
  { resetCore k.id with
    run := .strand, beat := k.beat, seq := k.seq, r := { zeroRegs with m := k.r.m }, sup := pickupSup k.sup c,
    tlb := if k.sup.troot = c.troot then k.tlb else k.tlb.filter (fun e => leafG e.leaf), l1n := k.l1n, l1 := k.l1,
    shadow := k.shadow, samples := k.samples, pend := k.pend.filter (fun e => e.1 == Cause.hostRequest), record := b, crec := at_,
    sinfo := sinfoOf b steal, frame := frame, spill := spill.1, spillSize := spill.2, launch := none,
    eng := { resetEngines with disabled := k.eng.disabled, nextSeq := k.eng.nextSeq } }

/-- The parameter store of a template: the bound windows in order, read from their sources (05 R162). -/
def readParams (ag : Agent) (t : List Byte) (s : State) : List Host.Cell × State :=
  let r := (List.range 8).foldl (fun (a : List Byte × State) k =>
    let w := fw t (16 * k + 8)
    if bitAt w 63 then
      let d := devRead ag (fw t (16 * k)) (bits w 0 13) a.2
      (a.1 ++ d.1, d.2)
    else a) ([], s)
  ((r.1.zipIdx.map fun x => (x.2, x.1)).filter fun x => x.2 ≠ 0, r.2)

/-- A fresh strand: invalid registers, the template, ARGP in x1 of a NEW record (13 R403, 01 R16). -/
def freshContext (t b : List Byte) (s : State) : State :=
  let ps := readParams (coreAgent s 2) t s
  let s := ps.2
  let win := fw b 32
  let r := { zeroRegs with m := s.core.r.m, pc := fw b 0, sr := { zeroStrandRegs with win := win, vctl := fw t 664 } }
  let r := if field b 24 1 = Status.new then { r with x := vset r.x 1 (fw b 40), xv := 2 } else r
  let tiles : Vector Tile 64 := Vector.ofFn fun i => Tile.ofWord (fw t (128 + 8 * i.val))
  { s with core := { s.core with
      r := r, bnd := r, pwbase := Vector.ofFn (fun i => fw t (16 * i.val)), pwsize := Vector.ofFn (fun i => fw t (16 * i.val + 8)),
      pstore := ps.1, tiles := tiles, tilesOpen := tiles,
      log := { resetLog with base := fw t 640, size := fw t 648, mode := fw t 656, horizon := win } } }

/-- The trap registers and the step bit of a frame written with TRAPPED (14 R428 R429). -/
def frameSup (b : List Byte) (t : SupRegs) : SupRegs :=
  if field b 6 1 / 2 % 2 = 0 then t else
  { t with tcause := fw b 32, tpc := fw b 40, tfpc := fw b 48, tslot := fw b 56, twin := fw b 64, taddr := fw b 72, targ := fw b 80,
           tstatus := fw b 88 &&& 8, tloop := Vector.ofFn fun i => fw b (128 + 8 * i.val) }

/-- A strand resumed from its frame (14 R432): the context is the frame's, the place and the spill area the pickup's. The
commands are reissued. -/
def resumeContext (f : FrameData) (b : List Byte) (s : State) : State :=
  let k := s.core
  let r := restoreFrame f s
  let s := r.2
  let put := fun (g : Regs) => { g with pc := fw b 0, sr := { g.sr with win := fw b 32 } }
  let regs := put s.core.r
  let s := { s with core := { s.core with
    r := regs, bnd := regs, sinfo := k.sinfo, crec := k.crec, sup := frameSup f.low k.sup,
    spill := if k.spill = 0 then s.core.spill else k.spill, spillSize := if k.spill = 0 then s.core.spillSize else k.spillSize } }
  reissue r.1 s

/-- The scratchpad entries of a record, in table order, tags and poison included (13 R404 R405). -/
def loadScratch (part : Fin 8) (es : List (Nat × Nat × Nat × Word × Word)) (s : State) : State :=
  es.foldl (fun s e =>
    let ag := partAgent s part s.core.id 2
    let d := devRead ag e.2.2.2.1 e.2.2.1 s
    let n := e.2.2.1 / 64
    let side := if e.2.2.2.2 = 0 then (List.replicate (4 * n) 0, d.2) else devRead ag e.2.2.2.2 (4 * n) d.2
    let key := scratchKey s.core.id e.2.1
    (List.range n).foldl (fun s i => s.setMdata (key + 64 * i) (BitVec.ofNat 25 (field side.1 (4 * i) 4))) (side.2.poke key d.1)) s

/-- FULL logging records the pickup (12 R362 R363): it stands before the first window. Where the log has no room it stands in
that window. -/
def logPickup (b : List Byte) (s : State) : State :=
  if !s.logOn 2 then s else
  let e : LogEnt :=
    { kind := Ent.inrec, flags := 0, src := 7, win := s.core.r.sr.win, pc := s.core.r.pc, body := n8 2 ++ n8 s.core.id ++ b }
  let hold := fun (s : State) => s.modWin fun w => { w with held := [.entry e.kind false e.pc e.src e.body] }
  match logReady [e] s with
  | (none, t) => logAppend t e
  | (some _, t) => hold t

/-- The spill area of a frame of the pool (01 R21, 13 R407). -/
def poolSpill (p : Pipeline) (frame : Word) : Word × Nat :=
  let off := (frame - p.framepool).toNat
  if p.spillpool ≠ 0 ∧ off % 98304 = 0 ∧ off / 98304 < p.nframes then
    (p.spillpool + BitVec.ofNat 64 (off / 98304 * p.spilln * 262144), p.spilln * 262144) else (0, 0)

/-- The focused core picks up a record that has passed its checks: RUN is set, the core changes hands, the context is made or
restored. A strand in replay goes on in replay and logs nothing (12 R374). -/
def pickupHere (part : Fin 8) (p : Pipeline) (c : PartCfg) (at_ frame : Word) (s : State) : State :=
  let old := (devRead (partAgent s part s.core.id 2) at_ 64 s).1
  let b := recSeal (recSet old 18 1 (field old 18 1 % 4 + 4 + field old 18 1 / 8 * 8))
  let s := devWrite (partAgent s part s.core.id 2) at_ b s
  let s := s.readyTime part.val p.pipe at_ none
  let s := takeOver part p.pipe p.l1n s
  let st := p.stages.getD (field b 16 2) default
  let s := { s with core := pickupCore s.core c b at_ frame (poolSpill p frame) st.steal }
  let index := p.rectab
  let mine := p.sptab.filter fun e => index + BitVec.ofNat 64 (64 * e.1) == at_
  let s := loadScratch part mine s
  let s := if field old 8 8 = 0 then freshContext st.template b s
    else
      let f := readFrame s frame
      resumeContext f.1 b f.2
  match (s.part part.val).replays.find? fun e => e.1 == at_ with
  | none => logPickup old s
  | some e =>
    let s := s.modPart part.val fun q => { q with replays := q.replays.filter fun x => x.1 != at_ }
    { s with core := { s.core with replay := some e.2 } }

/-- A record picked up by core `k`. -/
def pickup (part : Fin 8) (p : Pipeline) (c : PartCfg) (k : Nat) (at_ frame : Word) (s : State) : State :=
  let me := s.core.id
  (pickupHere part p c at_ frame (s.focus k)).focus me

/-- Why a record may not be picked up: the checks of 01 R18, then its frame (14 R432). -/
def pickupCause (s : State) (part : Fin 8) (p : Pipeline) (at_ : Word) : Option (BitVec 8) :=
  let b := (devRead (partAgent s part s.core.id 2) at_ 64 s).1
  match recordCause b part p.stages.length with
  | some c => some c
  | none =>
    let f := fw b 8
    if f = 0 then none else
    let ag := partAgent s part s.core.id 3
    let low := (devRead ag f 0x8000 s).1
    let high := (devRead ag (f + 0x8000) 0x10000 s).1
    if frameOk ⟨low, high⟩ then none else some Cause.contextRestore

/-- What a pickup reads and writes: its record; then its frame or its template's parameter sources, and the DATA and SIDE of its scratchpad
entries (05 R162, 13 R405, 14 R432). -/
def pickupAccesses (s : State) (part : Fin 8) (p : Pipeline) (at_ : Word) : List (AKind × Word × Nat) :=
  let b := (devRead (partAgent s part s.core.id 2) at_ 64 s).1
  let t := (p.stages.getD (field b 16 2) default).template
  let mine := p.sptab.filter fun e => p.rectab + BitVec.ofNat 64 (64 * e.1) == at_
  [(.read, at_, 64), (.write, at_, 64)] ++
  (if fw b 8 ≠ 0 then [(.read, fw b 8, 98304)] else
    (List.range 8).filterMap fun k => if bitAt (fw t (16 * k + 8)) 63 then some (.read, fw t (16 * k), bits (fw t (16 * k + 8)) 0 13) else none) ++
  mine.flatMap fun e => (AKind.read, e.2.2.2.1, e.2.2.1) :: (if e.2.2.2.2 = 0 then [] else [(.read, e.2.2.2.2, e.2.2.1 / 16)])

/-- The record's page holds its write back for now (04 R118). -/
def heldBack (ag : Agent) (va : Word) (s : State) : Bool := match locate ag .write false va s with
  | .wait _ => true
  | _ => false

/-- The first page of some accesses that an agent cannot reach: the cause, the address and the kind, and whether software can resolve it. A
write that the page only holds back counts as reached. -/
def firstMiss (ag : Agent) (s : State) (es : List (AKind × Word × Nat)) : Option (PendingFault × Bool) :=
  es.findSome? fun e => (pagesOf e.2.1 e.2.2).findSome? fun x => match locate ag e.1 false x.1 s with
    | .ok _ _ => none
    | .trap c a _ => some (⟨a, c, e.1.code, 0, 0, none⟩, false)
    | .fault c a _ => some (⟨a, c, e.1.code, 0, 0, none⟩, true)
    | .wait _ => none

/-- The frames of records: their own, or free ones of the pool in order. -/
def giveFrames (s : State) (part : Fin 8) : List Word → List Word → List Word
  | [], _ => []
  | r :: rs, free =>
    let f := fw (devRead (partAgent s part s.core.id 2) r 64 s).1 8
    if f = 0 then free.headD 0 :: giveFrames s part rs (free.drop 1) else f :: giveFrames s part rs free

/-- Records start together on distinct cores; the first that waits for a page holds them back, and the first failing one faults the pipeline
(01 R22, 04 R119, 13 R414). -/
def startRecords (part : Fin 8) (c : PartCfg) (pipe : Nat) (recs : List Word) (cores : List Nat) (s : State) : State :=
  match s.pipeline part pipe with
  | none => s
  | some p =>
    match (recs.zip cores).findSome? fun r => (firstMiss (partAgent s part r.2 2) s (pickupAccesses s part p r.1)).map fun m => (r, m) with
    | some (r, m) => if m.2 then stallPickup part pipe r.1 r.2 m.1 s else pickupFault part pipe r.1 m.1.cause true s
    | none =>
    if recs.any fun r => heldBack (partAgent s part s.core.id 2) r s then s else
    match recs.findSome? fun r => (pickupCause s part p r).map fun x => (r, x) with
    | some (r, x) => pickupFault part pipe r x (x == Cause.contextRestore) s
    | none => (recs.zip ((giveFrames s part recs (freeFrames s part p)).zip cores)).foldl (fun s x => pickup part p c x.2.2 x.1 x.2.1 s) s

/-! The decision (13 R411 R413 R414). -/

/-- The records of a stage instance: GANG slots of the pool, filled as by FORK. -/
def makeInstance (part : Fin 8) (p : Pipeline) (g : Nat) (s : State) : List Word × State :=
  let st := p.stages.getD g default
  let slots := (freeRecords s part p).take st.gang
  let gid := if 1 < st.gang then p.nextGid else 0
  let s := slots.zipIdx.foldl (fun s x =>
    addRecord part p.pipe x.1 (newRecord st.entry g st.prio st.gang gid x.2 p.pipe part.val 0) s) s
  (slots, s.modPipe part.val p.pipe fun p => { p with nextGid := p.nextGid + (if 1 < st.gang then 1 else 0) })

/-- The chosen stage's DEF is cleared, and that of every other eligible stage of its priority rises (13 R413). -/
def chargeDeficits (part : Fin 8) (x : Cand) (all : List Cand) (s : State) : State :=
  all.foldl (fun s y => match y.stage with
    | none => s
    | some g =>
      if y.prio ≠ x.prio then s else
      let won := decide (y.pipe = x.pipe) && y.stage == x.stage
      s.modPipe part.val y.pipe fun p => { p with stages := p.stages.mapIdx fun i v =>
        if i = g then { v with deficit := if won then 0 else min 65535 (v.deficit + 1) } else v }) s

/-- The reservation that a gang candidate holds. -/
def Cand.mark (x : Cand) : Nat := x.gang

/-- The clusters that another gang has reserved. -/
def reservedFrom (s : State) (part : Fin 8) (x : Cand) : List Nat :=
  (s.part part).pipes.flatMap fun e => e.2.reserve.filterMap fun r => if e.1 = x.pipe ∧ 1 < x.size ∧ r.2 = x.mark then none else some r.1

/-- Starts a candidate on cores of a cluster. -/
def startCand (part : Fin 8) (c : PartCfg) (x : Cand) (all : List Cand) (cores : List Nat) (s : State) : State :=
  match s.pipeline part x.pipe with
  | none => s
  | some p =>
    let s := if p.reserve.any fun r => decide (1 < x.size) && r.2 == x.mark then
        s.modPipe part x.pipe fun p => { p with reserve := p.reserve.filter fun r => r.2 != x.mark } else s
    match x.stage with
    | none => startRecords part c x.pipe x.recs cores s
    | some g =>
      let m := makeInstance part p g (chargeDeficits part x all s)
      startRecords part c x.pipe m.1 cores m.2

/-- One candidate's turn: it starts (true), or faults its pipeline, or a gang reserves the permitted cluster with the most idle
cores, or it waits. -/
def tryCand (part : Fin 8) (c : PartCfg) (all : List Cand) (x : Cand) (s : State) : Bool × State :=
  match s.pipeline part x.pipe with
  | none => (false, s)
  | some p =>
    let perm := permitted c p x.aff
    let ords := perm.filter fun k => !(reservedFrom s part x).contains k
    match ords.find? fun k => decide (x.size ≤ (idleIn s c k).length) with
    | some k =>
      let t := startCand part c x all ((idleIn s c k).take x.size) s
      (decide (t ≠ s), t)
    | none =>
      if x.size ≤ 1 then (false, s)
      else if perm.all fun k => decide (capableIn s c k < x.size) then (true, pipelineFault part x.pipe Cause.gangLost 0 none none [] s)
      else if p.reserve.any fun r => r.2 == x.mark then (false, s)
      else
        let best := ords.foldl (fun (a : Option Nat) k => match a with
          | none => some k
          | some j => if (idleIn s c j).length < (idleIn s c k).length then some k else some j) none
        (false, s.modPipe part x.pipe fun p => { p with reserve := p.reserve ++ (best.map fun k => (k, x.mark)).toList })

/-- The partCands in order, until one starts. -/
def decideOver (part : Fin 8) (c : PartCfg) (all : List Cand) : List Cand → State → Bool × State
  | [], s => (false, s)
  | x :: r, s =>
    match tryCand part c all x s with
    | (true, s) => (true, s)
    | (false, s) => decideOver part c all r s

/-- A reservation whose gang is no candidate any more is given up. -/
def dropStale (part : Fin 8) (all : List Cand) (s : State) : State :=
  s.modPart part fun v => { v with pipes := v.pipes.map fun (e : Nat × Pipeline) =>
    (e.1, { e.2 with reserve := e.2.reserve.filter fun r => all.any fun x => decide (1 < x.size) && x.pipe == e.1 && x.mark == r.2 }) }

/-- The Regulator dispatches strands of the partition: enabled, loaded, and not held by a CKPT of its state. -/
def State.dispatches (s : State) (p : Fin 8) : Bool :=
  match s.cfg p with
  | none => false
  | some c => c.flags.getLsbD 0 && (s.part p).resident && !(s.part p).halted

/-- One decision of a partition. -/
def decidePart (s : State) (p : Fin 8) : Bool × State :=
  match s.cfg p with
  | none => (false, s)
  | some c =>
    if !s.dispatches p then (false, s) else
    let all := partCands s p c
    decideOver p c all all (dropStale p all s)

/-- The first partition, in number order, for which something starts. -/
def decideFirst : List (Fin 8) → State → State
  | [], s => s
  | p :: r, s =>
    match decidePart s p with
    | (true, s) => s
    | (false, s) => decideFirst r s

/-- DISPATCH_DECISION. -/
def execDispatchDecision (s : State) : EngEnds := .next (decideFirst (List.finRange 8) s)

/-! Waiting records (13 R415, 05 R187, 06 R216). -/

/-- A record becomes READY. -/
def makeReady (part : Fin 8) (pipe : Nat) (at_ : Word) (b : List Byte) (s : State) : State :=
  (devWrite (partAgent s part s.core.id 2) at_ (recSeal (recSet b 24 1 Status.ready)) s).readyTime part.val pipe at_ (some s.clock)

/-- The condition of a BLOCKED record holds: at memory, or at a device object. A walk that fails ends the wait. -/
def blockedMet (s : State) (part : Fin 8) (p : Pipeline) (b : List Byte) : Bool :=
  let a := fw b 48
  let v : W32 := BitVec.ofNat 32 (field b 56 4)
  if bitAt a 63 then
    (if bits a 60 3 = 0 then
      waitMet (sget (if (s.part part.val).resident then s.dev.barriers else (s.part part.val).barriers) zeroBarrier
        (32 * (bits a 11 2 + 4 * bits a 8 3) + bits a 0 5)).gen v
    else match p.queues[bits a 0 6]? with
      | some q => q.hasEntry || q.closed
      | none => true)
  else match readDirect (partAgent s part s.core.id 4) a 4 s with
    | .ok ps _ => waitMet (BitVec.ofNat 32 (ofBytes (bytesOf ps))) v
    | .wait _ => false
    | _ => true

/-- BLOCKED_REEVALUATION: every BLOCKED record of a running pipeline whose condition holds becomes READY. -/
def execBlockedReevaluation (part : Fin 8) (pipe : Nat) (s : State) : EngEnds :=
  match s.pipeline part pipe with
  | none => .next s
  | some p => .next ((readRecs s part p).foldl (fun s r =>
      if field r.2.2 24 1 == Status.blocked && field r.2.2 18 1 / 4 % 2 == 0 && blockedMet s part p r.2.2 then makeReady part pipe r.1 r.2.2 s
      else s) s)

/-- SUSPENDED_POLL: records that software has made READY with a correct CRC become ready records. -/
def execSuspendedPoll (part : Fin 8) (pipe : Nat) (s : State) : EngEnds :=
  match s.pipeline part pipe with
  | none => .next s
  | some p => .next ((readRecs s part p).foldl (fun s r =>
      let b := r.2.2
      if r.2.1.isNone && field b 24 1 == Status.ready && field b 18 1 / 4 % 2 == 0 && field b 60 4 == crc32c (b.take 60)
      then s.readyTime part.val pipe r.1 (some s.clock) else s) s)

/-- REMONTOIRE_REFILL (13 R416). -/
def execRemontoireRefill (part : Fin 8) (pipe q : Nat) (s : State) : EngEnds := .next (refill s part pipe q)

end

end Sys2Proof.Machine
end

