-- ==== Sys2Proof/Machine/Ckpt.lean ====
section
/-! DEFINITION. The CKPT packet (14 R442): it stops a partition's strands and writes its pages to host memory. -/

namespace Sys2Proof.Machine

noncomputable section

/-- The strands of a partition that are on cores, and those that a PSWAP took off them running. -/
def State.partRuns (s : State) (p : Fin 8) : List Nat :=
  (s.liveCores.filter fun k => let c := s.coreAt k; c.holdsStrand && c.partOf == p && !c.record.isEmpty)

def Partition.swappedRuns (q : Partition) : Bool := q.swapOut.any fun e => e.2.holdsStrand && !e.2.record.isEmpty

/-- STATE: every strand is asked to stop as under R426, and dispatch is withheld. -/
def ckptStop (p : Fin 8) (s : State) : State :=
  let s := (s.partRuns p).foldl (askStop Status.ready Cause.migrationStop) s
  s.modPart p.val fun q => { q with halted := true, swapOut := q.swapOut.map fun (e : Nat × Core) => (e.1, e.2.asked Status.ready Cause.migrationStop) }

/-- Every pipeline of the partition writes its state block, once no strand of it is left; the last strand stopped has written that of its
own already (14 R426). -/
def ckptBlocks (p : Fin 8) (s : State) : State := (s.part p.val).pipes.foldl (fun s e => writeStateBlock s p e.1) s

/-- The place of partition-relative page `i`. -/
def PartCfg.pageKey (c : PartCfg) (i : Nat) : Nat := c.granules.getD (i / 16384) 0 * 2 ^ 30 + i % 16384 * 65536

/-- The dirty bit of page `i`; a bitmap that does not translate shows it set. -/
def pageDirty (p : Fin 8) (c : PartCfg) (i : Nat) (s : State) : Bool × State :=
  match areaKey s p 3 (c.areas.getD 3 0 + BitVec.ofNat 64 (i / 8)) with
  | (some k, s) => (decide ((getByte s.mem k).toNat / 2 ^ (i % 8) % 2 = 1), s)
  | (none, s) => (true, s)

/-- The side entries of the blocks of a page, as of R261. -/
def pageSide (s : State) (k : Nat) : List Byte :=
  (List.range 1024).flatMap fun j => toBytes 4 (s.mdata (k + 64 * j)).toNat

/-- Writes page `i` to host memory, with its side entries at `side` if asked for. -/
def ckptPage (p : Fin 8) (die : Nat) (c : PartCfg) (target : Nat) (side : Option Nat) (only : Bool) (s : State) (i : Nat) : State :=
  let d := if only then pageDirty p c i s else (true, s)
  if !d.1 then d.2 else
  let s := if only then clearDirty p c i d.2 else d.2
  let k := c.pageKey i
  let s := (List.range 1024).foldl (fun s j =>
    noteAccess (noteAccess s die none 4 (k + 64 * j) false) die none 4 (hostKey (target + 65536 * i + 64 * j)) true) s
  let tags := pageSide s k
  let s := { s with mem := movePlaces initialByte k (hostKey (target + 65536 * i)) 65536 s.mem }
  match side with
  | none => s
  | some b => s.poke (hostKey (b + 4096 * i)) tags

/-- MEMORY: every covered page is written, each write before the packet completes. -/
def ckptMemory (p : Fin 8) (q : CmdQueue) (x : Packet) (s : State) : State :=
  match s.cfg p.val with
  | none => s
  | some c =>
    let b := x.bytes
    let cfl := field b 41 1
    let all := s.pagesOfPart p
    let n := if field b 48 8 = 0 then all else field b 48 8
    let target := field b 32 8
    let side := if cfl / 2 % 2 = 1 then some (target + 65536 * n) else none
    (List.range n).foldl (ckptPage p q.fdie.val c target side (cfl % 2 = 1)) s

/-- The packet's part after the strands have stopped. -/
def ckptFinish (p : Fin 8) (k : Nat) (q : CmdQueue) (x : Packet) (s : State) : State :=
  let s := if x.acted then ckptBlocks p s else s
  let s := if field x.bytes 40 1 = 1 then s else ckptMemory p q x s
  let s := completePacket p k x.order s
  if field x.bytes 41 1 / 4 % 2 = 1 then s.modPart p.val fun v => { v with halted := false } else s

/-- A started CKPT ends once no strand that it stopped is left. -/
def ckptEnd (p : Fin 8) (k : Nat) (s : State) : State :=
  match s.cq p k with
  | none => s
  | some q =>
    match startedOf q 11 with
    | none => s
    | some x =>
      if x.acted && (!(s.partRuns p).isEmpty || (s.part p.val).swappedRuns) then s else ckptFinish p k q x s

/-- CKPT starts with the stop of the strands, if its MODE has STATE, and ends when they have stopped. -/
def execCkpt (part : Fin 8) (k : Fin 64) (s : State) : EngEnds :=
  match startOf part k 11 s fun _ x s =>
      let s := startHead part k s
      if field x.bytes 40 1 = 0 then s
      else ckptStop part (s.modCq part k fun q => { q with
        packets := q.packets.map fun y => if y.order = x.order then { y with acted := true } else y }) with
  | .next s => .next (ckptEnd part k s)
  | e => e

end

end Sys2Proof.Machine
end

