-- ==== Sys2Proof/Machine/Host.lean ====
section
/-! DEFINITION. The host: register blocks, partition configuration, CXL.mem accesses and snoops (04 R112 R129 R146 R147, 13
R389 R390, 14 R433 R458, 15 R444 to R446 R453). -/

namespace Sys2Proof.Machine

noncomputable section

/-! Register blocks (15 R446). -/

/-- Partition K's register block answers: its PCFGK is VALID. -/
def State.blockValid (s : State) (p : Fin 8) : Bool := bitAt (vget (s.die 0).pcfg p.val) 0

/-- DB: a doorbell is stored; its low half is WIDX. A value that claims more lines than the ring holds is a fault of an enabled queue
(13 R390 R391). That of a queue which no descriptor sets is stored and nothing more. -/
def execDb (part : Fin 8) (k : Fin 64) (v : Word) (s : State) : EngEnds :=
  if !s.blockValid part then .next s else
  let s := s.modPart part fun p => { p with dbs := sset p.dbs 0 k (BitVec.ofNat 64 (bits v 0 32)) }
  let s := s.modCq part k fun q => { q with widx := BitVec.ofNat 32 v.toNat }
  match s.cq part k with
  | none => .next s
  | some q => .next (if q.enable && q.overshoot then queueFaultOf part k Cause.packetMalformed none 0 s else s)

/-- DBGDB: the debug doorbell is stored, the firmware core is told, and the debug queue's area is walked again (14 R458). -/
def execDbgdb (part : Fin 8) (v : Word) (s : State) : EngEnds :=
  if !s.blockValid part then .next s else
  let s := s.modPart part fun p => { p with dbgW := BitVec.ofNat 64 (bits v 0 32) }
  let s := match s.cfg part with
    | some c => if (s.part part).areaDown.getLsbD 5 then (areaKey s part 5 (c.areas.getD 5 0)).2 else s
    | none => s
  .next (s.fwEvent 0 0)

/-- A core with HOST_REQUEST pending. -/
def Core.hostRequest (c : Core) : Core :=
  if c.pend.any fun e => e.1 == Cause.hostRequest then c else { c with pend := c.pend ++ [(Cause.hostRequest, 0)] }

/-- HREQn: the value is stored; bit 0 makes HOST_REQUEST pending on the core, or on the context that a PSWAP took off it. A
site that is no work core of the partition discards the write. -/
def execHreq (part : Fin 8) (n : Nat) (v : Word) (s : State) : EngEnds :=
  if !s.blockValid part then .next s else
  match s.cfg part with
  | none => .next s
  | some c =>
    let core := coreNumber (c.clusters.getD (n / 9) 0) (n % 9)
    if c.clusters.length ≤ n / 9 ∨ isFirmware core ∨ isSpare core then .next s else
    let s := s.modPart part fun p => { p with hreq := sset p.hreq 0 n (v ||| (sget p.hreq 0 n &&& 1)) }
    if !bitAt v 0 then .next s
    else if (s.part part).resident then .next (s.modCoreAt core Core.hostRequest)
    else .next (s.modPart part fun p =>
      { p with swapOut := p.swapOut.map fun (e : Nat × Core) => if e.1 = core then (e.1, e.2.hostRequest) else e })

/-- CFGREQ: the address is stored; bit 0 posts the request to the firmware core of die 0. -/
def execCfgreq (v : Word) (s : State) : EngEnds :=
  let w := BitVec.ofNat 64 (bits v 6 50 * 64 + bits (s.dev.cfgreq ||| v) 0 1)
  let s : State := { s with dev := { s.dev with cfgreq := w } }
  .next (if bitAt v 0 then s.fwEvent 0 3 else s)

/-- A write to any other offset of the device's block is ignored: its other registers are read-only. One to an HDM decoder or an MSI-X vector
sets it (15 R444; log 128). -/
def execDeviceRegisterWrite (off : HostReg) (_v : Word) (s : State) : EngEnds :=
  match off with
  | .bar0 _ => .next s
  | .decoder k d => .next { s with dev := { s.dev with hdm := s.dev.hdm.set k d } }
  | .vector k v => .next { s with dev := { s.dev with msix := s.dev.msix.set k v } }

/-! The device's registers and its attestation report (15 R446 R453). -/

def deviceId64 : Word := BitVec.ofNat 64 (Config.deviceId.toNat + 0x5154 * 2 ^ 48)

/-- DSTAT. -/
def State.dstat (s : State) : Word :=
  BitVec.ofNat 64 (((List.range 4).map fun d => boolBit (s.die d).up * 2 ^ d).sum + 16 * boolBit s.dev.ready +
    32 * boolBit (s.dev.dies.toList.any fun d => d.hot))

/-! Signed objects (15 R452). -/

/-- The sizes of the fields after the body: SVN, the two public keys, the two signatures. -/
def signedSizes : List Nat := [4, 32, 1952, 64, 3309]

/-- The body of a signed object, and its field `i`. -/
def signedBody (o : List Byte) : List Byte := o.take (o.length - signedSizes.sum)
def signedField (o : List Byte) (i : Nat) : List Byte :=
  slice o (o.length - signedSizes.sum + (signedSizes.take i).sum) (signedSizes.getD i 0)
def signedSvn (o : List Byte) : Nat := ofBytes (signedField o 0)

/-- A signed object verifies: both keys match the fuses, both signatures stand over its bytes up to the end of SVN, and SVN is not below the
fused counter. -/
def signedOk (o : List Byte) : Bool :=
  let msg := signedBody o ++ signedField o 0
  decide (signedSizes.sum ≤ o.length) && Config.sha384 (signedField o 1) == Config.fuseDigest 0 &&
  Config.sha384 (signedField o 2) == Config.fuseDigest 1 && Config.ed25519Verifies (signedField o 1) msg (signedField o 3) &&
  Config.mldsaVerifies (signedField o 2) msg (signedField o 4) && decide (Config.fuseCounter.toNat ≤ signedSvn o)

/-- The image that stands in a slot of a die's flash. -/
def State.slotImage (s : State) (d slot : Nat) : List Byte :=
  ((s.die d).flash.toList.getD slot none).getD (Config.factoryImage d slot)

/-- The image that a die runs. -/
def State.runningImage (s : State) (d : Nat) : List Byte := s.slotImage d (s.die d).slot

/-- FWVER: the version of the firmware that die 0 runs, and its security version. -/
def State.fwver (s : State) : Word :=
  let o := s.runningImage 0
  BitVec.ofNat 64 ((Config.imageVersion o).toNat + signedSvn o * 2 ^ 32)

/-- PSTAT: ENABLE of the configuration record and DIVERGED. -/
def State.pstat (s : State) (p : Fin 8) : Word :=
  BitVec.ofNat 64 (boolBit (match s.cfg p with | some c => c.flags.getLsbD 0 | none => false) + 16 * boolBit (s.part p).diverged)

/-- What the host reads at offset `o` of partition `p`'s register block. -/
def State.readPartition (s : State) (p : Fin 8) (o : Nat) : Word :=
  if !s.blockValid p then 0
  else if o = 0 then s.pstat p
  else if 0x10000 ≤ o ∧ o < 0x10200 then sget (s.part p).dbs 0 ((o - 0x10000) / 8)
  else if o = 0x10200 then (s.part p).dbgW
  else if 0x20000 ≤ o then sget (s.part p).hreq 0 ((o - 0x20000) / 8)
  else 0

/-- What the host reads over CXL.io: `n` bytes at offset `off` of BAR0. Only aligned 8-byte reads are answered; an offset that no
table lists reads as zero (15 R446, 00 R10). -/
def State.readDevice (s : State) (off n : Nat) : Option Word :=
  if n ≠ 8 ∨ off % 8 ≠ 0 then none else some (
    if off = 0 then deviceId64
    else if off = 8 then s.dstat
    else if off = 0x10 then s.dev.cfgreq
    else if off = 0x18 then s.dev.cfgresp
    else if off = 0x20 then s.fwver
    else if 0x1000000 ≤ off ∧ off < 0x1800000 then
      s.readPartition (Fin.ofNat 8 ((off - 0x1000000) / 0x100000)) ((off - 0x1000000) % 0x100000)
    else 0)

/-- The digest of the firmware that a die runs, zeros for a die not brought up. -/
def State.digest (s : State) (d : Nat) : List Byte :=
  toBytes 48 (if (s.die d).up then (Config.sha384 (s.runningImage d)).toNat else 0)

/-- What the report says: DEVID, the nonce, the digests, FWVER and DSTAT. -/
def State.reportBody (s : State) (nonce : List Byte) : List Byte :=
  b8 deviceId64 ++ padTo 32 0 (nonce.take 32) ++ (List.range 4).flatMap s.digest ++ b8 s.fwver ++ b8 s.dstat

/-- The attestation report in the layout of a signed object: its SVN is the running firmware's (log 127), its keys and signatures are those of
the package's identity, in the sizes of 15 R452. -/
def State.attestation (s : State) (nonce : List Byte) : List Byte :=
  let b := s.reportBody nonce ++ toBytes 4 (signedSvn (s.runningImage 0))
  b ++ padTo 32 0 (Config.identityKey 0) ++ padTo 1952 0 (Config.identityKey 1) ++ padTo 64 0 (Config.identitySign 0 b) ++
  padTo 3309 0 (Config.identitySign 1 b)

/-! Partition configuration (14 R433). -/

/-- A queue descriptor (13 R389). -/
def descOk (b : List Byte) : Bool :=
  let l := field b 8 1
  let ring := field b 0 8
  decide (12 ≤ l) && decide (l ≤ 24) && ring % 2 ^ l == 0 && decide (ring < 2 ^ 56) && decide (field b 9 1 < 4) &&
  decide (field b 10 1 < 4) && decide (field b 11 1 < 4) && zeroBytes b 12 4 && field b 16 8 % 8 == 0 &&
  decide (field b 16 8 < 2 ^ 56) && zeroBytes b 24 8

/-- The configuration that a record describes; lists it names stand at device physical addresses (log 13). -/
def readPartRecord (s : State) (at_ : Word) : List Byte × PartCfg :=
  let b := s.peek at_.toNat 256
  let gran := s.peek (field b 8 8) (2 * field b 16 2)
  let desc := s.peek (field b 24 8) (32 * field b 18 2)
  let orElse := fun (n d : Nat) => BitVec.ofNat 64 (if n = 0 then d else n)
  (b, { at_ := at_, flags := BitVec.ofNat 8 (field b 5 1 % 16), shpart := Fin.ofNat 8 (field b 6 1),
        clusters := (List.range (field b 7 1)).map fun k => field b (32 + k) 1,
        granules := (List.range (field b 16 2)).map fun i => field gran (2 * i) 2,
        linkmask := BitVec.ofNat 18 (field b 20 4), troot := fw b 64, wdlimit := orElse (field b 72 4) (2 ^ 28),
        qmax := orElse (field b 76 2) 4096, maxred := orElse (field b 78 2) 64, tvec := fw b 80, tcmp := fw b 88,
        areas := (List.range 6).map fun i => fw b (96 + 8 * i), swap := fw b 144, pstate := fw b 152,
        log2s := (List.range 6).map fun i => field b (160 + i) 1,
        descs := (List.range (field b 18 2)).map fun k => slice desc (32 * k) 32 })

/-- The two configurations are marked as sharing. -/
def sharing (p : Nat) (c : PartCfg) (q : Nat) (d : PartCfg) : Bool :=
  c.flags.getLsbD 3 && d.flags.getLsbD 3 && c.shpart.val == q && d.shpart.val == p

/-- Reserved bits, ranges and alignment of a record for partition `p`. -/
def recordFieldsOk (p : Fin 8) (b : List Byte) (c : PartCfg) : Bool :=
  field b 0 4 == 0x47464351 && field b 4 1 == p.val && decide (field b 5 1 < 32) &&
  decide (field b 6 1 < 8) && decide (1 ≤ field b 7 1) && decide (field b 7 1 ≤ 32) && decide (1 ≤ field b 16 2) &&
  decide (field b 16 2 ≤ 768) && decide (field b 18 2 ≤ 64) && decide (field b 20 4 < 2 ^ 18) &&
  (c.clusters.all fun k => decide (k < 32)) && zeroBytes b (32 + field b 7 1) (32 - field b 7 1) &&
  (c.granules.all fun g => decide (g < 768)) && c.clusters.eraseDups.length == c.clusters.length &&
  c.granules.eraseDups.length == c.granules.length && field b 64 8 % 8192 == 0 && decide (field b 64 8 < 2 ^ 56) &&
  decide (c.qmax.toNat ≤ 4096) && field b 80 8 % 32 == 0 && zeroBytes b 166 90 &&
  ((c.areas.zip c.log2s).all fun x => decide (4 ≤ x.2) && decide (x.2 ≤ 20) && x.1.toNat % 2 ^ x.2 == 0) && c.descs.all descOk

/-- No cluster and no granule of the record is another partition's, unless both are marked shared. -/
def ownersOk (s : State) (p : Fin 8) (c : PartCfg) : Bool :=
  (List.finRange 8).all fun (q : Fin 8) => q == p || match s.cfg q.val with
    | none => true
    | some d => sharing p.val c q.val d ||
      (c.clusters.all (fun k => !d.clusters.contains k) && c.granules.all fun g => !d.granules.contains g)

/-- A queue as a descriptor sets it; counts are kept while RING and LOG2 stay (13 R390 R391). -/
def setQueue (b : List Byte) (old : Option CmdQueue) : CmdQueue × Bool :=
  let same := old.any fun q => q.ring == fw b 0 && q.log2 == field b 8 1
  let en := field b 10 1 % 2 = 1
  let q : CmdQueue := old.getD
    ⟨0, 12, 0, false, false, 0, 0, 0, 0, [], [], 0, 0, none, none, []⟩
  let q := { q with ring := fw b 0, log2 := field b 8 1, prio := field b 9 1, enable := en, reqcrc := decide (field b 10 1 / 2 % 2 = 1),
                    fdie := Fin.ofNat 4 (field b 11 1), ridxa := fw b 16 }
  let q := if same && en then q else { q with packets := q.packets.filter fun x => x.started, tears := 0, spins := 0, fault := q.fault.filter fun f => f.uslot == 1 || f.uslot == 2 }
  if same then (q, false) else ({ q with widx := 0, ridx := 0, ibs := [] }, true)

/-- Sets the queues of a partition; a new ring's read index is stored as 0. -/
def applyQueues (p : Fin 8) (c : PartCfg) (s : State) : State :=
  let s := s.modPart p.val fun v => { v with queues := v.queues.filter fun e => decide (e.1 < c.descs.length) }
  c.descs.zipIdx.foldl (fun s (d : List Byte × Nat) =>
    let q := setQueue d.1 (s.cq p d.2)
    let s := s.modPart p.val fun v => { v with queues := sput v.queues d.2 q.1, dbs := if q.2 then sset v.dbs 0 d.2 0 else v.dbs }
    if q.2 then storeOut p d.2 q.1.ridxa (n8 0) s else s) s

/-- A core that a change of configuration gives to a partition brings nothing along (04 R129); its matrix registers are ON and invalid (07
R222). -/
def clearSite (k : Nat) (s : State) : State :=
  if isFirmware k then s else
  (s.zeroBlocks (scratchKey k 0) (2 ^ 21 / 64)).modCoreAt k fun c =>
    if c.holdsStrand then c else { c with l1 := [], tlb := [], shadow := [], r := { c.r with m := zeroedMatrix } }

/-- A cluster passes to a partition: its cores and its barrier objects are cleared (04 R129, 06 R204). -/
def clearCluster (s : State) (cl : Nat) : State :=
  let s := (List.range 9).foldl (fun s site => clearSite (coreNumber cl site) s) s
  { s with dev := { s.dev with barriers := s.dev.barriers.filter fun e => decide (e.1 / 32 ≠ cl) } }

/-- The record takes effect. -/
def applyRecord (p : Fin 8) (c : PartCfg) (s : State) : State :=
  let old := s.cfg p.val
  let had := (old.map fun o => o.clusters).getD []
  let partner := (List.finRange 8).any fun (q : Fin 8) => q != p && match s.cfg q.val with
    | some d => sharing p.val c q.val d && (s.part q.val).resident
    | none => false
  let s := (c.clusters.filter fun k => !had.contains k).foldl (fun s k => if partner then s else clearCluster s k) s
  let s := (s.modPart p.val fun v => { v with cfg := some c }).setDiverged p false
  let s := s.modPart p.val fun v => { v with
    cfg := some c, areaDown := 0, dringFull := false, resident := if old.isSome then v.resident else !partner,
    pipes := if c.migr then v.pipes else v.pipes.map fun (e : Nat × Pipeline) => (e.1, { e.2 with migrating := false }) }
  applyQueues p c s

/-- Answers the host. -/
def answer (cause : Option (BitVec 8)) (s : State) : State :=
  { s with dev := { s.dev with cfgresp := BitVec.ofNat 64 ((cause.getD 0).toNat + 256 + 512 * boolBit cause.isSome),
                               cfgreq := setBits s.dev.cfgreq 0 1 0 } }

/-- The request is taken; its answer follows. -/
def taken (s : State) : State := { s with dev := { s.dev with cfgresp := 0, cfgreq := setBits s.dev.cfgreq 0 1 0 } }

/-- A record passes its checks: granules new to the partition are zeroed first (04 R129). -/
def acceptRecord (p : Fin 8) (c : PartCfg) (s : State) : State :=
  let had := (s.cfg p.val).elim [] fun o => o.granules
  let new := c.granules.filter fun g => !had.contains g
  if new.isEmpty then answer none (applyRecord p c s)
  else
    let s := taken s
    { s with dev := { s.dev with zeroing := s.dev.zeroing ++ new.map (fun g => (g, p.val)), newCfg := s.dev.newCfg.set p.val (some c) } }

/-- Loads tier-monitor entries for a partition; a loaded entry counts from 0 (04 R125). -/
def loadTiers (p : Fin 8) (es : List (Nat × Nat × Word)) (s : State) : State :=
  es.foldl (fun s e => s.modDie (e.1 % 4) fun d =>
    { d with monitor := sput d.monitor (e.2.1 % 4096) ⟨BitVec.ofNat 64 (e.2.2.toNat / 65536 * 65536), p, 0, false, false⟩ }) s

/-- PARTITION_CONFIGURATION: a posted request is carried out: the partition it names takes the record that PCFGK publishes,
or loses its configuration when PCFGK is not VALID; a record that fails its checks is refused. A request for an attestation
report gets it. The request stands in host memory, and its read waits for READY (15 R451). -/
def execPartitionConfiguration (s : State) : EngEnds :=
  if !bitAt s.dev.cfgreq 0 || !s.dev.ready then .next s else
  let req := s.peek (hostKey (bits s.dev.cfgreq 6 50 * 64)) 64
  match Config.requestReport req with
  | some r => .next (answer none (s.poke (hostKey r.1) (s.attestation r.2)))
  | none =>
    let p := Config.requestPart req
    if (s.dev.newCfg.get p).isSome then .next s else
    let s := loadTiers p (Config.requestTiers req) s
    let w := vget (s.die 0).pcfg p.val
    if !bitAt w 0 then .next (answer none (s.modPart p.val fun _ => resetPartition))
    else
      let r := readPartRecord s (BitVec.ofNat 64 (bits w 6 50 * 64))
      if recordFieldsOk p r.1 r.2 && ownersOk s p r.2 then .next (acceptRecord p r.2 s)
      else .next (answer (some Cause.partitionBounds) s)

/-! Zeroing of granules (04 R129). -/

/-- The entry's page, whatever its size, lies in HBM and holds bytes of a granule. -/
def TlbEntry.maps (e : TlbEntry) (gran : Nat) : Bool :=
  !leafFar e.leaf && decide (leafFrame e.leaf < (gran + 1) * 2 ^ 30) && decide (gran * 2 ^ 30 < leafFrame e.leaf + 2 ^ pageBits e.level.val)

/-- No TLB keeps an entry that maps a granule, and no L1 a line of it. -/
def dropMapped (gran : Nat) (s : State) : State :=
  let cut := fun (l : List TlbEntry) => l.filter fun e => !e.maps gran
  let drop := fun (c : Core) => { c.cleanL1 (fun b => b * 64 / 2 ^ 30 == gran) with tlb := cut c.tlb }
  { s with core := drop s.core, others := s.others.map (fun (e : Nat × Core) => (e.1, drop e.2)),
           dev := { s.dev with ctlb := s.dev.ctlb.map fun (e : Nat × List TlbEntry) => (e.1, cut e.2) } }

/-- Some core holds an access to the granule that it made before the zeroing began (04 R122 R129). -/
def granuleInUse (gran : Nat) (s : State) : Bool :=
  s.liveCores.any fun k => (s.coreAt k).heldAccesses.any fun a => a.2 / 2 ^ 30 == gran

/-- GRANULE_ZEROING_COMPLETE: payload, tags and poison of the granule are zero; the last granule of a partition's new record
lets it take effect. The shootdown of its pages lets accesses made before it be performed first. -/
def execGranuleZeroingComplete (gran : Nat) (s : State) : EngEnds :=
  match s.dev.zeroing.find? fun z => z.1 == gran with
  | none => .next s
  | some z =>
    if granuleInUse gran s then .next s else
    let s := dropMapped gran (s.zeroBlocks (gran * 2 ^ 30) (2 ^ 24))
    let s : State := { s with dev := { s.dev with zeroing := s.dev.zeroing.filter fun x => x.1 != gran } }
    if s.dev.zeroing.any fun x => x.2 == z.2 then .next s else
    let p := Fin.ofNat 8 z.2
    match s.dev.newCfg.get p with
    | none => .next s
    | some c =>
      let s : State := { s with dev := { s.dev with newCfg := s.dev.newCfg.set p.val none } }
      let s := applyRecord p c s
      .next { s with dev := { s.dev with cfgresp := 256 } }

/-! CXL.mem and CXL.cache (04 R146, 15 R444 R445). -/

/-- The device physical address of a host physical address: through the first enabled decoder that holds it. -/
def State.hdmAddr (s : State) (hpa : Nat) : Option Nat :=
  (s.dev.hdm.toList.find? fun d => d.enable && decide (d.base ≤ hpa) && decide (hpa < d.base + d.size)).bind fun d =>
    let o := hpa - d.base
    let g := 2 ^ (8 + d.gran.val)
    if o / g % d.ways.count = d.pos.val then some (d.dpa + o / (g * d.ways.count) * g + o % g) else none

/-- The block of a host access: none beyond 768 GiB. -/
def State.hostBlock (s : State) (hpa : Nat) : Option Nat :=
  (s.hdmAddr hpa).bind fun a => if a < hbmTop then some (a / 64 * 64) else none

/-- The granule of a block is being zeroed, or the device is not ready: the host waits (15 R445 R451). -/
def State.hostWaits (s : State) (k : Nat) : Bool := !s.dev.ready || s.dev.zeroing.any fun z => z.1 == k / 2 ^ 30

def State.sendHost (s : State) (hpa : Nat) (bs : List Byte) (poison : Bool) : State :=
  { s with dev := { s.dev with out := s.dev.out ++ [.hostData hpa bs poison] } }

/-- HOST_CXL_MEM_READ: the block's bytes, with CXL poison for a poisoned block or one beyond the memory. -/
def execHostCxlMemRead (hpa : Nat) (s : State) : EngEnds :=
  match s.hostBlock hpa with
  | none => .next (if s.dev.ready then s.sendHost hpa (List.replicate 64 0) true else s)
  | some k => .next (if s.hostWaits k then s else s.sendHost hpa (s.peek k 64) (s.poisonAt k))

/-- Tag bit 4: Z (03 R98). -/
def State.clearZ (s : State) (k : Nat) : State := s.setMdata k (s.mdata k &&& ~~~16)

/-- HOST_CXL_MEM_WRITE: bytes of one block are written; Z is cleared, the other tag bits stay; the owner's dirty bit is set
first (04 R127). -/
def execHostCxlMemWrite (hpa : Nat) (bytes : List Byte) (s : State) : EngEnds :=
  match s.hostBlock hpa, s.hdmAddr hpa with
  | some k, some a =>
    if s.hostWaits k then .next s else
    let at_ := k + a % 64
    let bs := bytes.take (64 - a % 64)
    let write := fun (s : State) => (((s.cleanBlock (fun _ => true) k).writeRun at_ bs).clearZ k)
    match s.ownerOf k with
    | none => .next (write s)
    | some p =>
      match markDirty s p [k] with
      | (true, s) => .next (write s)
      | (false, s) => .next s
  | _, _ => .next s

/-- HOST_SNOOP: the L2 slices answer with the block of host memory as it stands, and the host's own write follows. CXL.cache waits for READY
(15 R451). -/
def execHostSnoop (hpa : Nat) (bytes : List Byte) (s : State) : EngEnds :=
  if !s.dev.ready then .next s else
  let k := hostKey (hpa / 64 * 64)
  let s := s.sendHost hpa (s.peek k 64) false
  .next (s.poke (k + hpa % 64) (bytes.take (64 - hpa % 64)))

end

end Sys2Proof.Machine
end

