-- ==== Sys2Proof/Machine/Platform.lean ====
section
/-! DEFINITION. The platform: power, boot, firmware images, management, temperature and errors that the hardware reports
(13 R420 R421, 14 R422 R434 R437 R441, 15 R450 to R454). -/

namespace Sys2Proof.Machine

noncomputable section

/-! Boot (15 R451 R452). -/

def State.send (s : State) (o : Out) : State := { s with dev := { s.dev with out := s.dev.out ++ [o] } }

/-- The image in a slot of a die's flash verifies (00 R3). -/
def State.slotVerifies (s : State) (d slot : Nat) : Bool := signedOk (s.slotImage d slot)

/-- The order in which a boot tries the slots: an update first, then the slot that ran before; slot A first where nothing was written (log
51). -/
def Die.bootOrder (e : Die) : List Nat := if e.pending then [1 - e.slot, e.slot] else [e.slot, 1 - e.slot]

/-- The slot that a die's boot ROM runs: the given ones in order, each refused one reported. -/
def bootSlot (d : Nat) : List Nat → State → Option Nat × State
  | [], s => (none, s)
  | b :: r, s => if s.slotVerifies d b then (some b, s) else bootSlot d r (s.send (.report Cause.imageSignature d))

/-- The work cores of a die: QMASK after boot. -/
def workMask (d : Nat) : BitVec 72 :=
  BitVec.ofNat 72 (((List.range 72).filter fun b => !isFirmware (coreOfSite d b) && !isSpare (coreOfSite d b)).map (2 ^ ·)).sum

/-- A die boots from the first of its slots that verifies; without one it is reported and not brought up. The firmware core
then serves its events. -/
def bootDie (d : Nat) (s : State) : State :=
  match bootSlot d (s.die d).bootOrder s with
  | (none, s) => s.send (.report Cause.fwCoreFault d)
  | (some b, s) =>
    let s := s.modDie d fun e => { e with up := true, slot := b, pending := false, qmask := workMask d }
    let f := s.fresh
    let pc := BitVec.ofNat 64 (f.1.toNat / 32 * 32)
    f.2.modCoreAt d fun c => { c with run := .fwWait, mode := .service, r := { c.r with pc := pc }, bnd := { c.bnd with pc := pc } }

/-- POWER_GOOD_BOOT: each die's boot ROM runs. -/
def execPowerGoodBoot (s : State) : EngEnds :=
  if s.dev.dies.toList.any fun d => d.up then .next s
  else .next ((List.range 4).foldl (fun s d => bootDie d s) { s with dev := { s.dev with power := true } })

/-- The bridge edges of the dies brought up that have been trained by now. -/
def trainBridges (s : State) : State :=
  (List.range 4).foldl (fun s d => s.modDie d fun e => { e with bridged := e.bridged || (e.up && Config.bridgeTrained d s.clock) }) s

/-- DEVICE_READY: once every die brought up has trained its bridge edges, every HBM byte, tag and poison bit is zeroed, and READY is set. -/
def execDeviceReady (s : State) : EngEnds :=
  if s.dev.ready || !(s.dev.dies.toList.any fun d => d.up) then .next s
  else
    let s := trainBridges s
    if s.dev.dies.toList.any fun d => d.up && !d.bridged then .next s else
    let s := s.zeroBlocks 0 (hbmTop / 64)
    .next { s with dev := { s.dev with ready := true } }

/-- Everything but host memory, the flash and the model's own fields is as after reset. -/
def resetAll (power : Bool) (s : State) : State :=
  let dies := s.dev.dies.mapFinIdx fun _ (d : Die) _ => { resetDie with flash := d.flash, slot := d.slot, pending := d.pending }
  { s with core := resetCore s.core.id, others := [],
           dev := { resetDevice with dies := dies, power := power, out := s.dev.out } }

/-- MAIN_POWER_REMOVED: the device keeps no state, its time base included; host memory and the flash are not the device's. -/
def execMainPowerRemoved (s : State) : EngEnds :=
  let s := resetAll false s
  .next { s with clock := 0, mem := s.mem.filter fun c => isHost c.1, tags := s.tags.filter fun c => isHost (64 * c.1) }

/-- DEVICE_RESET: the registers return to their reset values and the dies boot; a die whose other slot holds an update that
verifies runs it. -/
def execDeviceReset (s : State) : EngEnds :=
  if !s.dev.power then .next s else
  .next ((List.range 4).foldl (fun s d => bootDie d s) (resetAll true s))

/-! Firmware and management (13 R421, 15 R450 R452 R453). -/

/-- FW_EVENT_WAKE: an enabled event ends the wait of IDLE, and so does an asynchronous one, which the boundary after the IDLE takes
(13 R421). -/
def execFwEventWake (s : State) : EngEnds :=
  if s.core.run = .fwWait ∧ (fwAwake s ∨ s.core.nextAsync.isSome) then .next { s with core := { s.core with run := .strand } } else .next s

/-- A management message to a die: its firmware core is told and answers. One that does not run answers nothing. -/
def mgmtAnswer (d : Nat) (bytes : List Byte) (s : State) : State :=
  if !s.firmwareRuns d then s else
  let s := (s.fwEvent d 2).send (.management (Config.managementReply s.free bytes))
  { s with free := s.free + 1 }

def execMctpControlMessage (die : Fin 4) (bytes : List Byte) (s : State) : EngEnds := .next (mgmtAnswer die bytes s)
def execPldmMonitoring (die : Fin 4) (bytes : List Byte) (s : State) : EngEnds := .next (mgmtAnswer die bytes s)

/-- PLDM_FIRMWARE_UPDATE: the image is written to the slot that is not running. -/
def execPldmFirmwareUpdate (die : Fin 4) (image : List Byte) (s : State) : EngEnds :=
  if !s.firmwareRuns die then .next s else
  let s := s.fwEvent die 2
  .next (s.modDie die fun d => { d with flash := d.flash.mapFinIdx fun i v _ => if i = 1 - d.slot then some image else v, pending := true })

/-- ATTESTATION_REQUEST: the signed report. -/
def execAttestationRequest (nonce : List Byte) (s : State) : EngEnds :=
  if !s.firmwareRuns 0 then .next s else
  let s := s.fwEvent 0 2
  .next (s.send (.management (s.attestation nonce)))

/-! Temperature and errors. -/

/-- THERMAL_TRIP: the die's cores stop at their next quiescent points. -/
def execThermalTrip (die : Fin 4) (s : State) : EngEnds :=
  if (s.die die).hot then .next s else
  let s := s.modDie die fun d => { d with hot := true }
  .next (report s none die Cause.thermalTrip 4 (unitId die 0) false 0 0)

/-- THERMAL_TRIP_RESUME: firmware lets the stopped cores go on. -/
def execThermalTripResume (die : Fin 4) (s : State) : EngEnds :=
  let s := s.modDie die fun d => { d with hot := false }
  let go := fun (c : Core) => if c.run = .stopped ∧ dieOf c.id = die.val then { c with run := .strand } else c
  .next { s with core := go s.core, others := s.others.map fun (e : Nat × Core) => (e.1, go e.2) }

/-- CE_RATE: the corrected errors of a unit reached CETHRESH. -/
def execCeRate (die : Fin 4) (unit : Fin 65536) (s : State) : EngEnds :=
  .next (report s none die Cause.ceRate 0 unit false 0 0)

/-- UE_REGISTER: the core is struck (14 R441); its strand is written back FAULTED without a frame. A firmware core fails. -/
def execUeRegister (s : State) : EngEnds :=
  if isFirmware s.core.id then .next (firmwareFault s.core.r.pc 0 s)
  else if s.core.holdsStrand && !s.core.record.isEmpty then
    let s := rollback s
    .next (faultStrand Cause.ueRegister s.core.r.pc false false true s)
  else .next (report s none (dieOf s.core.id) Cause.ueRegister 1 (unitId s.core.id 0) false 0 0)

end

end Sys2Proof.Machine
end

