-- ==== Sys2Proof/Machine/RegEvents.lean ====
section
/-! DEFINITION. Register writes that the opcode table lists as steps of their own, the sample record (05 R149, 12 R353
R354 R377, 14 R423 R434). -/

namespace Sys2Proof.Machine

noncomputable section

/-- SVCRES_WRITE by a firmware core; other modes cannot write it (14 R434). -/
def execSvcresWrite (v : Word) (s : State) : Ends :=
  if s.core.mode = .service then .next (writeSvcres v s) else .next s

/-- HACKM_WRITE by a firmware core. -/
def execHackmWrite (k : Fin 2) (v : Word) (s : State) : Ends :=
  if s.core.mode = .service then .next (writeHackm k v s) else .next s

/-- FELI_WRITE clears the first-event entry. -/
def execFeliWrite (s : State) : Ends := .next (writeFeli s)

/-- LOG_RING_WRITE: LOGBASE or LOGSIZE. -/
def execLogRingWrite (k : Fin 2) (v : Word) (s : State) : Ends := .next (writeLogRing k v s)

/-- LOGTAIL_WRITE. -/
def execLogtailWrite (v : Word) (s : State) : Ends := .next (writeLogtail v s)

/-- TROOT_WRITE: supervisor and service modes write TROOT. -/
def execTrootWrite (v : Word) (s : State) : Ends :=
  if s.core.mode = .strand then .next s else .next (writeTroot v s)

/-- TRACE_SAMPLE: a record of KIND 2 is written once the strand has issued PERIOD times 256 beats since the last. -/
def execTraceSample (s : State) : Ends :=
  let period := 256 * bits s.core.log.trctl 16 16
  if period = 0 ∨ s.core.run ≠ .strand ∨ s.core.beat - s.core.samples < period then .next s
  else .next (traceRecord 2 s.core.r.pc (BitVec.ofNat 64 s.clock) { s with core := { s.core with samples := s.core.beat } })

end

end Sys2Proof.Machine
end

