-- ==== Sys2Proof/Machine/Debug.lean ====
section
/-! DEFINITION. The debug queue (12 R368 to R376): packets, STOP, reverse movement over the log, REPLAY, READ, WRITE and
RESUME on a strand stopped for the debugger. -/

namespace Sys2Proof.Machine

noncomputable section

/-! Packets and responses (12 R369 R371). -/

/-- The outcome of a debug packet: STATUS, CAUSEV, the deciding PC if it is not the boundary's, ADDR and data. -/
structure DbgEnd where
  status : BitVec 8
  causev : Bool
  pc : Option Word
  addr : Word
  data : List Byte

def DbgEnd.ok : DbgEnd := ⟨0, false, none, 0, []⟩
def DbgEnd.bad (status : BitVec 8) : DbgEnd := ⟨status, false, none, 0, []⟩
def DbgEnd.cause (c : BitVec 8) (pc : Option Word) (addr : Word) : DbgEnd := ⟨c, true, pc, addr, []⟩

/-- The packet at the head of the debug queue: 64-byte lines of the area DBGQ, counted as for DBk (log 38). -/
def dbgHead (p : Fin 8) (s : State) : Option (List Byte) × State :=
  match s.cfg p with
  | none => (none, s)
  | some c =>
    let v := s.part p
    let lines := 2 ^ c.log2s.getD 5 0 / 64
    if lines = 0 ∨ c.areas.getD 5 0 = 0 ∨ v.dbgW.toNat % 2 ^ 32 = v.dbgR % 2 ^ 32 then (none, s) else
    match areaKey s p 5 (c.areas.getD 5 0 + BitVec.ofNat 64 (64 * (v.dbgR % lines))) with
    | (some k, s) => (some (s.peek k 64), s)
    | (none, s) => (none, s)

/-- A reserved byte is nonzero, or the operation is unknown. -/
def dbgBad (b : List Byte) : Bool :=
  let op := field b 0 1
  op == 0 || decide (7 < op) || decide (2 ≤ field b 1 1) || !zeroBytes b 2 2 || (op != 6 && !zeroBytes b 40 24)

def dbgRecord (p : Fin 8) (b : List Byte) (s : State) : List Byte := (devRead (partAgent s p 0 2) (fw b 8) 64 s).1

/-- Writes the response and passes the packet. -/
def dbgAnswer (p : Fin 8) (b : List Byte) (e : DbgEnd) (s : State) : State :=
  let rec_ := dbgRecord p b s
  let frame := fw rec_ 8
  let h := if frame = 0 then [] else (devRead (partAgent s p 0 3) frame 64 s).1
  let win := if frame = 0 then fw rec_ 32 else fw h 24
  let pc := e.pc.getD (if frame = 0 then fw rec_ 0 else fw h 16)
  let out := slice b 4 4 ++ [e.status, BitVec.ofNat 8 (boolBit e.causev), 0, 0] ++ b8 win ++ b8 pc ++ b8 e.addr ++ padTo 32 0 (e.data.take 32)
  let s := if field b 32 8 % 64 = 0 then devWrite (partAgent s p 0 3) (fw b 32) out s else s
  s.modPart p.val fun v => { v with dbgR := (v.dbgR + 1) % 2 ^ 32 }

/-- A step of the debug queue for one operation: it acts when its packet is at the head. A malformed packet completes with
BAD_PACKET. No answer: the packet waits. -/
def dbgOp (p : Fin 8) (op : Nat) (f : List Byte → State → Option DbgEnd × State) (s : State) : EngEnds :=
  match dbgHead p s with
  | (none, s) => .next s
  | (some b, s) =>
    if dbgBad b then .next (dbgAnswer p b (.bad 0x83) s)
    else if field b 0 1 ≠ op then .next s
    else match f b s with
      | (some e, s) => .next (dbgAnswer p b e s)
      | (none, s) => .next s

/-! The held strand. -/

/-- The strand is stopped for the debugger (12 R370): RUN is clear, and its frame is marked HELD or was saved after
DEBUG_HALT and not made ready again. -/
def isHeld (p : Fin 8) (b : List Byte) (s : State) : Bool :=
  let r := dbgRecord p b s
  let h := (devRead (partAgent s p 0 3) (fw r 8) 64 s).1
  let fl := field h 6 1
  fw r 8 != 0 && field r 18 1 / 4 % 2 == 0 && field h 0 4 == 0x46524D51 &&
  (fl % 2 == 1 || (fl / 2 % 2 == 1 && fw h 32 == Cause.debugHalt.setWidth 64 && field r 24 1 != Status.ready))

/-- The number of the copy on which a held strand is worked: no site of the package has it (log 39). -/
def dbgCore : Nat := 288

/-- The held strand's context on the debugger's copy, with its live scratchpad; the firmware core of die 0 has the turn. -/
def dbgOpen (p : Fin 8) (b : List Byte) (s : State) : FrameData × List Byte × State :=
  let s := s.focus 0
  let r := dbgRecord p b s
  let l1n := match s.pipeline p.val (field r 28 2) with | some q => q.l1n | none => 1
  let c := resetCore dbgCore
  let sup := match s.cfg p with | some g => pickupSup c.sup g | none => c.sup
  let t : State := { s with core := { c with
    sinfo := BitVec.ofNat 64 (p.val * 2 ^ 32), l1n := l1n, sup := sup, frame := fw r 8, record := r, crec := fw b 8 } }
  let f := readFrame t (fw r 8)
  let g := restoreFrame f.1 f.2
  let sup := { frameSup f.1.low g.2.core.sup with tstatus := if field f.1.low 6 1 / 2 % 2 = 1 then fw f.1.low 88 else 0 }
  let t := { g.2 with core := { g.2.core with crec := fw b 8, sup := sup } }
  (f.1, r, reissue g.1 t)

/-- Where a held strand restarts: a TPC that a WRITE has changed, in a frame that holds it, or else the boundary's PC. -/
def dbgPc (f : FrameData) (t : State) : Word :=
  if field f.low 6 1 / 2 % 2 = 1 ∧ t.core.sup.tpc ≠ fw f.low 40 then t.core.sup.tpc else t.core.r.pc

/-- Writes the copy back to the frame, its record's PC and WINDOW with it, and gives it up. `ready`: the
record becomes READY and HELD is cleared. -/
def dbgClose (p : Fin 8) (f : FrameData) (old : State) (ready : Bool) (t : State) : State :=
  let b := f.low
  let c := t.core
  let fl := field b 6 1
  let hold := !ready && fl % 2 == 1
  let trapped := fl / 2 % 2 = 1
  let pc := dbgPc f t
  let live := spillBytes t
  let spilled := !live.isEmpty && decide (c.spill ≠ 0) && decide (live.length ≤ c.spillSize)
  let t := if spilled then devWrite (coreAgent t 3) c.spill live t else t
  let t := if trapped then t.modSup fun u => { u with tpc := dbgPc f t, tloop := loopState c.r } else t
  let low := frameImage t trapped hold spilled (if fl / 8 % 2 = 1 then some (b.getD 7 0) else none) pc
  let low := splice (splice low (0x1838) (slice b 0x1838 8)) 104 (toBytes 4 0)
  let low := splice low 104 (toBytes 4 (crc32c (low ++ (liveMatrix c.r).flatMap Prod.snd)))
  let t := devWrite (coreAgent t 3) c.frame low t
  let t := (liveMatrix c.r).foldl (fun t m => devWrite (coreAgent t 3) (c.frame + BitVec.ofNat 64 (0x8000 + 4096 * m.1)) m.2 t) t
  let r := recSet (recSet c.record 0 8 pc.toNat) 32 8 c.r.sr.win.toNat
  let r := if ready then recSet (recSet (recSet r 24 1 Status.ready) 25 1 0) 18 1 (field r 18 1 % 4) else r
  let t := devWrite (partAgent t p dbgCore 2) c.crec (recSeal r) t
  let t := if ready then t.readyTime p.val (field r 28 2) c.crec (some t.clock) else t
  let t := t.zeroBlocks (scratchKey dbgCore 0) (2 ^ 21 / 64)
  ({ t with core := (old.focus 0).core }).focus old.core.id

/-! Reverse movement (12 R368 R372). -/

/-- The entries that the log keeps, with their places, but for PAD, which has no state to check or to undo: a PAD that LOGTAIL has passed moves
HORIZON beyond its window (12 R366), and no movement enters that window. -/
def keptEntries (s : State) : List (Nat × LogEnt × Nat) :=
  let l := s.core.log
  (logEntries s (l.head.toNat / 16 + 1) l.tail.toNat l.head.toNat).filter fun x => x.2.1.kind != Ent.pad

def isPickup (e : LogEnt) : Bool := e.kind == Ent.inrec && field e.body 0 8 == 2

/-- A boundary in the log (12 R363): its place, the window it opens, engine-quiet, the first bundle after it. -/
structure LogBound where
  at_ : Nat
  win : Nat
  quiet : Bool
  pc : Word

/-- The boundaries up to LOGCUR: after REGS and pickup entries, and the one that opens HORIZON where the log begins. -/
def logBounds (s : State) : List LogBound :=
  let l := s.core.log
  let edge := match (s.part s.core.partOf.val).edges.find? fun e => e.1 == s.core.crec with
    | some e => [⟨l.tail.toNat, l.horizon.toNat, e.2.2, e.2.1⟩]
    | none => []
  (edge ++ (keptEntries s).filterMap fun x =>
    let e := x.2.1
    if e.kind = Ent.regs then some ⟨x.1 + x.2.2, e.win.toNat + 1, e.flags / 4 % 2 == 1, e.pc⟩
    else if isPickup e then some ⟨x.1 + x.2.2, e.win.toNat, true, e.pc⟩ else none).filter fun b => decide (b.at_ ≤ l.cur.toNat)

/-- The place of a logged address: in memory through the strand's translation, or in its own scratchpad. -/
def loggedAt (va : Word) (s : State) : Option Loc :=
  match locate (coreAgent s 3) .read false va s with
  | .ok l _ => some l
  | _ => none

/-- NEW and the new metadata of an UNDO entry; OLD and the old. -/
def undoNew (e : LogEnt) : List Byte × BitVec 25 :=
  let n := field e.body 8 1 % 128
  (slice e.body (16 + (n + 15) / 16 * 16) n, BitVec.ofNat 25 (field e.body 8 8 / 2 ^ 33))
def undoOld (e : LogEnt) : List Byte × BitVec 25 :=
  (slice e.body 16 (field e.body 8 1 % 128), BitVec.ofNat 25 (field e.body 8 8 / 2 ^ 8))

/-- The blocks of a TILE entry: payloads and metadata as they stand. -/
def tileNow (e : LogEnt) (s : State) : Option (List Byte) :=
  let ls := (List.range (field e.body 24 4)).map fun i => loggedAt (fw e.body 16 + BitVec.ofNat 64 (64 * i)) s
  if ls.any Option.isNone then none else
  let ks := ls.filterMap id
  some (ks.flatMap (fun (l : Loc) => s.peek l.key 64) ++ ks.flatMap fun (l : Loc) => toBytes 4 (if l.far then 0 else (s.mdata l.key).toNat))

/-- The check of one entry before anything is undone (12 R372). -/
def entryStops (force : Bool) (s : State) (e : LogEnt) : Option DbgEnd :=
  let conflict := fun (a : Word) => some (⟨0x82, false, some e.pc, a, []⟩ : DbgEnd)
  let irr := e.flags / 2 % 2 = 1 ∧ ¬ force
  let va := if e.kind = Ent.tile then fw e.body 16 else if e.kind = Ent.irrev then fw e.body 8 else fw e.body 0
  let clash := if e.kind = Ent.undo then
      match loggedAt va s with
      | none => true
      | some l => let w := undoNew e; s.peek l.key w.1.length != w.1 || (!l.far && s.mdata l.key != w.2)
    else if e.kind = Ent.atomic then
      match loggedAt va s with
      | none => true
      | some l => s.peek l.key (field e.body 8 8) != slice e.body 24 (field e.body 8 8)
    else if e.kind = Ent.tile then
      match tileNow e s with
      | none => true
      | some b => crc32c b != field e.body 28 4
    else false
  if clash then conflict va
  else if irr then some (.cause Cause.irreversible (some e.pc) va) else none

/-- A memory undo at package scope. -/
def undoWrite (va : Word) (bs : List Byte) (md : Option (BitVec 25)) (s : State) : State :=
  let s := if bs.isEmpty then s else devWrite (coreAgent s 3) va bs s
  match md, loggedAt va s with
  | some m, some l => if l.far then s else s.setMdata l.key m
  | _, _ => s

/-- Exclusive or of a word at `o` of a body. -/
def bodyWord (b : List Byte) (o : Nat) : Word := fw b o

/-- The deltas of a REGS entry (12 R359). -/
def undoRegs (b : List Byte) (r : Regs) : Regs :=
  let xm := fw b 0
  let xs := (List.range 64).filter fun k => bitAt xm k
  let bm := field b 20 1
  let bs := (List.range 8).filter fun k => bm / 2 ^ k % 2 = 1
  let vms := (List.range 8).filter fun k => field b 22 1 / 2 ^ k % 2 = 1
  let lcs := (List.range 4).filter fun k => field b 23 1 / 2 ^ k % 2 = 1
  let o1 := 32 + 8 * xs.length
  let o2 := o1 + 8 * bs.length
  let o3 := o2 + 4 * vms.length
  let at_ := fun (l : List Nat) (k : Nat) => l.findIdx? fun j => j == k
  { r with
    x := Vector.ofFn fun k => match at_ xs k.val with | some i => r.x.get k ^^^ bodyWord b (32 + 8 * i) | none => r.x.get k,
    xv := (r.xv &&& ~~~xm) ||| (fw b 8 &&& xm), p := r.p ^^^ BitVec.ofNat 16 (field b 16 2), pv := r.pv ^^^ BitVec.ofNat 16 (field b 18 2),
    bt := Vector.ofFn fun k => match at_ bs k.val with | some i => r.bt.get k ^^^ bodyWord b (o1 + 8 * i) | none => r.bt.get k,
    btv := (r.btv &&& ~~~BitVec.ofNat 8 bm) ||| (BitVec.ofNat 8 (field b 21 1) &&& BitVec.ofNat 8 bm),
    vm := Vector.ofFn fun k => match at_ vms k.val with
      | some i => r.vm.get k ^^^ BitVec.ofNat 32 (field b (o2 + 4 * i) 4) | none => r.vm.get k,
    lc := Vector.ofFn fun k => match at_ lcs k.val with
      | some i => r.lc.get k ^^^ BitVec.ofNat 32 (field b (o3 + 4 * i) 4) | none => r.lc.get k }

/-- One pair of an SREGS entry (12 R360). -/
def undoSel (s : State) (x : Nat × Word) : State :=
  let n := x.1
  let v := x.2
  if n < 0x100 then
    let w := (s.readStrand n).getD 0 ^^^ v
    s.modR fun r =>
      let sr := r.sr
      if n = 0 then { r with sr := { sr with fela := w } } else if n = 1 then { r with sr := { sr with feli := w } }
      else if n = 2 then { r with sr := { sr with fels := w } } else if n = 3 then { r with sr := { sr with vctl := w } }
      else if n = 0xA then { r with sr := { sr with segexp := w } } else if n = 0xB then { r with sr := { sr with segrun := w } }
      else if 0x14 ≤ n ∧ n < 0x18 then { r with sr := { sr with lstart := vset sr.lstart (n - 0x14) w } }
      else if 0x18 ≤ n ∧ n < 0x1C then { r with sr := { sr with lend := vset sr.lend (n - 0x18) w } }
      else if n = 0x1C then { r with sr := { sr with lact := w } } else if n = 0x1D then { r with sr := { sr with txstate := w } }
      else if 0x40 ≤ n ∧ n < 0xC0 then { r with ag := vset r.ag (n - 0x40) w }
      else if 0xC0 ≤ n then { r with xp := vset r.xp (n - 0xC0) w } else r
  else if n < 0x440 then
    let k := (n - 0x400) / 16
    let f := fun (h : Vector Shape 4) => h.mapFinIdx fun i (g : Shape) _ => if i = k then (⟨vset g.w (n % 8) (vget g.w (n % 8) ^^^ v)⟩ : Shape) else g
    s.modR fun r => if n / 8 % 2 = 0 then { r with shA := f r.shA } else { r with shS := f r.shS }
  else { s with core := { s.core with tiles := s.core.tiles.mapFinIdx fun i (t : Tile) _ => if i = n - 0x440 then Tile.ofWord (t.word ^^^ v) else t } }

/-- Undoes one entry (12 R372); the memory of an irreversible one stays (12 R368). -/
def undoEntry (s : State) (e : LogEnt) : State :=
  let irr := e.flags / 2 % 2 = 1
  let s := if irr then s.setDiverged s.core.partOf true else s
  if e.kind = Ent.undo then (if irr then s else undoWrite (fw e.body 0) (undoOld e).1 (some (undoOld e).2) s)
  else if e.kind = Ent.atomic then (if irr then s else undoWrite (fw e.body 0) (slice e.body 16 (field e.body 8 8)) none s)
  else if e.kind = Ent.tile then
    if irr then s else
    let n := field e.body 24 4
    (List.range n).foldl (fun s i => undoWrite (fw e.body 16 + BitVec.ofNat 64 (64 * i)) (slice e.body (32 + 64 * i) 64)
      (some (BitVec.ofNat 25 (field e.body (32 + 64 * n + 4 * i) 4))) s) s
  else if e.kind = Ent.regs then s.modR (undoRegs e.body)
  else if e.kind = Ent.sregs then
    ((List.range (e.body.length / 16)).map fun i => (field e.body (16 * i) 8, fw e.body (16 * i + 8))).foldl undoSel s
  else if e.kind = Ent.mreg then
    let ms := field e.body 4104 1
    let cells : SMap W32 := ((List.range 1024).map fun i => (i, BitVec.ofNat 32 (field e.body (8 + 4 * i) 4))).filter fun c => c.2 ≠ 0
    let m : MReg := ⟨cells, decide (ms / 4 % 2 = 1), if ms % 4 = 0 then .on else if ms % 4 = 1 then .drowsy else .gated⟩
    s.modR fun r => { r with m := vset r.m (field e.body 0 8) m }
  else s

/-- Undoes windows, newest first, until LOGCUR stands at the target; the flag says whether any was undone. -/
def moveBack (target : Option Nat) (force : Bool) : Nat → Bool → State → DbgEnd × Bool × State
  | 0, moved, s => (.ok, moved, s)
  | fuel + 1, moved, s =>
    let cur := s.core.log.cur.toNat
    if target.any fun t => decide (cur ≤ t) then (.ok, moved, s) else
    match ((keptEntries s).filter fun x => x.2.1.kind == Ent.regs && decide (x.1 + x.2.2 ≤ cur)).getLast? with
    | none => (.cause Cause.horizonReached none 0, moved, s)
    | some last =>
      let v := last.2.1.win
      match ((logBounds s).filter fun b => decide (b.at_ ≤ last.1)).getLast? with
      | none => (.cause Cause.horizonReached none 0, moved, s)
      | some b =>
        if v < s.core.log.horizon ∨ b.win ≠ v.toNat then (.cause Cause.horizonReached none 0, moved, s) else
        let es := ((keptEntries s).filter fun x => decide (b.at_ ≤ x.1) && decide (x.1 < cur)).map fun x => x.2.1
        match es.findSome? (entryStops force s) with
        | some e => (e, moved, s)
        | none =>
          let s := es.reverse.foldl undoEntry s
          let s := s.modLog fun l => { l with cur := BitVec.ofNat 64 b.at_ }
          moveBack target force fuel true (s.modR fun r => { r with pc := b.pc, sr := { r.sr with win := v } })

/-- After a movement no command is left, and the progress blocks read STATE 0. -/
def dropCommands (s : State) : State :=
  let s := (List.range 5).foldl (fun s q => s.setProgState q 0) s
  { s with core := { s.core with
      eqcnt := Vector.ofFn fun k => let w := s.core.eqcnt.get k; BitVec.ofNat 64 (bits w 32 32 * 2 ^ 32 + bits w 32 32),
      eng := { s.core.eng with queues := Vector.replicate 6 [], signals := [] } } }

/-- The nearest engine-quiet boundary that opens window `w` or an earlier one. -/
def quietTarget (w : Nat) (s : State) : Option Nat :=
  (((logBounds s).filter fun b => b.quiet && decide (b.win ≤ w)).getLast?).map LogBound.at_

/-- The operations that need a held strand: 0x80 otherwise. -/
def onHeld (p : Fin 8) (b : List Byte) (s : State) (f : FrameData → State → Option DbgEnd × State) : Option DbgEnd × State :=
  if !isHeld p b s then (some (.bad 0x80), s) else
  let o := dbgOpen p b s
  f o.1 o.2.2

/-- A movement to a target on the held strand; FULL mode is needed. -/
def dbgMove (p : Fin 8) (b : List Byte) (target : State → Option Nat) (s : State) : Option DbgEnd × State :=
  onHeld p b s fun f t =>
    if bits t.core.log.mode 0 2 ≠ 2 then (some (.bad 0x81), dbgClose p f s false t) else
    let r := moveBack (target t) (field b 1 1 % 2 = 1) (t.core.log.head.toNat / 16 + 1) false t
    (some r.1, dbgClose p f s false (if r.2.1 then dropCommands r.2.2 else r.2.2))

/-- The window `n` windows back from LOGCUR. -/
def windowsBack (n : Nat) (s : State) : Option Nat :=
  let ws := ((keptEntries s).filter fun x => x.2.1.kind == Ent.regs && decide (x.1 < s.core.log.cur.toNat)).map fun x => x.2.1.win.toNat
  if n ≤ ws.length then ws[ws.length - n]? else none

/-- RSTEP. -/
def execDbgRstep (part : Fin 8) (s : State) : EngEnds :=
  dbgOp part 2 (fun b s =>
    let n := field b 16 8
    if n = 0 ∨ 2 ^ 32 < n then (some (.bad 0x83), s)
    else dbgMove part b (fun t => (windowsBack n t).bind fun w => quietTarget w t) s) s

/-- RUNBACK. -/
def execDbgRunback (part : Fin 8) (s : State) : EngEnds :=
  dbgOp part 3 (fun b s => dbgMove part b (quietTarget (field b 16 8)) s) s

/-! STOP, REPLAY and RESUME (12 R370 R374 R375). -/

/-- STOP makes DEBUG_HALT pending on the strand's core; it is answered once the strand is held. -/
def execDbgStop (part : Fin 8) (s : State) : EngEnds :=
  dbgOp part 1 (fun b s =>
    if isHeld part b s then (some .ok, s) else
    match s.liveCores.find? fun k => let c := s.coreAt k; c.holdsStrand && c.partOf == part && c.crec == fw b 8 && !c.record.isEmpty with
    | none => (some (.bad 0x80), s)
    | some k =>
      (none, s.modCoreAt k fun c => if c.pend.any fun e => e.1 == Cause.debugHalt then c
        else { c with pend := c.pend ++ [(Cause.debugHalt, 0)] })) s

/-- A strand in replay that ended otherwise: its record is FAULTED, DONE or GANG_LOST. -/
def replayLost (p : Fin 8) (b : List Byte) (s : State) : Option (BitVec 8) :=
  let r := dbgRecord p b s
  if 4 ≤ field r 24 1 ∧ field r 18 1 / 4 % 2 = 0 then some (BitVec.ofNat 8 (field r 25 1)) else none

/-- REPLAY: the strand is made ready and runs in replay from its next pickup; it answers when the replay ends. -/
def execDbgReplay (part : Fin 8) (s : State) : EngEnds :=
  dbgOp part 4 (fun b s =>
    let waits := (s.part part.val).replays.any fun e => e.1 == fw b 8
    if s.liveCores.any fun k => let c := s.coreAt k; c.crec == fw b 8 && c.partOf == part && c.replay.isSome then (none, s)
    else if waits then
      match replayLost part b s with
      | none => (none, s)
      | some c => (some (.cause c none 0), s.modPart part.val fun v => { v with replays := v.replays.filter fun e => e.1 != fw b 8 })
    else onHeld part b s fun f t =>
      let l := t.core.log
      let w := fw b 16
      if bits l.mode 0 2 ≠ 2 then (some (.bad 0x81), dbgClose part f s false t)
      else if l.cur < l.tail then (some (.cause Cause.horizonReached none 0), dbgClose part f s false t)
      else if l.head ≤ l.cur ∨ (w ≠ 0 ∧ w ≤ t.core.r.sr.win) then (some .ok, dbgClose part f s false t)
      else
        let t := dbgClose part f s true t
        (none, t.modPart part.val fun v => { v with replays := (fw b 8, ⟨l.cur.toNat, w, field b 4 4, fw b 32, none, []⟩) :: v.replays })) s

/-- WRITE and RESUME discard every entry beyond the present state. -/
def cutLog (s : State) : State := s.modLog fun l => { l with head := l.cur }

/-- RESUME writes the record READY. -/
def execDbgResume (part : Fin 8) (s : State) : EngEnds :=
  dbgOp part 7 (fun b s => onHeld part b s fun f t => (some .ok, dbgClose part f s true (cutLog t))) s

/-! READ and WRITE (12 R375 R376). -/

/-- What a selector names: the state registers are those of a strand and of the core that would run it, not a die's service registers (log
95). -/
inductive Selector where
  | memory (va : Word)
  | register (n : Nat)
  | state (n : Nat)
  | matrix (m : Fin 16) (g : Nat)

/-- The register numbers that name a register. -/
def regNumber (n : Nat) : Bool := decide (n < 0x5C) || (decide (0x60 ≤ n) && decide (n < 0x68))

/-- The selector of ARG0; none for a bit that its form does not use, or a number that names nothing in a frame. -/
def selectorOf (s : State) (w : Word) : Option Selector :=
  let form := bits w 62 2
  let v := bits w 0 62
  if form = 0 then (if v < 2 ^ 56 then some (.memory (BitVec.ofNat 64 v)) else none)
  else if form = 1 then (if v < 1024 && regNumber v then some (.register v) else none)
  else if form = 2 then (if v < 0x380 && (s.readState v).isSome then some (.state v) else none)
  else if v % 16 = 0 ∧ v < 2 ^ 15 then some (.matrix (Fin.ofNat 16 (v / 16)) (v / 256)) else none

/-- A register's value, its width in bytes, and whether it is valid. -/
def dbgReg (c : Core) (n : Nat) : Nat × Nat × Bool :=
  let r := c.r
  if n < 0x40 then ((c.readX (Fin.ofNat 64 n)).toNat, 8, n == 0 || r.xv.getLsbD n)
  else if n < 0x50 then (boolBit (n == 0x40 || r.p.getLsbD (n - 0x40)), 1, n == 0x40 || r.pv.getLsbD (n - 0x40))
  else if n < 0x58 then ((vget r.bt (n - 0x50)).toNat, 8, r.btv.getLsbD (n - 0x50))
  else if n < 0x5C then ((r.lc.toList.getD (n - 0x58) 0).toNat, 4, true)
  else ((r.vm.toList.getD (n - 0x60) 0).toNat, 4, true)

/-- Sets a register, which becomes valid; x0 and p0 discard the write. -/
def dbgSetReg (n v : Nat) (r : Regs) : Regs :=
  if n = 0 ∨ n = 0x40 then r
  else if n < 0x40 then { r with x := vset r.x n (BitVec.ofNat 64 v), xv := setBit r.xv n true }
  else if n < 0x50 then { r with p := setBit r.p (n - 0x40) (v % 2 == 1), pv := setBit r.pv (n - 0x40) true }
  else if n < 0x58 then { r with bt := vset r.bt (n - 0x50) (BitVec.ofNat 64 v), btv := setBit r.btv (n - 0x50) true }
  else if n < 0x5C then { r with lc := vset r.lc (n - 0x58) (BitVec.ofNat 32 v) }
  else { r with vm := vset r.vm (n - 0x60) (BitVec.ofNat 32 v) }

/-- Bytes of the first `n` elements' group. -/
def groupBytes (m : MReg) (g : Nat) : List Byte := (List.range 8).flatMap fun i => toBytes 4 (sget m.cells 0 (8 * g + i)).toNat

/-- A DROWSY register is woken by a debugger's access (07 R223). -/
def wakeReg (m : Fin 16) (s : State) : State :=
  s.modR fun r => if (r.m.get m).power = .drowsy then { r with m := vset r.m m.val { r.m.get m with power := .on } } else r

/-- The cause of a memory form that does not translate. -/
def dbgMapped (k : AKind) (va : Word) (n : Nat) (s : State) : Option (BitVec 8) :=
  (pagesOf va n).findSome? fun x => match locate (coreAgent s 3) k false x.1 s with
    | .ok _ _ => none
    | .trap c _ _ | .fault c _ _ => some c
    | .wait _ => none

/-- What a READ returns. COREID is that of the core that saved the frame `f`. -/
def dbgRead (f : FrameData) (x : Selector) (n : Nat) (s : State) : DbgEnd × State :=
  let give := fun (b : List Byte) => ({ DbgEnd.ok with data := slice b 0 n } : DbgEnd)
  match x with
  | .memory va =>
    match dbgMapped .read va n s with
    | some c => (.cause c none va, s)
    | none => let d := devRead (coreAgent s 3) va n s; (give d.1, d.2)
  | .register k =>
    let v := dbgReg s.core k
    if v.2.2 then (give (toBytes v.2.1 v.1), s) else (.cause Cause.regInvalid none 0, s)
  | .state k => (give (b8 (if k = 7 then fw f.low 0x1838 else (s.readState k).getD 0)), s)
  | .matrix m g =>
    if (s.core.r.m.get m).power = .gated then (.bad 0x84, s)
    else
      let s := wakeReg m s
      if (s.core.r.m.get m).valid then (give (groupBytes (s.core.r.m.get m) g), s) else (.cause Cause.regInvalid none 0, s)

/-- READ. -/
def execDbgRead (part : Fin 8) (s : State) : EngEnds :=
  dbgOp part 5 (fun b s => onHeld part b s fun f t =>
    let n := field b 24 8
    match selectorOf t (fw b 16) with
    | none => (some (.bad 0x83), dbgClose part f s false t)
    | some x =>
      if n = 0 ∨ 32 < n then (some (.bad 0x83), dbgClose part f s false t)
      else let r := dbgRead f x n t; (some r.1, dbgClose part f s false r.2)) s

/-- The state registers with some field that software may write (05 R148, 01 R29, 07 R224, 06 R195, 09 R299, 12 R354 R378, 14 R423). A
supervisor register that no frame holds is loaded again at the pickup (14 R423). -/
def stateWritable (n : Nat) : Bool :=
  (decide (1 ≤ n) && decide (n ≤ 4)) || (decide (0x10 ≤ n) && decide (n < 0x14)) || (decide (0x40 ≤ n) && decide (n < 0x100)) ||
  (decide (0x1A0 ≤ n) && decide (n < 0x200) && n % 16 == 0) || n == 0x200 || n == 0x201 || n == 0x203 || n == 0x204 ||
  (decide (0x210 ≤ n) && decide (n ≤ 0x212)) || (decide (0x280 ≤ n) && decide (n < 0x28C)) ||
  n == 0x300 || n == 0x302 || n == 0x308 || (decide (0x30A ≤ n) && decide (n ≤ 0x30E)) || (decide (0x320 ≤ n) && decide (n < 0x328))

/-- The first bytes of a value replaced by those written. -/
def overlay (old new : List Byte) : List Byte := new.take old.length ++ old.drop new.length

def dbgWrite (x : Selector) (bs : List Byte) (s : State) : DbgEnd × State :=
  match x with
  | .memory va =>
    match dbgMapped .write va bs.length s with
    | some c => (.cause c none va, s)
    | none => (.ok, devWrite (coreAgent s 3) va bs s)
  | .register k =>
    let v := dbgReg s.core k
    (.ok, s.modR (dbgSetReg k (ofBytes (overlay (toBytes v.2.1 v.1) bs))))
  | .state k =>
    if !stateWritable k then (.bad 0x83, s) else
    let v := BitVec.ofNat 64 (ofBytes (overlay (b8 ((s.readState k).getD 0)) bs))
    let sup := fun (m : Mode) (s : State) => ({ s with core := { s.core with mode := m } } : State)
    (.ok, sup .strand (boundaryWrites (writeState k v (sup .supervisor s))))
  | .matrix m g =>
    if (s.core.r.m.get m).power = .gated then (.bad 0x84, s)
    else
      let s := wakeReg m s
      let old := s.core.r.m.get m
      let b := overlay (if old.valid then groupBytes old g else List.replicate 32 0) bs
      let cs := (List.range 8).map fun i => (8 * g + i, BitVec.ofNat 32 (field b (4 * i) 4))
      (.ok, s.modR fun r => { r with m := vset r.m m.val (old.write cs) })

/-- WRITE: without logging; entries beyond the present state are discarded. -/
def execDbgWrite (part : Fin 8) (s : State) : EngEnds :=
  dbgOp part 6 (fun b s => onHeld part b s fun f t =>
    let n := field b 24 8
    match selectorOf t (fw b 16) with
    | none => (some (.bad 0x83), dbgClose part f s false t)
    | some x =>
      if n = 0 ∨ 24 < n then (some (.bad 0x83), dbgClose part f s false t)
      else
        let r := dbgWrite x (slice b 40 n) t
        (some r.1, dbgClose part f s false (if r.1.status = 0 then cutLog r.2 else r.2))) s

end

end Sys2Proof.Machine
end

