-- ==== Sys2Proof/Machine/Fetch.lean ====
section
/-! DEFINITION. The bundle at the pc: its fetch and its encoding faults (02 R42 R43 R76, 05 R179), the store bytes that
limit a window (02 R75), and the events of the issue: landings, closes, forced points, loop ends, waits and timers. -/

namespace Sys2Proof.Machine

noncomputable section

/-! The fetch. -/

/-- What a fetch ends in: the 32 bytes of the bundle, or the state of a trap or a stall. -/
inductive Fetched where
  | bytes (bs : List Byte) (s : State)
  | ended (s : State)

/-- A trap of the bundle as a whole: no slot (02 R76). -/
def bundleTrap (cause : BitVec 8) (addr : Word) (s : State) : State := takeTrap cause 7 addr 0 s

/-- The issue of the bundle at the pc begins. -/
def beginIssue (s : State) : State :=
  { s with core := { s.core with iss := { noIssue with active := true, pc := s.core.r.pc, slot := 7, first := s.core.seq } } }

/-- Fetches the bundle at the pc: FETCH_ALIGN, BREAKPOINT, translation, poison (02 R43, 04 R118, 06 R190, 14 R424). -/
def fetch (s : State) : Fetched :=
  let pc := s.core.r.pc
  if pc.toNat % 32 ≠ 0 then .ended (bundleTrap Cause.fetchAlign 0 s)
  else if s.core.sup.bkpt.toList.any fun b => bitAt b 0 && bits b 5 59 == bits pc 5 59 then .ended (bundleTrap Cause.breakpoint 0 s)
  else match locate (strandAgent s 0) .fetch false pc s with
    | .ok l s =>
      if s.poisonAt l.key then .ended (bundleTrap Cause.poisonTrap pc (if l.far then s.reportCxl 0 pc pc else s))
      else .bytes (s.peek l.key 32) { s with core := { s.core with iss := { s.core.iss with far := l.far } } }
    | .trap c v s => .ended (bundleTrap c v s)
    | .fault c v s => .ended (strandFault c v .fetch s)
    | .wait s => .ended s

/-! Encoding faults. -/

/-- The cause of a word that is no instruction. -/
def decodeCause : DecodeError → BitVec 8
  | .bundleReserved => Cause.bundleReserved
  | .opcodeUndef => Cause.opcodeUndef
  | .pairMisuse => Cause.pairMisuse

/-- The core is between a CALL and its target (05 R179). -/
def Core.inDelay (c : Core) : Bool := c.delay.isSome

/-- The fault of one slot's encoding, if any (02 R42, 05 R148 R179). -/
def encodingFault (s : State) (x : Fin 8 × Except DecodeError Instr) : Option (Fin 8 × BitVec 8) :=
  match x.2 with
  | .error e => some (x.1, decodeCause e)
  | .ok i =>
    if !modeFormOk i s then some (x.1, Cause.opcodeUndef)
    else if s.core.inDelay && ((x.1 == 0 && i != .tree 0 0 0 0 0 0 0 0 0 0) || serialising i s.core.tx.isSome) then some (x.1, Cause.opcodeUndef)
    else none

/-- CALL and CALLI. -/
def isCall : Instr → Bool
  | .call _ _ | .calli _ _ => true
  | _ => false

/-- A bundle whose encoding is sound: its header and the instructions of its slots. -/
structure Sound where
  header : Header
  slots : List (Fin 8 × Instr)

/-- Checks the encoding in the order of 02 R76: header faults, SCOPE, slots in order, PAIR_MISUSE last. A delay bundle that
SCOPE 0b101 makes serialising is refused as one with a serialising instruction is (05 R156 R179; log 103). Inside a transaction no mode
may use that SCOPE (12 R384). -/
def checkBundle (s : State) (bs : List Byte) : Except (Fin 8 × BitVec 8) Sound :=
  match decodeBundle (ofBytes bs) with
  | .error e => .error (7, decodeCause e)
  | .ok b =>
    let is := b.slots.filterMap fun x => match x.2 with
      | .ok i => some (x.1, i)
      | .error _ => none
    if b.header.q && (s.core.inDelay || is.any fun x => isCall x.2) then .error (7, Cause.bundleReserved)
    else if b.header.scope == 5 && (s.core.mode == .strand || s.core.tx.isSome) then .error (7, Cause.priv)
    else if b.header.scope == 5 && s.core.inDelay then .error (7, Cause.opcodeUndef)
    else
      let fs := b.slots.filterMap (encodingFault s)
      match fs.find? fun f => f.2 != Cause.pairMisuse, fs.head? with
      | some f, _ => .error f
      | none, some f => .error f
      | none, none => .ok ⟨b.header, is⟩

/-- The header's fields take effect; a tree of SHAPE 1 to 7 in the X slot takes its leaf (02 R40 R50 R52). -/
def openBundle (b : Sound) (bs : List Byte) (s : State) : State :=
  let t := b.slots.findSome? fun x => match x.2 with
    | .tree sh t1 t2 t3 t4 _ _ _ _ _ => if sh = 0 then none else some (s.leafOf sh t1 t2 t3 t4)
    | _ => none
  let iss := { s.core.iss with scope := b.header.scope, q := b.header.q, s := b.header.s, g := b.header.g, bytes := bs,
                               tree := t.isSome, taken := Fin.ofNat 8 (t.getD 0) }
  { s with core := { s.core with iss := iss } }

/-! The limits of a window (02 R75). -/

/-- The mask of MEN does not apply to the instruction: it writes all 32 lanes (07 R221). -/
def allLanes : Instr → Bool
  | .vsel .. | .vmask .. | .vred .. => true
  | _ => false

/-- Bytes of a port push. -/
def pushBytes (s : State) (i : Instr) : Nat :=
  match vslot i with
  | some (.port k, _, _) =>
    portSize s.core.r k.val * (if allLanes i then 32 else ((List.range 32).filter fun j => s.active.getLsbD j).length)
  | _ => 0

/-- A pop finds an entry, which it stores: in a replay the record says so (06 R209, 12 R374). -/
def popStores (s : State) (v : SQueue) : Bool :=
  match s.input 4 with
  | .live => v.oldest.isSome
  | .given r => fw r 0 != 0 && fw r 0 != BitVec.allOnes 64
  | .diverged _ _ => false

/-- The store bytes of an instruction, by the size its own rule states; a pop that finds no entry writes nothing. -/
def storeBytes (s : State) (i : Instr) : Nat :=
  if !s.guardTrue (guardOf i) || s.core.tx.isSome then 0 else
  match i with
  | .stB .. => 1
  | .stH .. => 2
  | .stW .. => 4
  | .stD .. => 8
  | .sttag .. | .rsend .. | .rrecv .. => 64
  | .stv .. | .stvs .. | .stg .. => 128
  | .qpush _ q _ => ((s.portQueue q.val).bind fun k => (s.squeue s.core.partOf.val s.core.pipeOf k).map SQueue.esize).getD 0
  | .qpop _ _ q _ | .qtry _ _ q _ =>
    match (s.portQueue q.val).bind fun k => s.squeue s.core.partOf.val s.core.pipeOf k with
    | some v => if popStores s v then v.esize else 0
    | none => 0
  | i => pushBytes s i

/-- Store bytes of pushes that have not landed. -/
def pushesInFlight (s : State) : Nat :=
  (s.core.land.map fun r => match r.write with | .push items _ => items.length | _ => 0).sum

/-- The store bytes of the `n` bundles from the pc, as far as they decode. -/
def bytesAhead (s : State) : Nat → Word → Nat
  | 0, _ => 0
  | n + 1, pc =>
    match fetch { s with core := { s.core with r := { s.core.r with pc := pc } } } with
    | .bytes bs _ => match checkBundle s bs with
      | .ok b => (b.slots.map fun x => storeBytes s x.2).sum + bytesAhead s n (pc + 32)
      | .error _ => 0
    | .ended _ => 0

/-- The bundles that may not be split by a quiescent point: a CALL with its delay bundles, or one bundle (05 R179). -/
def unsplit (s : State) (b : Sound) : Nat := if b.slots.any fun x => isCall x.2 && s.guardTrue (guardOf x.2) then 4 else 1

/-- A quiescent point has to be taken before the bundle (02 R75). A CALL is taken with its delay bundles and the target
(05 R179; log 27). -/
def forcedDue (s : State) (b : Sound) : Bool :=
  if s.core.win.bundles = 0 ∨ s.core.inDelay then false else
  let n := unsplit s b
  let most := if n = 1 then s.core.win.bundles else s.core.win.bundles + n
  decide (s.core.sup.qmax.toNat ≤ most) || decide (16384 < s.core.win.bytes + pushesInFlight s + bytesAhead s n s.core.iss.pc)

/-- A y value is still readable after the quiescent point at beat `q` (02 R64 R74). -/
def liveAfter (s : State) (q : Nat) : Bool :=
  s.core.mode == .strand &&
  (s.core.y.toList.any (fun y => match y.beat with | some b => decide (q < b + 1) | none => false) ||
   s.core.land.any fun r => match r.write with | .y _ _ => true | _ => false)

/-- A quiescent point before a bundle, as if the bundle before it had been Q-marked: it ends that bundle's group, and the late
results land first; a forced one records QUIET_DRAIN, with slot 7 (02 R45 R75, 04 R135; log 101). -/
def pointBefore (forced : Bool) (s : State) : State :=
  if liveAfter s (s.core.beat - 1) then bundleTrap Cause.quietLiveBypass 0 s
  else
    let s := drain { s with core := { s.core with group := 0, written := [] } }
    quiesce (if forced then s.record ⟨Ev.quietDrain, 7, 0, s.core.iss.pc⟩ else s)

/-! Events of the issue. -/

/-- RESULT_LANDING: the results whose beat has come (02 R44). -/
def execResultLanding (s : State) : Ends := .next (landUpTo s.core.beat s)

/-- INTERLOCKED_RESULT_ARRIVAL: result number `k` arrives (02 R73). -/
def execInterlockedResultArrival (k : Nat) (s : State) : Ends := .next (landInterlocked k s)

/-- WINDOW_CLOSE: the close of a window that is waiting is tried again (04 R134). -/
def execWindowClose (s : State) : Ends :=
  .next (if s.core.closing && s.core.post.isNone then quiesce s else s)

/-- The bundle at the pc as it would issue now, with the machine in which it is open: the results of its beat have landed
before its guards and its tree read predicates (02 R44). -/
def openNext (s : State) : Option (Sound × State) :=
  match fetch (beginIssue s) with
  | .bytes bs t => match checkBundle t bs with
    | .ok b => some (b, openBundle b bs (landUpTo t.core.beat t))
    | .error _ => none
  | .ended _ => none

/-- FORCED_QUIESCENT_POINT: taken when the next bundle would pass a limit (02 R75). -/
def execForcedQuiescentPoint (s : State) : Ends :=
  match openNext s with
  | some (b, t) => .next (if forcedDue t b then pointBefore true s else s)
  | none => .next s

/-- LOOP_END_STEP: the completion of the loop-end bundle that is being issued steps its loops, and a back edge goes to the
loop's start (05 R182). -/
def execLoopEndStep (s : State) : Ends :=
  if !s.core.iss.active || s.core.iss.target.isSome then .next s else
  match stepLoops s.core.iss.pc (activeLoops s.core.r.sr.lact) s with
  | (some t, s) => .next (s.modR fun r => { r with pc := t })
  | (none, s) => .next s

/-- WATCHDOG: WDCNT has reached WDLIMIT (05 R158). -/
def execWatchdog (s : State) : Ends :=
  .next (if s.core.wdcnt = s.core.sup.wdlimit then s.pendEvent Cause.watchdog 0 else s)

/-- The time base has reached TCMP of a core (14 R423). -/
def timerDue (c : Core) (clock : Nat) : Bool := c.sup.tcmp != 0 && decide (c.sup.tcmp.toNat ≤ clock)

/-- TIMER becomes pending at core `k`: as an asynchronous event of a strand, as bit 5 of FWEVENT on a firmware core (13 R421; log 125). -/
def timerAt (k : Nat) (s : State) : State :=
  if isFirmware k then s.fwEvent (dieOf k) 5
  else s.modCoreAt k fun c => if c.pend.any fun p => p.1 == Cause.timer then c else { c with pend := c.pend ++ [(Cause.timer, 0)] }

/-- TIMER. -/
def execTimer (s : State) : Ends :=
  .next (if timerDue s.core s.clock then timerAt s.core.id s else s)

/-- The blocking wait at the pc that may be converted, with WADDR and WVAL (05 R187). -/
def pendingWait (s : State) : Option (Word × W32) :=
  (openNext s).bind fun n => n.1.slots.findSome? fun x => if n.2.guardTrue (guardOf x.2) then convertible x.2 n.2 else none

/-- WAIT_CONVERSION: a blocking wait that has stalled for 256 clocks becomes a suspension (05 R187). -/
def execWaitConversion (s : State) : Ends :=
  if s.core.waitClocks < 256 ∨ s.core.record.isEmpty then .next s else
  match pendingWait s with
  | none => .next s
  | some w => .next (if enginesAtStop s then convertWait w s else requestStops s)

/-- The outcome of a blocking wait at its present state, none for another instruction. -/
def tryWait (i : Instr) (s : State) : Option Ends :=
  match i with
  | .waitMem g a b => some (execWaitMem g a b s)
  | .waitEng g m => some (execWaitEng g m s)
  | .barwait g d b disp => some (execBarwait g d b disp s)
  | .qpop g d q b => some (execQpop g d q b s)
  | .rrecv g d k b => some (execRrecv g d k b s)
  | _ => none

/-- The bundle at the pc holds a blocking wait whose condition is met. -/
def waitOver (s : State) : Bool :=
  match openNext s with
  | some (b, s) => b.slots.any fun x => match tryWait x.2 s with
    | some (.next t) => !t.core.iss.stalled && !t.core.iss.trapped
    | _ => false
  | none => false

/-- WAIT_SATISFIED: a stalled wait finds its condition met; its stall is over and its bundle issues next (05 R186 R187;
log 28). -/
def execWaitSatisfied (s : State) : Ends :=
  .next (if s.core.waitClocks ≠ 0 && waitOver s then { s with core := { s.core with waitClocks := 0 } } else s)

end

end Sys2Proof.Machine
end

