-- ==== Sys2Proof/Machine/LaunchEnd.lean ====
section
/-! DEFINITION. The end of a launch (13 R406), with the entry of its completion record in the log of a strand whose fault ended it (12
R367). -/

namespace Sys2Proof.Machine

noncomputable section

/-- The completion record that a packet of a queue names lies in host memory. -/
def complAway (p : Fin 8) (q : CmdQueue) (b : List Byte) (s : State) : Bool :=
  pktCompl b != 0 && match locate (fetchAgent s p q) .write false (pktCompl b) s with
    | .ok l _ => l.far
    | _ => false

/-- The IRREV entry of a completion record (12 R357 R367). -/
def complIrrev (b bytes : List Byte) (t : State) : LogEnt :=
  { kind := Ent.irrev, flags := 2, src := 7, win := t.core.r.sr.win, pc := t.core.r.pc,
    body := n8 3 ++ b8 (pktCompl b) ++ n8 bytes.length ++ n8 (crc32c bytes) }

/-- The entry enters the log that the frame of a strand holds, if it is on and has room. -/
def logInFrame (p : Fin 8) (b bytes : List Byte) (s : State) (at_ : Word) : State :=
  let o := dbgOpen p (n8 0 ++ b8 at_) s
  let t := o.2.2
  if bits t.core.log.mode 0 2 = 0 then s else
  let e := complIrrev b bytes t
  match logReady [e] t with
  | (none, t) => dbgClose p o.1 s false (logAppend t e)
  | (some _, _) => s

/-- The records of the strands that a fault ended and whose frames were saved then (14 R440). -/
def faultedRecs (s : State) (part : Fin 8) (p : Pipeline) : List Word :=
  ((readRecs s part p).filter fun r =>
    field r.2.2 24 1 == Status.faulted && fw r.2.2 8 != 0 &&
    !([Cause.ueRegister, Cause.sigMismatch, Cause.countMismatch].contains (r.2.2.getD 25 0))).map Prod.fst

/-- The completion record of a launch that a strand's fault ends is logged in that strand's log: it cannot be undone (12 R367; log 45). -/
def logCompletion (part : Fin 8) (p : Pipeline) (cause : Option (BitVec 8)) (s : State) : State :=
  match s.cq part p.queueK with
  | none => s
  | some q =>
    match q.packets.find? fun x => x.order == p.packet with
    | none => s
    | some x =>
      if complAway part q x.bytes s then
        (faultedRecs s part p).foldl (logInFrame part x.bytes (complBytes x.bytes cause p.unit p.causePc s.clock)) s
      else s

/-- LAUNCH_COMPLETE: the pipeline has ended, by itself or by a fault whose strands have all stopped; its packet completes.
A switch still waiting ends with it. -/
def execLaunchComplete (part : Fin 8) (pipe : Nat) (s : State) : EngEnds :=
  match s.pipeline part pipe with
  | none => .next s
  | some p =>
    if !(s.strandsOf part pipe).isEmpty || !(p.cause.isSome || (p.switch.isNone && pipelineEnded s part p)) then .next s else
    let cause := p.cause.or (if p.poison then some Cause.poisonAtEnd else none)
    let s := endPacket part p.queueK p.packet cause p.unit p.causePc (logCompletion part p cause s)
    let s := match p.switch with
      | some w => endPacket part w.queueK w.packet cause none 0 s
      | none => s
    .next (s.modPart part fun v => { v with pipes := sdel v.pipes pipe })

end

end Sys2Proof.Machine
end

