-- ==== Sys2Proof/Machine/VectorF.lean ====
section
/-! DEFINITION. The floating-point lane operations, packed halves and conversions of the V slot (07 R227 to R229 R231). -/

namespace Sys2Proof.Machine

noncomputable section

/-! Shapes of lane instructions. -/

/-- One source: its lanes through `f`, a result of latency `lat`. -/
def lanes1 (lat : Nat) (i : Instr) (ty : VType) (d a : VOp) (f : W32 → W32 × Flags) (s : State) : Ends :=
  slotOp i s fun s => (vsource ty a s).out .read fun va s => vresult lat d s.active (va.1.map f) va.2 s

/-- Two sources, a before b (07 R226). -/
def lanes2 (lat : Nat) (i : Instr) (ty : VType) (d a b : VOp) (f : W32 → W32 → W32 × Flags) (s : State) : Ends :=
  slotOp i s fun s =>
    (vsource ty a s).out .read fun va s => (vsource ty b s).out .read fun vb s =>
      vresult lat d s.active (List.zipWith f va.1 vb.1) (va.2 ++ vb.2) s

/-- The lanes of a destination that is also read (02 R59). -/
def State.destLanes (s : State) (d : VOp) : List W32 :=
  match d with
  | .line l => s.lineElems l
  | _ => List.replicate 32 0

/-- Two sources and the destination line as a third. -/
def lanes3 (lat : Nat) (i : Instr) (ty : VType) (d a b : VOp) (f : W32 → W32 → W32 → W32 × Flags) (s : State) : Ends :=
  slotOp i s fun s =>
    (vsource ty a s).out .read fun va s => (vsource ty b s).out .read fun vb s =>
      vresult lat d s.active (List.zipWith (fun g c => g c) (List.zipWith f va.1 vb.1) (s.destLanes d)) (va.2 ++ vb.2) s

/-- VCTL.RM and VCTL.FTZ (07 R220). -/
def State.rm (s : State) : Nat := bits s.core.r.sr.vctl 0 2
def State.ftz (s : State) : Bool := bitAt s.core.r.sr.vctl 2

/-- A pattern and flags as a lane. -/
def lane32 (r : Nat × Flags) : W32 × Flags := (BitVec.ofNat 32 r.1, r.2)
/-- Bits moved without an event. -/
def still (v : W32) : W32 × Flags := (v, noFlags)
/-- A compare's lane (07 R228). -/
def truth (b : Bool) (f : Flags) : W32 × Flags := (if b then 0xFFFFFFFF else 0, f)

/-- A two-source f32 operation under RM and FTZ. -/
def f32op2 (lat : Nat) (i : Instr) (d a b : VOp) (f : Nat → Bool → Nat → Nat → Nat × Flags) (s : State) : Ends :=
  lanes2 lat i .f32 d a b (fun x y => lane32 (f s.rm s.ftz x.toNat y.toNat)) s

def execFadd (g : Fin 8) (d a b : VOp) (s : State) : Ends := f32op2 2 (.fadd g d a b) d a b f32.add s
def execFsub (g : Fin 8) (d a b : VOp) (s : State) : Ends := f32op2 2 (.fsub g d a b) d a b f32.sub s
def execFmul (g : Fin 8) (d a b : VOp) (s : State) : Ends := f32op2 4 (.fmul g d a b) d a b f32.mul s
def execFfma (g : Fin 8) (d a b : VOp) (s : State) : Ends :=
  lanes3 4 (.ffma g d a b) .f32 d a b (fun x y z => lane32 (f32.fma s.rm s.ftz x.toNat y.toNat z.toNat)) s
def execFfms (g : Fin 8) (d a b : VOp) (s : State) : Ends :=
  lanes3 4 (.ffms g d a b) .f32 d a b (fun x y z => lane32 (f32.fms s.rm s.ftz x.toNat y.toNat z.toNat)) s

/-- FMAX and FMIN select among operands as read under FTZ (07 R228). -/
def selectF (t : Fmt) (isMax ftz : Bool) (x y : Nat) : Nat × Flags := t.maxMin isMax (t.flushIn ftz x) (t.flushIn ftz y)

def execFmax (g : Fin 8) (d a b : VOp) (s : State) : Ends := f32op2 2 (.fmax g d a b) d a b (fun _ => selectF f32 true) s
def execFmin (g : Fin 8) (d a b : VOp) (s : State) : Ends := f32op2 2 (.fmin g d a b) d a b (fun _ => selectF f32 false) s

def execFabs (g : Fin 8) (d a : VOp) (s : State) : Ends := lanes1 2 (.fabs g d a) .f32 d a (fun x => still (x &&& 0x7FFFFFFF)) s
def execFneg (g : Fin 8) (d a : VOp) (s : State) : Ends := lanes1 2 (.fneg g d a) .f32 d a (fun x => still (x ^^^ 0x80000000)) s
def execFcpys (g : Fin 8) (d a b : VOp) (s : State) : Ends :=
  lanes2 2 (.fcpys g d a b) .f32 d a b (fun x y => still ((x &&& 0x7FFFFFFF) ||| (y &&& 0x80000000))) s

/-- A function of one f32, rounded once under RM and FTZ. -/
def f32fun (lat : Nat) (i : Instr) (d a : VOp) (f : Nat → FVal → Nat × Flags) (s : State) : Ends :=
  lanes1 lat i .f32 d a (fun x => lane32 (f32.flushOut s.ftz (f s.rm (f32.decode (f32.flushIn s.ftz x.toNat))))) s

def execFrcp (g : Fin 8) (d a : VOp) (s : State) : Ends := f32fun 8 (.frcp g d a) d a f32.rcp s
def execFrsq (g : Fin 8) (d a : VOp) (s : State) : Ends := f32fun 8 (.frsq g d a) d a f32.rsqrt s
def execFlog2 (g : Fin 8) (d a : VOp) (s : State) : Ends := f32fun 8 (.flog2 g d a) d a f32.log2F s
/-- EXP2 of 03 R105; FTZ applies to its operand and final result. -/
def execFexp2 (g : Fin 8) (d a : VOp) (s : State) : Ends :=
  lanes1 8 (.fexp2 g d a) .f32 d a (fun x => lane32 (f32.flushOut s.ftz (exp2 (f32.flushIn s.ftz x.toNat)))) s
def execFrint (g : Fin 8) (d a : VOp) (sz : Fin 2) (s : State) : Ends :=
  lanes1 2 (.frint g d a sz) .f32 d a
    (fun x => lane32 (f32.rint (if sz = 1 then 1 else s.rm) (f32.flushIn s.ftz x.toNat))) s

/-! Compares (07 R228). -/

/-- The value of a pattern as a compare sees it. -/
def State.f32v (s : State) (x : W32) : FVal := f32.decode (f32.flushIn s.ftz x.toNat)
def anyNan (x y : FVal) : Flags := { noFlags with invalid := x.isNan || y.isNan }
def anySnan (x y : FVal) : Flags := { noFlags with invalid := x.isSnan || y.isSnan }

def execFcmpeq (g : Fin 8) (d a b : VOp) (s : State) : Ends :=
  lanes2 2 (.fcmpeq g d a b) .f32 d a b (fun x y => truth ((s.f32v x).eq (s.f32v y)) (anySnan (s.f32v x) (s.f32v y))) s
def execFcmplt (g : Fin 8) (d a b : VOp) (s : State) : Ends :=
  lanes2 2 (.fcmplt g d a b) .f32 d a b (fun x y => truth ((s.f32v x).lt (s.f32v y)) (anyNan (s.f32v x) (s.f32v y))) s
def execFcmple (g : Fin 8) (d a b : VOp) (s : State) : Ends :=
  lanes2 2 (.fcmple g d a b) .f32 d a b
    (fun x y => truth ((s.f32v x).lt (s.f32v y) || (s.f32v x).eq (s.f32v y)) (anyNan (s.f32v x) (s.f32v y))) s
def execFcmpun (g : Fin 8) (d a b : VOp) (s : State) : Ends :=
  lanes2 2 (.fcmpun g d a b) .f32 d a b
    (fun x y => truth ((s.f32v x).isNan || (s.f32v y).isNan) (anySnan (s.f32v x) (s.f32v y))) s

/-! Packed halves (07 R229). -/

/-- The type S selects. -/
def halfType (sz : Fin 2) : Fmt := if sz = 0 then f16 else bf16
def halfV (sz : Fin 2) : VType := .half (decide (sz = 1))

/-- Two half results as a lane, with the events of both. -/
def joinHalves (lo hi : Nat × Flags) : W32 × Flags := (BitVec.ofNat 32 (lo.1 + hi.1 * 2 ^ 16), lo.2.or hi.2)
def loHalf (x : W32) : Nat := x.toNat % 2 ^ 16
def hiHalf (x : W32) : Nat := x.toNat / 2 ^ 16

/-- A two-source operation on both halves. -/
def halves2 (f : Nat → Nat → Nat × Flags) (x y : W32) : W32 × Flags :=
  joinHalves (f (loHalf x) (loHalf y)) (f (hiHalf x) (hiHalf y))

def execHadd (g : Fin 8) (d a b : VOp) (sz : Fin 2) (s : State) : Ends :=
  lanes2 2 (.hadd g d a b sz) (halfV sz) d a b (halves2 ((halfType sz).add s.rm s.ftz)) s
def execHmul (g : Fin 8) (d a b : VOp) (sz : Fin 2) (s : State) : Ends :=
  lanes2 4 (.hmul g d a b sz) (halfV sz) d a b (halves2 ((halfType sz).mul s.rm s.ftz)) s
def execHfma (g : Fin 8) (d a b : VOp) (sz : Fin 2) (s : State) : Ends :=
  lanes3 4 (.hfma g d a b sz) (halfV sz) d a b (fun x y z =>
    joinHalves ((halfType sz).fma s.rm s.ftz (loHalf x) (loHalf y) (loHalf z))
      ((halfType sz).fma s.rm s.ftz (hiHalf x) (hiHalf y) (hiHalf z))) s
def execHmax (g : Fin 8) (d a b : VOp) (sz : Fin 2) (s : State) : Ends :=
  lanes2 2 (.hmax g d a b sz) (halfV sz) d a b (halves2 (selectF (halfType sz) true s.ftz)) s

/-! Conversions (07 R231). -/

/-- The float format of a type code. -/
def cvtFmt (c : Nat) : Option Fmt := match c with | 0 => some f32 | 3 => some f16 | 4 => some bf16 | _ => none
/-- The range of an integer type code. -/
def cvtRange (c : Nat) : Int × Int :=
  match c with
  | 1 => (-2147483648, 2147483647)
  | 2 => (0, 4294967295)
  | 5 => (-32768, 32767)
  | 6 => (0, 65535)
  | 7 => (-128, 127)
  | _ => (0, 255)

/-- The source value of a lane: floats under FTZ, integers by their bits. -/
def cvtSource (c : Nat) (ftz : Bool) (x : W32) : FVal :=
  match cvtFmt c with
  | some t => t.decode (t.flushIn ftz (x.toNat % 2 ^ t.width))
  | none => ofIntV (match c with
    | 1 => x.toInt
    | 2 => x.toNat
    | 5 => sint 16 x.toNat
    | 6 => ((x.toNat % 2 ^ 16 : Nat) : Int)
    | 7 => sint 8 x.toNat
    | _ => ((x.toNat % 2 ^ 8 : Nat) : Int))

/-- The lane of a conversion (03 R94). -/
def cvtLane (dst src rm : Nat) (ftz : Bool) (x : W32) : W32 × Flags :=
  let v := cvtSource src ftz x
  match cvtFmt dst with
  | some t => lane32 (t.flushOut ftz (t.convV rm v))
  | none =>
    let r := convInt rm (cvtRange dst).1 (cvtRange dst).2 v
    (BitVec.ofInt 32 r.1, r.2)

/-- How a broadcast is read, by the source type (07 R219). -/
def cvtBroadcast (src : Nat) : VType := match src with | 0 => .f32 | 3 => .half false | 4 => .half true | _ => .int

def execCvt (g : Fin 8) (d a : VOp) (dst src : Fin 16) (sz : Fin 2) (s : State) : Ends :=
  lanes1 3 (.cvt g d a dst src sz) (cvtBroadcast src.val) d a
    (cvtLane dst.val src.val (if sz = 1 then 1 else s.rm) s.ftz) s

end

end Sys2Proof.Machine
end

