-- ==== Sys2Proof/Machine/MatReg.lean ====
section
/-! DEFINITION. The rank-1 update and the management of matrix registers (07 R222 R223 R237 R238). -/

namespace Sys2Proof.Machine

noncomputable section

/-- Element (i, j) of an update: fused f32 under RM and FTZ, or modular i32. -/
def mmrElem (sz : Fin 2) (rm : Nat) (ftz : Bool) (m a b : W32) : W32 × Flags :=
  if sz = 0 then lane32 (f32.fma rm ftz a.toNat b.toNat m.toNat) else still (m + a * b)

/-- The updated elements in row-major order; an invalid register reads as zeros (07 R237). -/
def mmrElems (sz : Fin 2) (rm : Nat) (ftz : Bool) (m : MReg) (a b : List W32) : List (W32 × Flags) :=
  (List.range 1024).map fun k =>
    mmrElem sz rm ftz (if m.valid then sget m.cells 0 k else 0) (a.getD (k / 32) 0) (b.getD (k % 32) 0)

/-- A register that holds the listed elements, row by row. -/
def regOf (vs : List W32) : MReg := ⟨(vs.zipIdx.filter fun v => v.1 != 0).map fun v => (v.2, v.1), true, .on⟩

def execMmr (g : Fin 8) (m : Fin 16) (a b : VOp) (sz : Fin 2) (s : State) : Ends :=
  slotOp (.mmr g m a b sz) s fun s =>
    let ty : VType := if sz = 0 then .f32 else .int
    (vsource ty a s).out .read fun va s => (vsource ty b s).out .read fun vb s =>
      let es := mmrElems sz s.rm s.ftz (s.core.r.m.get m) va.1 vb.1
      let ev := es.zipIdx.flatMap fun e => laneEvent s (e.2 / 32) e.1.2
      .next (s.result (some 4) (.mreg m (regOf (es.map Prod.fst))) (va.2 ++ vb.2 ++ ev))

/-- The register is replaced at latency 1. -/
def manage (i : Instr) (m : Fin 16) (f : MReg → Write) (s : State) : Ends :=
  slotOp i s fun s => .next (s.result (some 1) (f (s.core.r.m.get m)) [])

def execMzero (g : Fin 8) (m : Fin 16) (s : State) : Ends := manage (.mzero g m) m (fun _ => .mreg m ⟨[], true, .on⟩) s
def execMgate (g : Fin 8) (m : Fin 16) (s : State) : Ends := manage (.mgate g m) m (fun _ => .mreg m gatedReg) s
def execMdrowsy (g : Fin 8) (m : Fin 16) (s : State) : Ends :=
  manage (.mdrowsy g m) m (fun r => .power m (if r.power = .gated then .gated else .drowsy)) s
/-- From DROWSY the wake takes 4 clocks without a stall; from GATED the register is ON and invalid (07 R222). -/
def execMwake (g : Fin 8) (m : Fin 16) (s : State) : Ends :=
  slotOp (.mwake g m) s fun s =>
    match (s.core.r.m.get m).power with
    | .on => .next (s.result (some 1) (.wake m) [])
    | .drowsy => .next ((startWake [m] s).result (some 1) (.wake m) [])
    | .gated => .next (s.result (some 1) (.mreg m ⟨[], false, .on⟩) [])
def execMinval (g : Fin 8) (m : Fin 16) (s : State) : Ends :=
  manage (.minval g m) m (fun r => .mreg m ⟨[], false, r.power⟩) s

/-- DROWSY_WAKE_COMPLETE: 4 clocks after its start a wake is complete (07 R222 R223). -/
def wakeUp (m : Fin 16) (s : State) : State :=
  if s.core.wake.any fun w => w.1 == m && decide (w.2 ≤ s.clock) then
    let s : State := { s with core := { s.core with wake := s.core.wake.filter fun w => w.1 != m } }
    if (s.core.r.m.get m).power = .drowsy then s.modR fun r => { r with m := r.m.set m { r.m.get m with power := .on } } else s
  else s

def execDrowsyWakeComplete (m : Fin 16) (s : State) : Ends := .next (wakeUp m s)

end

end Sys2Proof.Machine
end

