-- ==== Sys2Proof/Machine/VectorI.lean ====
section
/-! DEFINITION. The integer lane operations and the quantising conversions of the V slot (07 R230 R232 R233). -/

namespace Sys2Proof.Machine

noncomputable section

/-- The exact result, clamped to i32 with SATURATE when `sat` is 1, else modular (03 R84). -/
def narrow32 (sat : Fin 2) (v : Int) : W32 × Flags :=
  if sat = 1 then
    let c := clampInt v (-2147483648) 2147483647
    (BitVec.ofInt 32 c, { noFlags with sat := decide (c ≠ v) })
  else still (BitVec.ofInt 32 v)

/-- A two-source integer instruction. -/
def int2 (lat : Nat) (i : Instr) (d a b : VOp) (f : W32 → W32 → W32 × Flags) (s : State) : Ends := lanes2 lat i .int d a b f s

def execIadd (g : Fin 8) (d a b : VOp) (sz : Fin 2) (s : State) : Ends :=
  int2 2 (.iadd g d a b sz) d a b (fun x y => narrow32 sz (x.toInt + y.toInt)) s
def execIsub (g : Fin 8) (d a b : VOp) (sz : Fin 2) (s : State) : Ends :=
  int2 2 (.isub g d a b sz) d a b (fun x y => narrow32 sz (x.toInt - y.toInt)) s
def execImul (g : Fin 8) (d a b : VOp) (sz : Fin 2) (s : State) : Ends :=
  int2 4 (.imul g d a b sz) d a b (fun x y => narrow32 sz (x.toInt * y.toInt)) s
def execImulh (g : Fin 8) (d a b : VOp) (sz : Fin 2) (s : State) : Ends :=
  int2 4 (.imulh g d a b sz) d a b (fun x y =>
    still (if sz = 1 then BitVec.ofNat 32 (x.toNat * y.toNat / 2 ^ 32) else BitVec.ofInt 32 (x.toInt * y.toInt / (2 ^ 32 : Nat)))) s
def execImad (g : Fin 8) (d a b : VOp) (sz : Fin 2) (s : State) : Ends :=
  lanes3 4 (.imad g d a b sz) .int d a b (fun x y z => narrow32 sz (x.toInt * y.toInt + z.toInt)) s
def execImax (g : Fin 8) (d a b : VOp) (s : State) : Ends :=
  int2 2 (.imax g d a b) d a b (fun x y => still (if x.toInt ≤ y.toInt then y else x)) s
def execImin (g : Fin 8) (d a b : VOp) (s : State) : Ends :=
  int2 2 (.imin g d a b) d a b (fun x y => still (if x.toInt ≤ y.toInt then x else y)) s
def execImaxn (g : Fin 8) (d a b : VOp) (s : State) : Ends :=
  int2 2 (.imaxn g d a b) d a b (fun x y => still (if x.toNat ≤ y.toNat then y else x)) s
def execIminn (g : Fin 8) (d a b : VOp) (s : State) : Ends :=
  int2 2 (.iminn g d a b) d a b (fun x y => still (if x.toNat ≤ y.toNat then x else y)) s
def execIand (g : Fin 8) (d a b : VOp) (s : State) : Ends := int2 2 (.iand g d a b) d a b (fun x y => still (x &&& y)) s
def execIor (g : Fin 8) (d a b : VOp) (s : State) : Ends := int2 2 (.ior g d a b) d a b (fun x y => still (x ||| y)) s
def execIxor (g : Fin 8) (d a b : VOp) (s : State) : Ends := int2 2 (.ixor g d a b) d a b (fun x y => still (x ^^^ y)) s
/-- Shift amounts are b[4:0] (07 R230). -/
def execIshl (g : Fin 8) (d a b : VOp) (sz : Fin 2) (s : State) : Ends :=
  int2 2 (.ishl g d a b sz) d a b (fun x y => narrow32 sz (x.toInt * ((2 ^ (y.toNat % 32) : Nat) : Int))) s
def execIshr (g : Fin 8) (d a b : VOp) (s : State) : Ends :=
  int2 2 (.ishr g d a b) d a b (fun x y => still (x >>> (y.toNat % 32))) s
def execIsra (g : Fin 8) (d a b : VOp) (s : State) : Ends :=
  int2 2 (.isra g d a b) d a b (fun x y => still (x.sshiftRight (y.toNat % 32))) s
def execIabs (g : Fin 8) (d a : VOp) (sz : Fin 2) (s : State) : Ends :=
  lanes1 2 (.iabs g d a sz) .int d a (fun x => narrow32 sz x.toInt.natAbs) s
def execIcmpeq (g : Fin 8) (d a b : VOp) (s : State) : Ends :=
  int2 2 (.icmpeq g d a b) d a b (fun x y => truth (x == y) noFlags) s
def execIcmplt (g : Fin 8) (d a b : VOp) (s : State) : Ends :=
  int2 2 (.icmplt g d a b) d a b (fun x y => truth (decide (x.toInt < y.toInt)) noFlags) s
def execIcmpltn (g : Fin 8) (d a b : VOp) (s : State) : Ends :=
  int2 2 (.icmpltn g d a b) d a b (fun x y => truth (decide (x.toNat < y.toNat)) noFlags) s

/-! Quantisation (07 R232). -/

/-- The scalar an X operand broadcasts. -/
def State.xop (s : State) (o : VOp) : Word :=
  match o with
  | .xreg r => s.x r
  | _ => 0

/-- The quantisation word: e, lo and L. -/
def quantE (w : Word) : Int := sint 8 (bits w 0 8)
def quantL (w : Word) : Int := let p := bits w 8 3 + 1; if bitAt w 11 then ((2 ^ p : Nat) : Int) - 1 else ((2 ^ (p - 1) : Nat) : Int) - 1
def quantLo (w : Word) : Int := if bitAt w 11 then 0 else -quantL w

/-- One quantised element: 0 with INVALID for a NaN, else rne(x / 2^e) clamped. -/
def quantise (e lo hi : Int) (v : FVal) : Int × Flags := convInt 0 lo hi (v.scale (-e))

def execQnt (g : Fin 8) (d a b : VOp) (s : State) : Ends :=
  lanes2 3 (.qnt g d a b) .int d a b (fun x _ =>
    let w := s.xop b
    let r := quantise (quantE w) (quantLo w) (quantL w) (f32.decode x.toNat)
    (BitVec.ofInt 32 r.1, r.2)) s

def execDqnt (g : Fin 8) (d a b : VOp) (s : State) : Ends :=
  lanes2 3 (.dqnt g d a b) .int d a b (fun x _ =>
    lane32 (f32.round 0 (decide (x.toInt < 0)) x.toInt.natAbs (quantE (s.xop b)) false)) s

/-- The largest magnitude of finite values, as a pattern without its sign. -/
def amaxOf (vs : List W32) : Nat :=
  (vs.map fun v => let m := v.toNat % 2 ^ 31; if m < 0x7F800000 then m else 0).foldl max 0

/-- The least e with rne(amax / 2^e) at most L, for an amax that is not zero (03 R102). -/
def leastScale (amax : FVal) (hi : Int) : Int :=
  match amax with
  | .fin _ m e =>
    let start : Int := e + bitLen m - 12
    let fits := fun (k : Nat) => decide (roundInt 0 false m (e - (start + k)) ≤ hi)
    start + (((List.range 24).find? fits).getD 24 : Nat)
  | _ => 0

/-- The scale BSCALE chooses from the active lanes, before `prev`. -/
def blockScale (vs : List W32) (hi : Int) : Int :=
  let a := amaxOf vs
  clampInt (if a = 0 then -128 else leastScale (f32.decode a) hi) (-128) 127

/-- prev of BSCALE with S = 1. -/
def State.prevScale (s : State) (d : VOp) : Int :=
  match d with
  | .line l => ((s.lineElems l).getD 0 0).toInt
  | .xdest r => (s.x r).toInt
  | _ => 0

def execBscale (g : Fin 8) (d a b : VOp) (sz : Fin 2) (s : State) : Ends :=
  slotOp (.bscale g d a b sz) s fun s =>
    (vsource .int a s).out .read fun va s =>
      let act := s.active
      let e := blockScale ((va.1.zipIdx.filter fun v => act.getLsbD v.2).map Prod.fst) (quantL (s.xop b))
      let e := if sz = 1 then max e (s.prevScale d) else e
      let es := va.2.filter fun v => act.getLsbD v.lane.val
      if d.within [.D] then dresult 3 d (BitVec.ofInt 64 e) es s
      else vresult 3 d act (List.replicate 32 (still (BitVec.ofInt 32 e))) es s

/-! Planes (07 R233). -/

/-- The word whose bit i is bit k of value i. -/
def plane (vs : List W32) (k : Nat) : Nat := (vs.zipIdx.map fun v => if v.1.getLsbD k then 2 ^ v.2 else 0).sum

/-- An instruction whose result lanes come from all lanes of one source. -/
def across (lat : Nat) (i : Instr) (d a : VOp) (f : List W32 → List W32) (s : State) : Ends :=
  slotOp i s fun s =>
    (vsource .int a s).out .read fun va s => vresult lat d s.active ((f va.1).map still) va.2 s

def execPlpack (g : Fin 8) (d a : VOp) (f : Fin 256) (s : State) : Ends :=
  across 3 (.plpack g d a f) d a (fun vs =>
    (List.range 32).map fun k => if k < f.val then BitVec.ofNat 32 (plane vs k) else 0) s

def execPlunpk (g : Fin 8) (d a : VOp) (f : Fin 256) (s : State) : Ends :=
  across 3 (.plunpk g d a f) d a (fun vs =>
    let p := f.val % 16
    (List.range 32).map fun c =>
      let v := plane (vs.take p) c
      if f.val / 16 % 2 = 1 then sext32 p v else BitVec.ofNat 32 v) s

end

end Sys2Proof.Machine
end

