-- ==== Sys2Proof/Machine/VectorMove.lean ====
section
/-! DEFINITION. Data movement, reductions, prefixes and masks of the V slot (07 R234 to R236). -/

namespace Sys2Proof.Machine

noncomputable section

def execVmov (g : Fin 8) (d a : VOp) (s : State) : Ends := lanes1 2 (.vmov g d a) .int d a still s

/-- A movement whose lane j is chosen among the lanes of a by j and the lanes of b. -/
def permute (lat : Nat) (i : Instr) (d a b : VOp) (f : Nat → W32 → Nat) (s : State) : Ends :=
  slotOp i s fun s =>
    (vsource .int a s).out .read fun va s => (vsource .int b s).out .read fun vb s =>
      vresult lat d s.active (vb.1.mapIdx fun j n => still (va.1.getD (f j n % 32) 0)) (va.2 ++ vb.2) s

def execVbcast (g : Fin 8) (d a b : VOp) (s : State) : Ends := permute 2 (.vbcast g d a b) d a b (fun _ n => n.toNat) s
def execVshuf (g : Fin 8) (d a b : VOp) (s : State) : Ends := permute 3 (.vshuf g d a b) d a b (fun _ n => n.toNat) s
def execVrot (g : Fin 8) (d a b : VOp) (s : State) : Ends := permute 3 (.vrot g d a b) d a b (fun j n => j + n.toNat % 32) s

/-- VSEL selects by vmMSEL; MEN does not apply. -/
def execVsel (g : Fin 8) (d a b : VOp) (s : State) : Ends :=
  slotOp (.vsel g d a b) s fun s =>
    let m := s.core.r.vm.get (Fin.ofNat 8 (bits s.core.r.sr.vctl 4 3))
    (vsource .int a s).out .read fun va s => (vsource .int b s).out .read fun vb s =>
      let pick := (va.1.zip vb.1).mapIdx fun j p => still (if m.getLsbD j then p.1 else p.2)
      vresult 2 d 0xFFFFFFFF pick (va.2 ++ vb.2) s

def execViota (g : Fin 8) (d a b : VOp) (s : State) : Ends :=
  slotOp (.viota g d a b) s fun s =>
    (vsource .int a s).out .read fun va s => (vsource .int b s).out .read fun vb s =>
      vresult 2 d s.active ((va.1.zip vb.1).mapIdx fun j p => still (p.1 + BitVec.ofNat 32 j * p.2)) [] s

/-! Reductions (07 R235). -/

/-- The functions of VRED and VSCAN. Floating ones round by RNE and do not flush. -/
def redFun (f : Nat) (x y : W32) : W32 × Flags :=
  match f with
  | 0 => lane32 (f32.add 0 false x.toNat y.toNat)
  | 1 => lane32 (f32.maxMin true x.toNat y.toNat)
  | 2 => lane32 (f32.maxMin false x.toNat y.toNat)
  | 3 => still (x + y)
  | 4 => still (if x.toInt ≤ y.toInt then y else x)
  | 5 => still (if x.toInt ≤ y.toInt then x else y)
  | 6 => still (if x.toNat ≤ y.toNat then y else x)
  | 7 => still (if x.toNat ≤ y.toNat then x else y)
  | 8 => still (x &&& y)
  | 9 => still (x ||| y)
  | _ => still (x ^^^ y)

def redIdentity (f : Nat) : W32 :=
  match f with
  | 0 => 0x80000000
  | 1 => 0xFF800000
  | 2 => 0x7F800000
  | 4 => 0x80000000
  | 5 => 0x7FFFFFFF
  | 7 => 0xFFFFFFFF
  | 8 => 0xFFFFFFFF
  | _ => 0

/-- The lanes of a with inactive ones replaced by the identity. -/
def orIdentity (f : Nat) (act : W32) (vs : List W32) : List W32 := vs.mapIdx fun j v => if act.getLsbD j then v else redIdentity f

/-- One level of the pairwise tree at stride `w`: lane j takes f(v[j], v[j + w]). -/
def redLevel (f w : Nat) (vs : List (W32 × Flags)) : List (W32 × Flags) :=
  vs.mapIdx fun j v =>
    if j % (2 * w) = 0 then
      let r := redFun f v.1 (vs.getD (j + w) (0, noFlags)).1
      (r.1, v.2.or r.2)
    else v

/-- The pairwise tree: the lanes after it, lane 0 the result, with each lane's events. -/
def redTree (f : Nat) (vs : List W32) : List (W32 × Flags) := [1, 2, 4, 8, 16].foldl (fun v w => redLevel f w v) (vs.map still)

/-- Sign extension of a result in a D destination: f = 3 to 5 are signed. -/
def redExtend (f : Nat) (v : W32) : Word := if 3 ≤ f ∧ f ≤ 5 then v.signExtend 64 else v.setWidth 64

def execVred (g : Fin 8) (d a : VOp) (f : Fin 256) (s : State) : Ends :=
  slotOp (.vred g d a f) s fun s =>
    (vsource .int a s).out .read fun va s =>
      let tree := redTree f.val (orIdentity f.val s.active va.1)
      let es := (va.2.filter fun e => s.active.getLsbD e.lane.val) ++ tree.zipIdx.flatMap fun v => laneEvent s v.2 v.1.2
      let r := (tree.getD 0 (0, noFlags)).1
      if d.within [.D] then dresult 3 d (redExtend f.val r) es s
      else vresult 3 d 0xFFFFFFFF (List.replicate 32 (still r)) es s

/-- The prefixes from an accumulator: before each lane (exclusive) or after it. -/
def scanFrom (f : Nat) (excl : Bool) : W32 → List W32 → List (W32 × Flags)
  | _, [] => []
  | acc, v :: r =>
    let n := redFun f acc v
    (if excl then (acc, n.2) else n) :: scanFrom f excl n.1 r

def execVscan (g : Fin 8) (d a : VOp) (f : Fin 256) (sz : Fin 2) (s : State) : Ends :=
  slotOp (.vscan g d a f sz) s fun s =>
    (vsource .int a s).out .read fun va s =>
      vresult 3 d s.active (scanFrom f.val (sz == 1) (redIdentity f.val) (orIdentity f.val s.active va.1)) va.2 s

/-! Masks and scalars (07 R236). -/

/-- The number of one bits. -/
def ones (v : W32) : Nat := ((List.range 32).filter fun k => v.getLsbD k).length

/-- The mask an M operand names. -/
def State.maskOf (s : State) (o : VOp) : W32 :=
  match o with
  | .mask k => s.core.r.vm.get k
  | _ => 0

/-- A mask written whole. -/
def maskResult (lat : Nat) (d : VOp) (v : W32) (s : State) : Ends :=
  match d with
  | .mask k => .next (s.result (some lat) (.vm k v 0xFFFFFFFF) [])
  | _ => .next s

def execVmask (g : Fin 8) (d a b : VOp) (sz : Fin 2) (s : State) : Ends :=
  slotOp (.vmask g d a b sz) s fun s =>
    match d.kind, a.kind with
    | .M, .M => maskResult 2 d (if sz = 1 then s.maskOf a ||| s.maskOf b else s.maskOf a &&& s.maskOf b) s
    | .M, .X => maskResult 2 d ((s.xop a).setWidth 32) s
    | .D, _ => dresult 2 d ((s.maskOf a).setWidth 64) [] s
    | .M, _ => (vsource .int a s).out .read fun va s => vresult 2 d 0xFFFFFFFF (va.1.map still) va.2 s
    | _, _ => (vsource .int a s).out .read fun va s => vresult 2 d 0xFFFFFFFF (va.1.map fun v => truth (v != 0) noFlags) va.2 s

def execVpopc (g : Fin 8) (d a : VOp) (s : State) : Ends :=
  slotOp (.vpopc g d a) s fun s =>
    if d.within [.D] then dresult 3 d (BitVec.ofNat 64 (ones (s.maskOf a))) [] s
    else (vsource .int a s).out .read fun va s =>
      vresult 3 d s.active (va.1.map fun v => still (BitVec.ofNat 32 (ones v))) va.2 s

def execVext (g : Fin 8) (d a b : VOp) (sz : Fin 2) (s : State) : Ends :=
  slotOp (.vext g d a b sz) s fun s =>
    (vsource .int a s).out .read fun va s => (vsource .int b s).out .read fun vb s =>
      let v := va.1.getD ((vb.1.getD 0 0).toNat % 32) 0
      dresult 3 d (if sz = 1 then v.signExtend 64 else v.setWidth 64) (va.2.filter fun e => s.active.getLsbD e.lane.val) s

end

end Sys2Proof.Machine
end

