-- ==== Sys2Proof/Machine/Dispatch.lean ====
section
/-! DEFINITION. One arm for each instruction: a direct call of its meaning. -/

namespace Sys2Proof.Machine

open Sys2Proof in noncomputable
def exec (i : Instr) (s : State) : Host.Outcome State Fault Refusal :=
  match i with
  | .nop => Sys2Proof.Machine.execNop s
  | .add g d a b => Sys2Proof.Machine.execAdd g d a b s
  | .sub g d a b => Sys2Proof.Machine.execSub g d a b s
  | .mul g d a b => Sys2Proof.Machine.execMul g d a b s
  | .mulh g d a b => Sys2Proof.Machine.execMulh g d a b s
  | .mulhn g d a b => Sys2Proof.Machine.execMulhn g d a b s
  | .div g d a b => Sys2Proof.Machine.execDiv g d a b s
  | .divn g d a b => Sys2Proof.Machine.execDivn g d a b s
  | .rem g d a b => Sys2Proof.Machine.execRem g d a b s
  | .remn g d a b => Sys2Proof.Machine.execRemn g d a b s
  | .andOp g d a b => Sys2Proof.Machine.execAndOp g d a b s
  | .orOp g d a b => Sys2Proof.Machine.execOrOp g d a b s
  | .xorOp g d a b => Sys2Proof.Machine.execXorOp g d a b s
  | .andn g d a b => Sys2Proof.Machine.execAndn g d a b s
  | .sll g d a b => Sys2Proof.Machine.execSll g d a b s
  | .srl g d a b => Sys2Proof.Machine.execSrl g d a b s
  | .sra g d a b => Sys2Proof.Machine.execSra g d a b s
  | .rol g d a b => Sys2Proof.Machine.execRol g d a b s
  | .minOp g d a b => Sys2Proof.Machine.execMinOp g d a b s
  | .maxOp g d a b => Sys2Proof.Machine.execMaxOp g d a b s
  | .minn g d a b => Sys2Proof.Machine.execMinn g d a b s
  | .maxn g d a b => Sys2Proof.Machine.execMaxn g d a b s
  | .absOp g d a => Sys2Proof.Machine.execAbsOp g d a s
  | .clz g d a => Sys2Proof.Machine.execClz g d a s
  | .ctz g d a => Sys2Proof.Machine.execCtz g d a s
  | .popc g d a => Sys2Proof.Machine.execPopc g d a s
  | .sext g d a w => Sys2Proof.Machine.execSext g d a w s
  | .zext g d a w => Sys2Proof.Machine.execZext g d a w s
  | .bfx g d a b sz => Sys2Proof.Machine.execBfx g d a b sz s
  | .bfi g d a b => Sys2Proof.Machine.execBfi g d a b s
  | .sel g d a b n => Sys2Proof.Machine.execSel g d a b n s
  | .addi g d a im => Sys2Proof.Machine.execAddi g d a im s
  | .andi g d a im => Sys2Proof.Machine.execAndi g d a im s
  | .ori g d a im => Sys2Proof.Machine.execOri g d a im s
  | .xori g d a im => Sys2Proof.Machine.execXori g d a im s
  | .slli g d a im => Sys2Proof.Machine.execSlli g d a im s
  | .srli g d a im => Sys2Proof.Machine.execSrli g d a im s
  | .srai g d a im => Sys2Proof.Machine.execSrai g d a im s
  | .muli g d a im => Sys2Proof.Machine.execMuli g d a im s
  | .limm g d im => Sys2Proof.Machine.execLimm g d im s
  | .limmPair g d im => Sys2Proof.Machine.execLimmPair g d im s
  | .lihi g d a im => Sys2Proof.Machine.execLihi g d a im s
  | .lihiPair g d a im => Sys2Proof.Machine.execLihiPair g d a im s
  | .pcadd g d im => Sys2Proof.Machine.execPcadd g d im s
  | .cmpeq g d a b => Sys2Proof.Machine.execCmpeq g d a b s
  | .cmpne g d a b => Sys2Proof.Machine.execCmpne g d a b s
  | .cmplt g d a b => Sys2Proof.Machine.execCmplt g d a b s
  | .cmple g d a b => Sys2Proof.Machine.execCmple g d a b s
  | .cmpltn g d a b => Sys2Proof.Machine.execCmpltn g d a b s
  | .cmplen g d a b => Sys2Proof.Machine.execCmplen g d a b s
  | .cmpeqi g d a im => Sys2Proof.Machine.execCmpeqi g d a im s
  | .cmplti g d a im => Sys2Proof.Machine.execCmplti g d a im s
  | .cmpltni g d a im => Sys2Proof.Machine.execCmpltni g d a im s
  | .pand g d a b => Sys2Proof.Machine.execPand g d a b s
  | .por g d a b => Sys2Proof.Machine.execPor g d a b s
  | .pxor g d a b => Sys2Proof.Machine.execPxor g d a b s
  | .pandn g d a b => Sys2Proof.Machine.execPandn g d a b s
  | .tstbit g d a n => Sys2Proof.Machine.execTstbit g d a n s
  | .mfs g d n => Sys2Proof.Machine.execMfs g d n s
  | .mts g a n => Sys2Proof.Machine.execMts g a n s
  | .shw g k a n => Sys2Proof.Machine.execShw g k a n s
  | .btmovToBt g k a => Sys2Proof.Machine.execBtmovToBt g k a s
  | .btmovFromBt g d k => Sys2Proof.Machine.execBtmovFromBt g d k s
  | .btset g k im => Sys2Proof.Machine.execBtset g k im s
  | .agw g k a n => Sys2Proof.Machine.execAgw g k a n s
  | .xpw g k a n => Sys2Proof.Machine.execXpw g k a n s
  | .chkerr g d c => Sys2Proof.Machine.execChkerr g d c s
  | .segset g im => Sys2Proof.Machine.execSegset g im s
  | .cvtaOff g d a => Sys2Proof.Machine.execCvtaOff g d a s
  | .cvtaOwn g d a => Sys2Proof.Machine.execCvtaOwn g d a s
  | .cvtaCl g d a b => Sys2Proof.Machine.execCvtaCl g d a b s
  | .isap g d a k => Sys2Proof.Machine.execIsap g d a k s
  | .rdpw g d a sz k => Sys2Proof.Machine.execRdpw g d a sz k s
  | .rdtime g d => Sys2Proof.Machine.execRdtime g d s
  | .ecnt g d e => Sys2Proof.Machine.execEcnt g d e s
  | .rdwin g d => Sys2Proof.Machine.execRdwin g d s
  | .tlbinvPage g a sz => Sys2Proof.Machine.execTlbinvPage g a sz s
  | .tlbinvAll g sz => Sys2Proof.Machine.execTlbinvAll g sz s
  | .cinvWbinv g => Sys2Proof.Machine.execCinvWbinv g s
  | .cinvInv g => Sys2Proof.Machine.execCinvInv g s
  | .cinvWbpage g a => Sys2Proof.Machine.execCinvWbpage g a s
  | .ctxsave g a => Sys2Proof.Machine.execCtxsave g a s
  | .ctxload g a => Sys2Proof.Machine.execCtxload g a s
  | .pswap g a b => Sys2Proof.Machine.execPswap g a b s
  | .quarantine g a => Sys2Proof.Machine.execQuarantine g a s
  | .svc g n => Sys2Proof.Machine.execSvc g n s
  | .hackset g a v => Sys2Proof.Machine.execHackset g a v s
  | .dirtyclr g a b => Sys2Proof.Machine.execDirtyclr g a b s
  | .tree shape t1 t2 t3 t4 l1 l2 l3 l4 l5 => Sys2Proof.Machine.execTree shape t1 t2 t3 t4 l1 l2 l3 l4 l5 s
  | .br g disp => Sys2Proof.Machine.execBr g disp s
  | .bri g a => Sys2Proof.Machine.execBri g a s
  | .call g disp => Sys2Proof.Machine.execCall g disp s
  | .calli g a => Sys2Proof.Machine.execCalli g a s
  | .ret g k => Sys2Proof.Machine.execRet g k s
  | .loopOp g n k len => Sys2Proof.Machine.execLoopOp g n k len s
  | .yield g => Sys2Proof.Machine.execYield g s
  | .suspend g => Sys2Proof.Machine.execSuspend g s
  | .fork g a disp => Sys2Proof.Machine.execFork g a disp s
  | .exitOp g => Sys2Proof.Machine.execExitOp g s
  | .trapOp g disp => Sys2Proof.Machine.execTrapOp g disp s
  | .waitMem g a b => Sys2Proof.Machine.execWaitMem g a b s
  | .waitEng g mask => Sys2Proof.Machine.execWaitEng g mask s
  | .rftResume g => Sys2Proof.Machine.execRftResume g s
  | .rftYield g => Sys2Proof.Machine.execRftYield g s
  | .rftSuspend g => Sys2Proof.Machine.execRftSuspend g s
  | .rftFault g => Sys2Proof.Machine.execRftFault g s
  | .rftHold g => Sys2Proof.Machine.execRftHold g s
  | .idle g => Sys2Proof.Machine.execIdle g s
  | .ldB g d b disp => Sys2Proof.Machine.execLdB g d b disp s
  | .ldH g d b disp => Sys2Proof.Machine.execLdH g d b disp s
  | .ldW g d b disp => Sys2Proof.Machine.execLdW g d b disp s
  | .ldD g d b disp => Sys2Proof.Machine.execLdD g d b disp s
  | .ldnB g d b disp => Sys2Proof.Machine.execLdnB g d b disp s
  | .ldnH g d b disp => Sys2Proof.Machine.execLdnH g d b disp s
  | .ldnW g d b disp => Sys2Proof.Machine.execLdnW g d b disp s
  | .ldtag g d b disp => Sys2Proof.Machine.execLdtag g d b disp s
  | .stB g d b disp => Sys2Proof.Machine.execStB g d b disp s
  | .stH g d b disp => Sys2Proof.Machine.execStH g d b disp s
  | .stW g d b disp => Sys2Proof.Machine.execStW g d b disp s
  | .stD g d b disp => Sys2Proof.Machine.execStD g d b disp s
  | .sttag g d b disp => Sys2Proof.Machine.execSttag g d b disp s
  | .ldv g m b disp => Sys2Proof.Machine.execLdv g m b disp s
  | .stv g m b disp => Sys2Proof.Machine.execStv g m b disp s
  | .ldvs g m b st => Sys2Proof.Machine.execLdvs g m b st s
  | .stvs g m b st => Sys2Proof.Machine.execStvs g m b st s
  | .ldg g m b ix => Sys2Proof.Machine.execLdg g m b ix s
  | .stg g m b ix => Sys2Proof.Machine.execStg g m b ix s
  | .ldx g m b k => Sys2Proof.Machine.execLdx g m b k s
  | .aadd g d b disp => Sys2Proof.Machine.execAadd g d b disp s
  | .aand g d b disp => Sys2Proof.Machine.execAand g d b disp s
  | .aor g d b disp => Sys2Proof.Machine.execAor g d b disp s
  | .axor g d b disp => Sys2Proof.Machine.execAxor g d b disp s
  | .amin g d b disp => Sys2Proof.Machine.execAmin g d b disp s
  | .amax g d b disp => Sys2Proof.Machine.execAmax g d b disp s
  | .aminn g d b disp => Sys2Proof.Machine.execAminn g d b disp s
  | .amaxn g d b disp => Sys2Proof.Machine.execAmaxn g d b disp s
  | .axchg g d b disp => Sys2Proof.Machine.execAxchg g d b disp s
  | .acas g d b disp => Sys2Proof.Machine.execAcas g d b disp s
  | .afadd g d b disp => Sys2Proof.Machine.execAfadd g d b disp s
  | .fenceOp g sc => Sys2Proof.Machine.execFenceOp g sc s
  | .promote g sc b disp => Sys2Proof.Machine.execPromote g sc b disp s
  | .prefetch g l2 b disp => Sys2Proof.Machine.execPrefetch g l2 b disp s
  | .cflushWb g b disp => Sys2Proof.Machine.execCflushWb g b disp s
  | .cflushInv g b disp => Sys2Proof.Machine.execCflushInv g b disp s
  | .cflushMem g b disp => Sys2Proof.Machine.execCflushMem g b disp s
  | .barinit g d b disp => Sys2Proof.Machine.execBarinit g d b disp s
  | .bararr g d b disp => Sys2Proof.Machine.execBararr g d b disp s
  | .barwait g d b disp => Sys2Proof.Machine.execBarwait g d b disp s
  | .qpush g q b => Sys2Proof.Machine.execQpush g q b s
  | .qpop g d q b => Sys2Proof.Machine.execQpop g d q b s
  | .qtry g d q b => Sys2Proof.Machine.execQtry g d q b s
  | .rsend g d k b => Sys2Proof.Machine.execRsend g d k b s
  | .rrecv g d k b => Sys2Proof.Machine.execRrecv g d k b s
  | .ttdef g d b disp => Sys2Proof.Machine.execTtdef g d b disp s
  | .ttsetReady g b disp => Sys2Proof.Machine.execTtsetReady g b disp s
  | .ttsetEmpty g b disp => Sys2Proof.Machine.execTtsetEmpty g b disp s
  | .ttrel g b disp => Sys2Proof.Machine.execTtrel g b disp s
  | .ttstat g d b disp => Sys2Proof.Machine.execTtstat g d b disp s
  | .txbegin g k sc => Sys2Proof.Machine.execTxbegin g k sc s
  | .txend g => Sys2Proof.Machine.execTxend g s
  | .txabort g c => Sys2Proof.Machine.execTxabort g c s
  | .txstat g d => Sys2Proof.Machine.execTxstat g d s
  | .fadd g d a b => Sys2Proof.Machine.execFadd g d a b s
  | .fsub g d a b => Sys2Proof.Machine.execFsub g d a b s
  | .fmul g d a b => Sys2Proof.Machine.execFmul g d a b s
  | .ffma g d a b => Sys2Proof.Machine.execFfma g d a b s
  | .ffms g d a b => Sys2Proof.Machine.execFfms g d a b s
  | .fmax g d a b => Sys2Proof.Machine.execFmax g d a b s
  | .fmin g d a b => Sys2Proof.Machine.execFmin g d a b s
  | .fabs g d a => Sys2Proof.Machine.execFabs g d a s
  | .fneg g d a => Sys2Proof.Machine.execFneg g d a s
  | .fcpys g d a b => Sys2Proof.Machine.execFcpys g d a b s
  | .frcp g d a => Sys2Proof.Machine.execFrcp g d a s
  | .frsq g d a => Sys2Proof.Machine.execFrsq g d a s
  | .fexp2 g d a => Sys2Proof.Machine.execFexp2 g d a s
  | .flog2 g d a => Sys2Proof.Machine.execFlog2 g d a s
  | .frint g d a sz => Sys2Proof.Machine.execFrint g d a sz s
  | .fcmpeq g d a b => Sys2Proof.Machine.execFcmpeq g d a b s
  | .fcmplt g d a b => Sys2Proof.Machine.execFcmplt g d a b s
  | .fcmple g d a b => Sys2Proof.Machine.execFcmple g d a b s
  | .fcmpun g d a b => Sys2Proof.Machine.execFcmpun g d a b s
  | .hadd g d a b sz => Sys2Proof.Machine.execHadd g d a b sz s
  | .hmul g d a b sz => Sys2Proof.Machine.execHmul g d a b sz s
  | .hfma g d a b sz => Sys2Proof.Machine.execHfma g d a b sz s
  | .hmax g d a b sz => Sys2Proof.Machine.execHmax g d a b sz s
  | .iadd g d a b sz => Sys2Proof.Machine.execIadd g d a b sz s
  | .isub g d a b sz => Sys2Proof.Machine.execIsub g d a b sz s
  | .imul g d a b sz => Sys2Proof.Machine.execImul g d a b sz s
  | .imulh g d a b sz => Sys2Proof.Machine.execImulh g d a b sz s
  | .imad g d a b sz => Sys2Proof.Machine.execImad g d a b sz s
  | .imax g d a b => Sys2Proof.Machine.execImax g d a b s
  | .imin g d a b => Sys2Proof.Machine.execImin g d a b s
  | .imaxn g d a b => Sys2Proof.Machine.execImaxn g d a b s
  | .iminn g d a b => Sys2Proof.Machine.execIminn g d a b s
  | .iand g d a b => Sys2Proof.Machine.execIand g d a b s
  | .ior g d a b => Sys2Proof.Machine.execIor g d a b s
  | .ixor g d a b => Sys2Proof.Machine.execIxor g d a b s
  | .ishl g d a b sz => Sys2Proof.Machine.execIshl g d a b sz s
  | .ishr g d a b => Sys2Proof.Machine.execIshr g d a b s
  | .isra g d a b => Sys2Proof.Machine.execIsra g d a b s
  | .iabs g d a sz => Sys2Proof.Machine.execIabs g d a sz s
  | .icmpeq g d a b => Sys2Proof.Machine.execIcmpeq g d a b s
  | .icmplt g d a b => Sys2Proof.Machine.execIcmplt g d a b s
  | .icmpltn g d a b => Sys2Proof.Machine.execIcmpltn g d a b s
  | .cvt g d a dst src sz => Sys2Proof.Machine.execCvt g d a dst src sz s
  | .qnt g d a b => Sys2Proof.Machine.execQnt g d a b s
  | .dqnt g d a b => Sys2Proof.Machine.execDqnt g d a b s
  | .bscale g d a b sz => Sys2Proof.Machine.execBscale g d a b sz s
  | .plpack g d a f => Sys2Proof.Machine.execPlpack g d a f s
  | .plunpk g d a f => Sys2Proof.Machine.execPlunpk g d a f s
  | .vmov g d a => Sys2Proof.Machine.execVmov g d a s
  | .vbcast g d a b => Sys2Proof.Machine.execVbcast g d a b s
  | .vshuf g d a b => Sys2Proof.Machine.execVshuf g d a b s
  | .vrot g d a b => Sys2Proof.Machine.execVrot g d a b s
  | .vsel g d a b => Sys2Proof.Machine.execVsel g d a b s
  | .vred g d a f => Sys2Proof.Machine.execVred g d a f s
  | .vscan g d a f sz => Sys2Proof.Machine.execVscan g d a f sz s
  | .viota g d a b => Sys2Proof.Machine.execViota g d a b s
  | .vmask g d a b sz => Sys2Proof.Machine.execVmask g d a b sz s
  | .vpopc g d a => Sys2Proof.Machine.execVpopc g d a s
  | .vext g d a b sz => Sys2Proof.Machine.execVext g d a b sz s
  | .mmr g m a b sz => Sys2Proof.Machine.execMmr g m a b sz s
  | .mzero g m => Sys2Proof.Machine.execMzero g m s
  | .mgate g m => Sys2Proof.Machine.execMgate g m s
  | .mdrowsy g m => Sys2Proof.Machine.execMdrowsy g m s
  | .mwake g m => Sys2Proof.Machine.execMwake g m s
  | .minval g m => Sys2Proof.Machine.execMinval g m s
  | .mgemm g sa sb sc sw p r acc => Sys2Proof.Machine.execMgemm g sa sb sc sw p r acc s
  | .mgemms g sa sb sc sw p r acc => Sys2Proof.Machine.execMgemms g sa sb sc sw p r acc s
  | .mconv g sa sb sc sw p r acc => Sys2Proof.Machine.execMconv g sa sb sc sw p r acc s
  | .mattn g sa sb sc sw p r v fin => Sys2Proof.Machine.execMattn g sa sb sc sw p r v fin s
  | .scout g sa sb sw p r => Sys2Proof.Machine.execScout g sa sb sw p r s
  | .swin g sw p r => Sys2Proof.Machine.execSwin g sw p r s
  | .smask g sw p r => Sys2Proof.Machine.execSmask g sw p r s
  | .sscore g sa sb sc sw p r => Sys2Proof.Machine.execSscore g sa sb sc sw p r s
  | .ccopy g sa sc sw p r => Sys2Proof.Machine.execCcopy g sa sc sw p r s
  | .cgather g sa sb sc sw p r => Sys2Proof.Machine.execCgather g sa sb sc sw p r s
  | .cscatter g sa sb sc sw p r => Sys2Proof.Machine.execCscatter g sa sb sc sw p r s
  | .cfill g sc sw p r => Sys2Proof.Machine.execCfill g sc sw p r s
  | .ctrans g sa sc sw p r => Sys2Proof.Machine.execCtrans g sa sc sw p r s
  | .cplane g sa sc sw p r => Sys2Proof.Machine.execCplane g sa sc sw p r s
  | .cflat g sa sc sw p r => Sys2Proof.Machine.execCflat g sa sc sw p r s
  | .cpagein g sw p r => Sys2Proof.Machine.execCpagein g sw p r s
  | .cmigrate g sw p r => Sys2Proof.Machine.execCmigrate g sw p r s
  | .ctags g sw p r => Sys2Proof.Machine.execCtags g sw p r s
  | .vsort g sa sb sc sw p r => Sys2Proof.Machine.execVsort g sa sb sc sw p r s
  | .vsoftmax g sa sb sc sw p r => Sys2Proof.Machine.execVsoftmax g sa sb sc sw p r s
  | .vnorm g sa sb sc sw p r => Sys2Proof.Machine.execVnorm g sa sb sc sw p r s
  | .vreduce g sa sb sc sw p r => Sys2Proof.Machine.execVreduce g sa sb sc sw p r s
  | .allred g sa sc sw p r => Sys2Proof.Machine.execAllred g sa sc sw p r s
  | .allgath g sa sc sw p r => Sys2Proof.Machine.execAllgath g sa sc sw p r s
  | .redscat g sa sc sw p r => Sys2Proof.Machine.execRedscat g sa sc sw p r s
  | .xbcast g sa sc sw p r => Sys2Proof.Machine.execXbcast g sa sc sw p r s
  | .alltoall g sa sc sw p r => Sys2Proof.Machine.execAlltoall g sa sc sw p r s
  | .xsend g sa sw p r => Sys2Proof.Machine.execXsend g sa sw p r s
  | .xrecv g sc sw p r => Sys2Proof.Machine.execXrecv g sc sw p r s
  | .logmark g sw p code chk => Sys2Proof.Machine.execLogmark g sw p code chk s
  | .logflush g sw sc => Sys2Proof.Machine.execLogflush g sw sc s
  | .qfence g sw mask => Sys2Proof.Machine.execQfence g sw mask s
  | .etrel g sw t e => Sys2Proof.Machine.execEtrel g sw t e s
  | .ecancel g sw mask => Sys2Proof.Machine.execEcancel g sw mask s
  | .esignal g sw p mask sc => Sys2Proof.Machine.execEsignal g sw p mask sc s
  | .esignalAdd g sw p mask sc => Sys2Proof.Machine.execEsignalAdd g sw p mask sc s
  | .resultLanding => Sys2Proof.Machine.execResultLanding s
  | .interlockedResultArrival k => Sys2Proof.Machine.execInterlockedResultArrival k s
  | .windowClose => Sys2Proof.Machine.execWindowClose s
  | .forcedQuiescentPoint => Sys2Proof.Machine.execForcedQuiescentPoint s
  | .loopEndStep => Sys2Proof.Machine.execLoopEndStep s
  | .watchdog => Sys2Proof.Machine.execWatchdog s
  | .timer => Sys2Proof.Machine.execTimer s
  | .waitConversion => Sys2Proof.Machine.execWaitConversion s
  | .waitSatisfied => Sys2Proof.Machine.execWaitSatisfied s
  | .commandStart q => Sys2Proof.Machine.execCommandStart q s
  | .commandComplete q => Sys2Proof.Machine.execCommandComplete q s
  | .engineStop q => Sys2Proof.Machine.execEngineStop q s
  | .etrelAtHead q => Sys2Proof.Machine.execEtrelAtHead q s
  | .qfenceRelease k => Sys2Proof.Machine.execQfenceRelease k s
  | .esignalPerform k => Sys2Proof.Machine.execEsignalPerform k s
  | .copyChunk ue => Sys2Proof.Machine.execCopyChunk ue s
  | .cmigratePage => Sys2Proof.Machine.execCmigratePage s
  | .phaseFetch q => Sys2Proof.Machine.execPhaseFetch q s
  | .phaseFetchDone q ue => Sys2Proof.Machine.execPhaseFetchDone q ue s
  | .matrixTileStep ue => Sys2Proof.Machine.execMatrixTileStep ue s
  | .matrixRetirement => Sys2Proof.Machine.execMatrixRetirement s
  | .mattnKeyTileVisit => Sys2Proof.Machine.execMattnKeyTileVisit s
  | .scoutSweep1Tile ue => Sys2Proof.Machine.execScoutSweep1Tile ue s
  | .scoutSweep2 ue => Sys2Proof.Machine.execScoutSweep2 ue s
  | .sscoreTile ue => Sys2Proof.Machine.execSscoreTile ue s
  | .maskRow => Sys2Proof.Machine.execMaskRow s
  | .vsortRunSegment ue => Sys2Proof.Machine.execVsortRunSegment ue s
  | .rowOperation ue => Sys2Proof.Machine.execRowOperation ue s
  | .exchangeStep ue => Sys2Proof.Machine.execExchangeStep ue s
  | .startMsg m => Sys2Proof.Machine.execStartMsg m s
  | .dataMsg m => Sys2Proof.Machine.execDataMsg m s
  | .ackMsg m => Sys2Proof.Machine.execAckMsg m s
  | .pausedMsg m => Sys2Proof.Machine.execPausedMsg m s
  | .exchangeTimeout peer => Sys2Proof.Machine.execExchangeTimeout peer s
  | .linkRetryRequest port seq => Sys2Proof.Machine.execLinkRetryRequest port seq s
  | .linkAcknowledgement port seq => Sys2Proof.Machine.execLinkAcknowledgement port seq s
  | .linkUe port => Sys2Proof.Machine.execLinkUe port s
  | .linkTrainingStart port => Sys2Proof.Machine.execLinkTrainingStart port s
  | .linkTrainingComplete port => Sys2Proof.Machine.execLinkTrainingComplete port s
  | .linkTrainingTimeout port => Sys2Proof.Machine.execLinkTrainingTimeout port s
  | .faultReplyPoll w => Sys2Proof.Machine.execFaultReplyPoll w s
  | .tfringPostRetry w => Sys2Proof.Machine.execTfringPostRetry w s
  | .tlbShootdownComplete => Sys2Proof.Machine.execTlbShootdownComplete s
  | .writeBlockRetry => Sys2Proof.Machine.execWriteBlockRetry s
  | .tierNotify die idx => Sys2Proof.Machine.execTierNotify die idx s
  | .dirtyRingResume => Sys2Proof.Machine.execDirtyRingResume s
  | .configAreaWalkRetry part area => Sys2Proof.Machine.execConfigAreaWalkRetry part area s
  | .dispatchDecision => Sys2Proof.Machine.execDispatchDecision s
  | .blockedReevaluation part pipe => Sys2Proof.Machine.execBlockedReevaluation part pipe s
  | .suspendedPoll part pipe => Sys2Proof.Machine.execSuspendedPoll part pipe s
  | .remontoireRefill part pipe q => Sys2Proof.Machine.execRemontoireRefill part pipe q s
  | .packetLine0Poll part k => Sys2Proof.Machine.execPacketLine0Poll part k s
  | .packetNop part k => Sys2Proof.Machine.execPacketNop part k s
  | .launch part k => Sys2Proof.Machine.execLaunch part k s
  | .launchComplete part pipe => Sys2Proof.Machine.execLaunchComplete part pipe s
  | .waitv part k => Sys2Proof.Machine.execWaitv part k s
  | .waitvSatisfied part k => Sys2Proof.Machine.execWaitvSatisfied part k s
  | .signalPacket part k => Sys2Proof.Machine.execSignalPacket part k s
  | .ibcall part k => Sys2Proof.Machine.execIbcall part k s
  | .ibjump part k => Sys2Proof.Machine.execIbjump part k s
  | .ibSpinWatchdog part k => Sys2Proof.Machine.execIbSpinWatchdog part k s
  | .packetFence part k => Sys2Proof.Machine.execPacketFence part k s
  | .capstart part k => Sys2Proof.Machine.execCapstart part k s
  | .capstop part k => Sys2Proof.Machine.execCapstop part k s
  | .zeroPacket part k => Sys2Proof.Machine.execZeroPacket part k s
  | .pswitch part k => Sys2Proof.Machine.execPswitch part k s
  | .pswitchActivate part pipe => Sys2Proof.Machine.execPswitchActivate part pipe s
  | .ckpt part k => Sys2Proof.Machine.execCkpt part k s
  | .db part k v => Sys2Proof.Machine.execDb part k v s
  | .dbgdb part v => Sys2Proof.Machine.execDbgdb part v s
  | .hreq part n v => Sys2Proof.Machine.execHreq part n v s
  | .cfgreq v => Sys2Proof.Machine.execCfgreq v s
  | .deviceRegisterWrite off v => Sys2Proof.Machine.execDeviceRegisterWrite off v s
  | .partitionConfiguration => Sys2Proof.Machine.execPartitionConfiguration s
  | .pswapScratchpadRestore => Sys2Proof.Machine.execPswapScratchpadRestore s
  | .hostCxlMemRead hpa => Sys2Proof.Machine.execHostCxlMemRead hpa s
  | .hostCxlMemWrite hpa bytes => Sys2Proof.Machine.execHostCxlMemWrite hpa bytes s
  | .hostSnoop hpa bytes => Sys2Proof.Machine.execHostSnoop hpa bytes s
  | .fwEventWake => Sys2Proof.Machine.execFwEventWake s
  | .svcresWrite v => Sys2Proof.Machine.execSvcresWrite v s
  | .hackmWrite k v => Sys2Proof.Machine.execHackmWrite k v s
  | .feliWrite => Sys2Proof.Machine.execFeliWrite s
  | .logRingWrite k v => Sys2Proof.Machine.execLogRingWrite k v s
  | .logtailWrite v => Sys2Proof.Machine.execLogtailWrite v s
  | .trootWrite v => Sys2Proof.Machine.execTrootWrite v s
  | .traceSample => Sys2Proof.Machine.execTraceSample s
  | .txAbort reason => Sys2Proof.Machine.execTxAbort reason s
  | .dbgStop part => Sys2Proof.Machine.execDbgStop part s
  | .dbgRstep part => Sys2Proof.Machine.execDbgRstep part s
  | .dbgRunback part => Sys2Proof.Machine.execDbgRunback part s
  | .dbgReplay part => Sys2Proof.Machine.execDbgReplay part s
  | .dbgRead part => Sys2Proof.Machine.execDbgRead part s
  | .dbgWrite part => Sys2Proof.Machine.execDbgWrite part s
  | .dbgResume part => Sys2Proof.Machine.execDbgResume part s
  | .ceRate die unit => Sys2Proof.Machine.execCeRate die unit s
  | .thermalTrip die => Sys2Proof.Machine.execThermalTrip die s
  | .powerGoodBoot => Sys2Proof.Machine.execPowerGoodBoot s
  | .deviceReady => Sys2Proof.Machine.execDeviceReady s
  | .mctpControlMessage die bytes => Sys2Proof.Machine.execMctpControlMessage die bytes s
  | .pldmMonitoring die bytes => Sys2Proof.Machine.execPldmMonitoring die bytes s
  | .pldmFirmwareUpdate die image => Sys2Proof.Machine.execPldmFirmwareUpdate die image s
  | .attestationRequest nonce => Sys2Proof.Machine.execAttestationRequest nonce s
  | .ueRegister => Sys2Proof.Machine.execUeRegister s
  | .granuleZeroingComplete gran => Sys2Proof.Machine.execGranuleZeroingComplete gran s
  | .drowsyWakeComplete m => Sys2Proof.Machine.execDrowsyWakeComplete m s
  | .flitCrcError port seq => Sys2Proof.Machine.execFlitCrcError port seq s
  | .thermalTripResume die => Sys2Proof.Machine.execThermalTripResume die s
  | .mainPowerRemoved => Sys2Proof.Machine.execMainPowerRemoved s
  | .deviceReset => Sys2Proof.Machine.execDeviceReset s

end Sys2Proof.Machine
end

