-- ==== Sys2Proof/Machine/Issue.lean ====
section
/-! DEFINITION. The issue of one bundle (02 R44 to R48 R73 to R76, 04 R135, 05 R154 to R157): what may come before it, its
checks in order, its slots, and the quiescent points it makes. -/

namespace Sys2Proof.Machine

noncomputable section

/-! One slot. -/

/-- The machine at slot `k` of the bundle. -/
def atSlot (k : Fin 8) (s : State) : State := { s with core := { s.core with iss := { s.core.iss with slot := k } } }

/-- What a slot meets on the state before the bundle. -/
inductive Meets where
  | acts
  | waits (s : State)
  | traps (order : Nat) (s : State)
  | stops (e : Ends)

/-- The place of a trap in 02 R76: by kind, then by slot, L before X for memory faults. -/
def trapOrder (rank : Nat) (k : Fin 8) : Nat :=
  16 * rank + (if rank = 12 then (if k = 3 then 0 else if k = 0 then 1 else 2 + k.val) else k.val)

/-- Tries one slot. -/
def meet (s : State) (x : Fin 8 × Instr) : Meets :=
  match exec x.2 (atSlot x.1 s) with
  | .next t =>
    if t.core.iss.trapped then .traps (trapOrder t.core.iss.rank x.1) t
    else if t.core.iss.stalled then .waits t else .acts
  | e => .stops e

/-! The checks of the whole bundle. -/

/-- The predicates that guards and tests read, and a taken leaf's target (02 R46 R51). -/
def treeReads (s : State) (x : Fin 8 × Instr) : List Reg :=
  match x.2 with
  | .tree sh t1 t2 t3 t4 l1 l2 l3 l4 l5 =>
    let code := [l1, l2, l3, l4, l5].getD (s.core.iss.taken.val - 1) 0
    ((testsUsed sh t1 t2 t3 t4).map fun t => Reg.p (Fin.ofNat 16 t.val)) ++ (if 1 ≤ code.val ∧ code.val ≤ 6 then [.bt code] else [])
  | i => s.guardReads (guardOf i)

/-- The slots that execute. -/
def live (s : State) (b : Sound) : List (Fin 8 × Instr) := b.slots.filter fun x => s.guardTrue (guardOf x.2)

/-- GROUP_DEP: a slot reads what an earlier bundle of the group writes; x0 and p0, which hold no written value, do not count
(02 R46; log 44). -/
def groupDep (s : State) (b : Sound) : Option (Fin 8) :=
  (b.slots.find? fun x =>
    (treeReads s x ++ (if s.guardTrue (guardOf x.2) then s.core.groupReads x.2 else [])).any fun r =>
      r != .x 0 && r != .p 0 && s.core.written.contains r).map Prod.fst

/-- WAW_UNGUARDED: two unguarded slots name one destination; the later slot (02 R47). -/
def wawUnguarded (s : State) (b : Sound) : Option (Fin 8) :=
  let free := b.slots.filter fun x => guardOf x.2 == 0
  (free.find? fun x => free.any fun y => decide (y.1 < x.1) && (s.core.writes y.2).any fun r => (s.core.writes x.2).contains r).map Prod.fst

/-- QUIET_LIVE_BYPASS of a Q-marked bundle (02 R74). -/
def quietLive (s : State) (b : Sound) : Bool :=
  b.header.q && (liveAfter s s.core.beat || (live s b).any fun x => (s.core.writes x.2).any fun r => match r with | .y _ => true | _ => false)

/-- A bundle reached as the end of an active loop has its Q bit set (05 R182). -/
def loopNotQuiet (s : State) (b : Sound) : Bool := !b.header.q && atLoopEnd s s.core.iss.pc

/-- The traps of the bundle's own checks, with their order, slot and cause. -/
def bundleChecks (s : State) (b : Sound) : List (Nat × Fin 8 × BitVec 8) :=
  (match groupDep s b with | some k => [(trapOrder 7 k, k, Cause.groupDep)] | none => []) ++
  (match wawUnguarded s b with | some k => [(trapOrder 8 k, k, Cause.wawUnguarded)] | none => []) ++
  (if quietLive s b then [(trapOrder 9 7, (7 : Fin 8), Cause.quietLiveBypass)] else []) ++
  (if loopNotQuiet s b then [(trapOrder 11 0, (0 : Fin 8), Cause.loopEndNotQuiet)] else [])

/-- Every trap the bundle meets, as its order and the state it leads to. -/
def bundleTraps (s : State) (b : Sound) : List (Nat × State) :=
  (bundleChecks s b).map (fun c => (c.1, takeTrap c.2.2 c.2.1.val 0 0 s)) ++
  b.slots.filterMap fun x => match meet s x with
    | .traps o t => some (o, t)
    | _ => none

/-- The trap that comes first (02 R76). -/
def firstTrap (s : State) (b : Sound) : Option State := (sortOn Prod.fst (bundleTraps s b)).head?.map Prod.snd

/-! Waiting. -/

/-- One clock passes without an issue. -/
def idleClock (s : State) : State := { idleMatrix s with clock := s.clock + 1 }

/-- The bundle stalls in a state: the stall of a wait that may be converted is counted (05 R187). -/
def stall (s t : State) (b : Sound) : State :=
  let waits := (live s b).any fun x => (convertible x.2 s).isSome && (match meet s x with | .waits _ => true | _ => false)
  let blocks := (live s b).any fun x => (tryWait x.2 s).isSome && (match meet s x with | .waits _ => true | _ => false)
  let t := idleClock { t with core := { t.core with iss := { noIssue with stalled := true }, waitClocks := if waits then s.core.waitClocks + 1 else 0 } }
  if blocks && t.core.hack && t.core.mode == .strand then hackStop (rollback t)
  else if waits && decide (256 ≤ t.core.waitClocks) && !t.core.record.isEmpty then
    match (live s b).findSome? fun x => convertible x.2 s with
    | some w => if enginesAtStop t then convertWait w t else requestStops t
    | none => t
  else t

/-! The slots act. -/

/-- A transaction's bracket acts after the bundle's other slots. -/
def isBracket : Instr → Bool
  | .txbegin _ _ _ | .txend _ => true
  | _ => false

/-- The slots act in order on one state; the first fault or refusal ends the step. -/
def actAll : List (Fin 8 × Instr) → State → Ends
  | [], s => .next s
  | x :: r, s =>
    match exec x.2 (atSlot x.1 s) with
    | .next t => actAll r (countEvents t)
    | e => e

/-- The order in which the slots act: brackets of a transaction come last; of the instructions that act after the bundle,
the first in slot order stands alone (log 29). -/
def inOrder (s : State) (b : Sound) : List (Fin 8 × Instr) × Option (Fin 8 × Instr) :=
  let now := b.slots.filter fun x => !isPost x.2
  (now.filter (fun x => !isBracket x.2) ++ now.filter (fun x => isBracket x.2), (live s b).find? fun x => isPost x.2)

/-- The bundle's destinations join those of its group (02 R46). -/
def noteWrites (w : List Reg) (s : State) : State :=
  { s with core := { s.core with written := s.core.written ++ w, waitClocks := 0 } }

/-- The quiescent point that the bundle completed from `base` makes, if any: that of a serialising bundle records no QUIET_DRAIN, Q-marked
or not (02 R74, 04 R135, 05 R156 R157; log 101). -/
def pointAfter (base : State) (b : Sound) (serial back : Bool) (s : State) : State :=
  if s.core.iss.gone then s
  else if serial then (if s.core.win.acted then quiesceActed base s else quiesce s)
  else if b.header.q then
    quiesce (if lateResults s then (drain s).record ⟨Ev.quietDrain, 7, 0, s.core.iss.pc⟩ else s)
  else if (back && s.core.hack && s.core.mode == .strand && !s.core.inDelay) then quiesce s
  else s

/-- The fetch of an issued bundle from a monitored far page counts (04 R125). -/
def countFetch (s : State) : State :=
  if s.core.iss.far then s.countFar (dieOf s.core.id) s.core.partOf s.core.iss.pc 1 else s

/-- The bundle issues and completes. -/
def complete (s : State) (b : Sound) (serial : Bool) : Ends :=
  let writes := (live s b).flatMap fun x => s.core.writes x.2
  let order := inOrder s b
  match actAll order.1 s with
  | .next t =>
    let t := noteWrites writes t
    (match order.2 with
    | some x => exec x.2 (atSlot x.1 t)
    | none =>
      let e := bundleEnd t
      .next (pointAfter s b serial e.2 e.1))
  | e => e

/-- The issue is over. -/
def endIssue (e : Ends) : Ends :=
  match e with
  | .next s => .next { s with core := { s.core with iss := if s.core.closing then { s.core.iss with active := false } else
      { noIssue with pc := s.core.iss.pc, stalled := s.core.iss.stalled } } }
  | e => e

/-- The bundle is one of R156 or R135. -/
def isSerial (s : State) (b : Sound) : Bool :=
  b.header.scope == 5 || b.slots.any fun x => serialising x.2 s.core.tx.isSome

/-- A register that an executing slot names waits for an interlocked result (02 R73). -/
def interlockWait (s : State) (b : Sound) : Bool :=
  (live s b).any fun x => s.core.pendingOn (s.core.reads x.2 ++ s.core.writes x.2)

/-- The first slot that waits, as its state, or that ends the step. -/
def firstStop (s : State) (b : Sound) : Option (State ⊕ Ends) :=
  b.slots.findSome? fun x => match meet s x with
    | .waits t => some (Sum.inl t)
    | .stops e => some (Sum.inr e)
    | _ => none

/-- An engine's commit waits for room in the log, and the bundle holds a store: it waits too (12 R365). -/
def logStalls (s : State) (b : Sound) : Bool :=
  s.logOn 1 && (s.core.eng.work.toList.any fun w => w.logWait) && (live s b).any fun x => decide (0 < storeBytes s x.2)

/-- Issues a sound bundle whose header has taken effect and at whose beat the results have landed: it stalls until the
registers it names have arrived, and then meets its traps (02 R73 R76). -/
def issueSound (s : State) (b : Sound) : Ends :=
  if interlockWait s b || logStalls s b then .next (stall s s b) else
  match firstTrap s b with
  | some t => .next (idleClock t)
  | none =>
    match firstStop s b with
    | some (.inl t) => .next (stall s t b)
    | some (.inr e) => e
    | none => complete (countFetch s) b (isSerial s b)

/-- Issues the bundle at the pc: a quiescent point that has to come before it is a step of its own. -/
def issueBundle (s : State) : Ends :=
  let prev := s.core.iss.pc
  let s := s.core.wake.foldl (fun s w => wakeUp w.1 s) s
  match fetch (beginIssue s) with
  | .ended t => .next (idleClock t)
  | .bytes bs t =>
    match checkBundle t bs with
    | .error f => .next (idleClock (if t.core.tx.isSome && f.2 == Cause.priv then txAbortNow 4 0 0 t else takeTrap f.2 f.1.val 0 0 t))
    | .ok b =>
      let t := openBundle b bs (landUpTo t.core.beat t)
      let was : State := { s with core := { s.core with iss := { s.core.iss with pc := prev } } }
      if forcedDue t b then .next (pointBefore true was)
      else if isSerial t b && !atBoundary t then .next (pointBefore false was)
      else endIssue (issueSound t b)

/-! The end of a replay (12 R374). -/

/-- The replay is over: it diverged, the boundary of its window is reached, or the strand's entries are used up. -/
def replayOver (s : State) : Bool :=
  match s.core.replay with
  | none => false
  | some rp => rp.diverged.isSome || (atBoundary s && s.core.mode == .strand &&
      ((rp.until_ != 0 && decide (rp.until_ ≤ s.core.r.sr.win)) || (windowEntries s).all fun x => x.2.1.src % 8 == 6))

/-- A replay that diverges, or has met all that is asked of it: the engines' commits that the log still holds after the strand's last entry
have been matched, or no command is left. -/
def replaySettled (s : State) (rp : Replay) : Bool :=
  rp.diverged.isSome || enginesQuiet s || (windowEntries s).all fun x => rp.used.contains x.1

/-- The response of a REPLAY (12 R371). -/
def replayAnswer (p : Fin 8) (rp : Replay) (win pc : Word) (s : State) : State :=
  let d := rp.diverged.getD (pc, 0, 0, 0)
  let head := if rp.diverged.isSome then [Cause.replayDiverge, 1, 0, 0] else [0, 0, 0, 0]
  let b := toBytes 4 rp.id ++ head ++ b8 win ++ b8 d.1 ++ b8 d.2.1 ++ b8 d.2.2.1 ++ b8 d.2.2.2 ++ List.replicate 16 0
  let s := if rp.resp.toNat % 64 = 0 then devWrite (partAgent s p s.core.id 3) rp.resp b s else s
  s.modPart p.val fun v => { v with dbgR := (v.dbgR + 1) % 2 ^ 32 }

/-- The strand is stopped for the debugger again: a diverged window is rolled back, the engines stop at their stop points, the
frame is marked HELD. -/
def stopReplay (s : State) : State :=
  match s.core.replay with
  | none => s
  | some rp =>
    if !replaySettled s rp then idleClock s else
    let rp := if rp.diverged.isNone && enginesQuiet s then { rp with diverged := tileLeft rp s } else rp
    let s := match s.core.openTx with
      | some t => txRestore t 6 0 0 s
      | none => if rp.diverged.isSome then rollback s else s
    if !enginesAtStop s then idleClock (requestStops s) else
    let cur := match (windowEntries s).getLast? with
      | some x => if rp.diverged.isNone && (windowEntries s).all (fun y => rp.used.contains y.1) then BitVec.ofNat 64 (x.1 + x.2.2) else s.core.log.cur
      | none => s.core.log.cur
    let s := { s.modLog (fun l => { l with cur := cur }) with core := { (s.modLog (fun l => { l with cur := cur })).core with replay := none } }
    let p := s.core.partOf
    let pc := s.core.r.pc
    let win := s.core.r.sr.win
    replayAnswer p rp win pc (leaveCore Status.suspended 0 none false true pc none false s)

/-! What comes before an issue. -/

/-- An event may be delivered; DEBUG_HALT not between a CALL and its target, where no quiescent point may stand. -/
def deliverable (s : State) : Bool :=
  match s.core.nextAsync with
  | some e => !(e.1 == Cause.debugHalt && s.core.inDelay)
  | none => false

/-- Delivers an event; DEBUG_HALT is preceded by a quiescent point of its own (12 R370), but a close that waits is abandoned for it as for any
event (12 R365). -/
def deliver (s : State) : State :=
  match s.core.nextAsync with
  | some e => if e.1 == Cause.debugHalt && !atBoundary s && !s.core.closing && s.core.tx.isNone then quiesce s else deliverAsync s
  | none => s

/-- A stop of the strand that waits for its engines (05 R157). -/
def stopWaits (s : State) : Bool :=
  atBoundary s && (s.core.stopDue.isSome || ((s.die (dieOf s.core.id)).hot && !isFirmware s.core.id) ||
    (s.core.hack && s.core.mode == .strand && (List.range 5).any fun q => (s.runningCmd q).isSome && (s.work q).stopReq != 0))

/-- The core waits for another unit and issues nothing: a service call, a shoot-down, a swap. -/
def heldUp (s : State) : Bool :=
  s.core.svc.isSome || !s.core.shoot.isEmpty || s.restoring s.core.id

/-- A stop is asked for that abandons a wait: the strand takes its last boundary (04 R119, 12 R365). -/
def stopAsked (s : State) : Bool := s.core.stopDue.isSome || (s.core.hack && s.core.mode == .strand)

/-- One step of the core whose turn it is. -/
def issueCore (s : State) : Ends :=
  let c := s.core
  if c.run ≠ .strand then .next (idleClock s)
  else if heldUp s then .next (idleClock s)
  else if c.fault.isSome then
    (if c.nextAsync.isSome then .next (deliver s)
     else if stopAsked s then .next (stopHere (rollback s))
     else .next (idleClock s))
  else if replayOver s then .next (stopReplay s)
  else if c.closing then
    (if c.nextAsync.isSome then .next (deliver s)
     else if stopAsked s then .next (stopHere (rollback s))
     else match c.post with
      | some i => exec i s
      | none => .next (idleClock (quiesce s)))
  else if stopWaits s then .next (stopHere s)
  else if deliverable s then .next (deliver s)
  else match s.txDueNow with
    | some (r, code, cause) => .next (txAbortNow r code cause s)
    | none => issueBundle s

end

end Sys2Proof.Machine
end

