-- ==== Sys2Proof/Machine/Turns.lean ====
section
/-! DEFINITION. Whose turn comes (log 5): the agenda of State, and without one the focused core, with the device's own
events while it waits; the time base (14 R423); and how a word is placed for the next step. -/

namespace Sys2Proof.Machine

noncomputable section

/-- TIMER becomes pending at every core whose TCMP the time base reaches in this step (14 R423). -/
def timers (old : Nat) (s : State) : State :=
  s.liveCores.foldl (fun s k =>
    let c := s.coreAt k
    if decide (old < c.sup.tcmp.toNat) && timerDue c s.clock then timerAt k s else s) s

/-- The outcome of a turn of the machine `s`, with the timers it makes due and the turns that are still to come. A turn in which the
device meets a write that has to wait for the dirty ring is undone: it comes again after the others (04 R128; log 49). Memory is left in its
canonical form, which no operation of the model gives up. -/
def endTurn (s : State) (rest : List Turn) (e : Ends) : Ends :=
  match e with
  | .next t => match t.dev.stalled with
    | none => .next ({ timers s.clock t with agenda := rest } : State).tidy
    | some w => .next ({ idleClock (markDirtyKey s w.1 w.2).2 with agenda := rest ++ s.agenda.take 1 } : State).tidy
  | e => e

/-- The events of the focused core's own units. -/
def coreEvents (s : State) : List Instr :=
  let c := s.core
  let qs : List (Fin 6) := List.finRange 6
  let u := fun (b : Bool) (l : List Instr) => if b then l else []
  u (!c.land.isEmpty) [.resultLanding] ++
  ((List.range c.land.length).map fun k => Instr.interlockedResultArrival k) ++
  qs.flatMap (fun q => u (!(c.eng.queue q.val).isEmpty) [.commandStart q, .commandComplete q, .engineStop q, .etrelAtHead q, .phaseFetch q, .phaseFetchDone q none]) ++
  ((List.range c.eng.signals.length).flatMap fun k => [.qfenceRelease k, .esignalPerform k]) ++
  u ((List.range 5).any fun q => !(c.eng.queue q).isEmpty)
    [.copyChunk none, .cmigratePage, .matrixTileStep none, .matrixRetirement, .mattnKeyTileVisit, .scoutSweep1Tile none,
     .scoutSweep2 false, .sscoreTile none, .maskRow, .vsortRunSegment none, .rowOperation none, .exchangeStep none] ++
  u c.fault.isSome [.faultReplyPoll .strand, .tfringPostRetry .strand] ++
  qs.flatMap (fun q => u (c.eng.faults.get q).isSome [.faultReplyPoll (.engine q), .tfringPostRetry (.engine q)]) ++
  u (!c.shoot.isEmpty) [.tlbShootdownComplete] ++ u (c.closing || c.iss.stalled) [.writeBlockRetry, .dirtyRingResume, .waitSatisfied, .waitConversion] ++
  u (c.run == .fwWait) [.fwEventWake] ++ ((List.finRange 16).map fun m => Instr.drowsyWakeComplete m)

/-- The event that takes a message off the fabric. -/
def messageEvent (m : Message) : Instr :=
  match m.kind with
  | .start => .startMsg m
  | .data => .dataMsg m
  | .ack => .ackMsg m
  | .paused => .pausedMsg m

/-- The events of one partition: its queues, pipelines, waiting areas and debug queue. -/
def partEvents (s : State) (p : Fin 8) : List Instr :=
  let v := s.part p.val
  if v.cfg.isNone then [] else
  v.queues.flatMap (fun (e : Nat × CmdQueue) =>
    let k : Fin 64 := Fin.ofNat 64 e.1
    [Instr.packetLine0Poll p k, .packetNop p k, .launch p k, .waitv p k, .waitvSatisfied p k, .signalPacket p k, .ibcall p k,
     .ibjump p k, .ibSpinWatchdog p k, .packetFence p k, .capstart p k, .capstop p k, .zeroPacket p k, .pswitch p k, .ckpt p k,
     .faultReplyPoll (.fetcher p k), .tfringPostRetry (.fetcher p k)]) ++
  v.pipes.flatMap (fun (e : Nat × Pipeline) =>
    [Instr.launchComplete p e.1, .blockedReevaluation p e.1, .suspendedPoll p e.1, .pswitchActivate p e.1] ++
    e.2.misses.flatMap (fun m => [Instr.faultReplyPoll (.pickup p e.1 m.1), .tfringPostRetry (.pickup p e.1 m.1)]) ++
    (List.range e.2.queues.length).map fun q => Instr.remontoireRefill p e.1 q) ++
  ((List.finRange 6).filter fun a => v.areaDown.getLsbD a.val).map (fun a => Instr.configAreaWalkRetry p a) ++
  (if v.dbgW.toNat % 2 ^ 32 = v.dbgR % 2 ^ 32 then [] else
    [.dbgStop p, .dbgRstep p, .dbgRunback p, .dbgReplay p, .dbgRead p, .dbgWrite p, .dbgResume p])

/-- The events of the device outside the cores. -/
def deviceEvents (s : State) : List Instr :=
  (if s.dev.power then [.powerGoodBoot] else []) ++ [.deviceReady, .dispatchDecision, .partitionConfiguration, .pswapScratchpadRestore] ++
  s.dev.zeroing.map (fun z => Instr.granuleZeroingComplete z.1) ++ s.dev.fabric.map messageEvent ++
  (List.finRange 4).flatMap (fun d => ((s.die d.val).monitor.filter fun e => e.2.crossed).map fun e => Instr.tierNotify d (Fin.ofNat 4096 e.1)) ++
  (List.finRange 8).flatMap (partEvents s)

/-- The first of some events that changes the machine. -/
def firstEvent (s : State) : List Instr → Option State
  | [] => none
  | i :: r => match exec i s with
    | .next t => if t = s then firstEvent s r else some t
    | _ => firstEvent s r

/-- The device's own event of this turn: the events are tried from a place that moves on with the clock. -/
def internalEvent (s : State) : Option State :=
  let l := coreEvents s ++ deviceEvents s
  let n := s.clock / 3 % max 1 l.length
  firstEvent s (l.drop n ++ l.take n)

/-- The core waits: for an operand or access, a close, another unit, or a strand. -/
def waiting (s : State) : Bool :=
  s.core.iss.stalled || s.core.closing || s.core.fault.isSome || heldUp s || s.core.run != .strand

/-- The core after the focused one that runs a strand or waits for firmware's events. -/
def nextCore (s : State) : Nat :=
  let ids := (s.others.filter fun c => c.2.run == .strand || c.2.run == .fwWait).map Prod.fst
  match ids.find? fun k => decide (s.core.id < k) with
  | some k => k
  | none => ids.headD s.core.id

/-- A turn with no agenda: the focused core issues; while it waits, every third turn goes to the next core that runs and every
third to an event of the device. -/
def ownTurn (s : State) : Ends :=
  if !waiting s || s.clock % 3 == 0 then issueCore s
  else if s.clock % 3 == 1 then issueCore (s.focus (nextCore s))
  else match internalEvent s with
    | some t => .next (idleClock t)
    | none => .next (idleClock s)

/-- The instruction is an event: it happens beside the bundles (opcode table). -/
def isEvent (i : Instr) : Bool := (encode i).isNone && i != .nop

/-- One turn. -/
def takeTurn (s : State) : Ends :=
  match s.agenda with
  | [] => endTurn s [] (ownTurn s)
  | .issue c :: r =>
    if isSite c then endTurn s r (issueCore ({ s with agenda := r }.focus c)) else .fault (.noSuchCore c)
  | .event c i :: r =>
    if !isSite c then .fault (.noSuchCore c)
    else if isEvent i then endTurn s r (exec i ({ s with agenda := r }.focus c))
    else .next { s with agenda := r }

/-- The bytes of a bundle that holds one A syllable. -/
def wordBundle (w : Nat) : List Byte := List.replicate 8 0 ++ toBytes 4 w ++ List.replicate 20 0

/-- A partition that owns a granule and nothing else. -/
def ownerCfg (gran : Nat) : PartCfg :=
  { at_ := 0, flags := 0, shpart := 0, clusters := [], granules := [gran], linkmask := 0, troot := 0, wdlimit := 0, qmax := 0, maxred := 0,
    tvec := 0, tcmp := 0, areas := [], swap := 0, pstate := 0, log2s := [], descs := [] }

/-- The partition owns a granule. -/
def giveGranule (p : Fin 8) (gran : Nat) (s : State) : State :=
  s.modPart p.val fun v => { v with cfg := some (match v.cfg with
    | none => ownerCfg gran
    | some c => if c.granules.contains gran then c else { c with granules := c.granules ++ [gran] }) }

/-- The machine with a bundle of one A syllable where the focused core fetches next: a strand runs there, its TLB maps the
page of the pc to the memory of its own number, its partition owns that memory (04 R118), and the bundle's bytes stand there. -/
def placeWord (w : Nat) (s : State) : State :=
  let page := s.core.r.pc.toNat / 65536
  let leaf : Word := BitVec.ofNat 64 (page % 2 ^ 24 * 65536 + 0x18F)
  let e : TlbEntry := ⟨s.core.partOf, page, 0, leaf, 0⟩
  let key := page % 2 ^ 24 * 65536 + s.core.r.pc.toNat % 65536
  let s : State := { s with core := { s.core with run := .strand, tlb := [e] } }
  (giveGranule s.core.partOf (key / 2 ^ 30) s).poke key (wordBundle w)

end

end Sys2Proof.Machine
end

