-- ==== Sys2Proof/Machine/Step.lean ====
section
/-! DEFINITION. One step of the machine, and the placing of a word where the next step fetches. -/

namespace Sys2Proof.Machine

/-- One step: one turn. -/
noncomputable def step (s : State) : Host.Outcome State Fault Refusal := takeTurn s

/-- The machine with the 32-bit A syllable `w` in an otherwise empty bundle where the next step fetches. Only A syllables
have bits in the opcode table; a word of another width is not placed (log 30). -/
noncomputable def State.withFetchWord (s : State) (nbits w : Nat) : State := if nbits = 32 then placeWord w s else s

end Sys2Proof.Machine
end

