-- ==== Sys2Proof/Safety.lean ====
section
/-! DEFINITION. What claims are stated in: turns that name sites of the package, runs, the checks that let a slot act, and
what the families of instructions deliver, as tables of their entries in the specification. -/

namespace Sys2Proof.Safety

open Sys2Proof.Machine

noncomputable section

/-! Runs. -/

/-- `k` steps from `s` lead to `t`. -/
def runs : Nat → State → State → Prop
  | 0, s, t => s = t
  | k + 1, s, t => ∃ u, step s = .next u ∧ runs k u t

/-- The agenda names sites of the package only. -/
def agendaOk (s : State) : Prop := ∀ t ∈ s.agenda, match t with
  | .issue c | .event c _ => isSite c = true

/-! Words. -/

/-- What the decoder gives for the instruction's own syllable: the five RFT rows of the opcode table share one word, and TDISP
chooses among them (14 R425; log 40). -/
def asDecoded : Instr → Instr
  | .rftYield g | .rftSuspend g | .rftFault g | .rftHold g => .rftResume g
  | i => i

/-- The syllable's bits lie within its slot's width (02 R39). -/
def fits : Syllable → Bool
  | .a w => decide (w < 2 ^ 32)
  | .pair v w => decide (v < 2 ^ 32) && decide (w < 2 ^ 32)
  | .x w | .v w => decide (w < 2 ^ 48)
  | .l w | .e w => decide (w < 2 ^ 40)

/-- A vector instruction with a destination and sources none of which is a port. -/
def portless (i : Instr) : Bool :=
  match vslot i with
  | some (d, src, _) => (d :: src).all fun o => !o.within [.P]
  | none => false

/-! Slots. -/

/-- An encoding, operand form and guard that let instruction `i` execute (02 R42 R52 R63). -/
def guarded (i : Instr) (s : State) : Bool :=
  !(s.core.closing && s.core.post == some i) && i.reservedOk && (i.formOk && modeFormOk i s) &&
  !((s.guardReads (guardOf i)).any fun r => !s.core.valid r) && s.guardTrue (guardOf i)

/-- Instruction `i` passes every check of its slot: it is well formed, its guard is true, its mode may execute it, no
register that it names is invalid, drowsy or awaits an interlocked result, and its ports are usable (02 R42 R52 R63 R67 R73
R76, 07 R222 R225, 12 R384). -/
def slotPasses (i : Instr) (s : State) : Bool :=
  guarded i s && decide (minMode i ≤ s.core.mode.code) && !(s.core.tx.isSome && txUnsupported i) &&
  !s.core.pendingOn (s.core.reads i ++ s.core.writes i) && (badRead s i).isNone && !badPort s i && (wakes s.core i).isEmpty

/-- What a write to x[d] is: of the y name that stands for it in bypass mode, else of the register (02 R62). -/
def xWrite (s : State) (d : Fin 64) (v : Word) : Write :=
  match s.core.xname d with
  | .y k => .y k v
  | _ => .x d v

/-! A-slot results (05 R164 to R169). -/

/-- What an instruction that computes one 64-bit word delivers: its latency, or none where the result is interlocked, its
write, and DIVZERO for a divisor of 0. -/
def scalarResult (i : Instr) (s : State) : Option (Option Nat × Write × List LogEvent) :=
  let r := fun (l : Nat) (d : Fin 64) (v : Word) => some (some l, xWrite s d v, [])
  let q := fun (d b : Fin 64) (v : Word) =>
    some (none, Write.x d v, if s.x b = 0 then [⟨Ev.divzero, s.core.iss.slot, 0, s.core.iss.pc⟩] else [])
  match i with
  | .add _ d a b => r 1 d (s.x a + s.x b)
  | .sub _ d a b => r 1 d (s.x a - s.x b)
  | .mul _ d a b => r 3 d (s.x a * s.x b)
  | .mulh _ d a b => r 3 d (BitVec.ofInt 64 ((s.x a).toInt * (s.x b).toInt / 2 ^ 64))
  | .mulhn _ d a b => r 3 d (BitVec.ofNat 64 ((s.x a).toNat * (s.x b).toNat / 2 ^ 64))
  | .div _ d a b => q d b (if s.x b = 0 then BitVec.allOnes 64 else BitVec.ofInt 64 ((s.x a).toInt.tdiv (s.x b).toInt))
  | .divn _ d a b => q d b (if s.x b = 0 then BitVec.allOnes 64 else BitVec.ofNat 64 ((s.x a).toNat / (s.x b).toNat))
  | .rem _ d a b => q d b (if s.x b = 0 then s.x a else BitVec.ofInt 64 ((s.x a).toInt.tmod (s.x b).toInt))
  | .remn _ d a b => q d b (if s.x b = 0 then s.x a else BitVec.ofNat 64 ((s.x a).toNat % (s.x b).toNat))
  | .andOp _ d a b => r 1 d (s.x a &&& s.x b)
  | .orOp _ d a b => r 1 d (s.x a ||| s.x b)
  | .xorOp _ d a b => r 1 d (s.x a ^^^ s.x b)
  | .andn _ d a b => r 1 d (s.x a &&& ~~~s.x b)
  | .sll _ d a b => r 1 d (BitVec.ofNat 64 ((s.x a).toNat * 2 ^ ((s.x b).toNat % 64)))
  | .srl _ d a b => r 1 d (BitVec.ofNat 64 ((s.x a).toNat / 2 ^ ((s.x b).toNat % 64)))
  | .sra _ d a b => r 1 d (BitVec.ofInt 64 ((s.x a).toInt / 2 ^ ((s.x b).toNat % 64)))
  | .rol _ d a b => r 1 d ((s.x a).rotateLeft ((s.x b).toNat % 64))
  | .minOp _ d a b => r 1 d (if (s.x a).toInt ≤ (s.x b).toInt then s.x a else s.x b)
  | .maxOp _ d a b => r 1 d (if (s.x a).toInt ≤ (s.x b).toInt then s.x b else s.x a)
  | .minn _ d a b => r 1 d (if (s.x a).toNat ≤ (s.x b).toNat then s.x a else s.x b)
  | .maxn _ d a b => r 1 d (if (s.x a).toNat ≤ (s.x b).toNat then s.x b else s.x a)
  | .absOp _ d a => r 1 d (if (s.x a).toInt < 0 then -s.x a else s.x a)
  | .clz _ d a => r 1 d (clzV (s.x a))
  | .ctz _ d a => r 1 d (ctzV (s.x a))
  | .popc _ d a => r 1 d (popcV (s.x a))
  | .sext _ d a w => r 1 d (sext64 (8 * 2 ^ w.val) (s.x a).toNat)
  | .zext _ d a w => r 1 d (BitVec.ofNat 64 ((s.x a).toNat % 2 ^ (8 * 2 ^ w.val)))
  | .bfx _ d a b sg => r 1 d (bfxV (sg == 1) (s.x a) (s.x b))
  | .bfi _ d a b => r 1 d (bfiV (s.x d) (s.x a) (s.x b))
  | .sel _ d a b n => r 1 d (if s.p n then s.x a else s.x b)
  | .addi _ d a i => r 1 d (s.x a + imm10 i)
  | .andi _ d a i => r 1 d (s.x a &&& imm10 i)
  | .ori _ d a i => r 1 d (s.x a ||| imm10 i)
  | .xori _ d a i => r 1 d (s.x a ^^^ imm10 i)
  | .slli _ d a i => r 1 d (BitVec.ofNat 64 ((s.x a).toNat * 2 ^ i.val))
  | .srli _ d a i => r 1 d (BitVec.ofNat 64 ((s.x a).toNat / 2 ^ i.val))
  | .srai _ d a i => r 1 d (BitVec.ofInt 64 ((s.x a).toInt / 2 ^ i.val))
  | .muli _ d a i => r 3 d (s.x a * imm10 i)
  | .limm _ d i => r 1 d (imm10 i)
  | .limmPair _ d i => r 1 d (sext64 42 i.val)
  | .lihi _ d a i => r 1 d (lihiV (imm10 i) (s.x a))
  | .lihiPair _ d a i => r 1 d (lihiV (sext64 42 i.val) (s.x a))
  | .pcadd _ d i => r 1 d (s.core.iss.pc + imm10 i * 32)
  | .mfs _ d n => r 2 d ((s.readState n.val).getD 0)
  | .btmovFromBt _ d k => r 1 d (s.core.r.bt.get k)
  | .cvtaOff _ d a => r 1 d (cvtaOffV (s.x a))
  | .cvtaOwn _ d a => r 1 d (0xF000000000000000 + BitVec.ofNat 64 (bits (s.x a) 0 21))
  | .cvtaCl _ d a b => r 1 d (0xF100000000000000 + BitVec.ofNat 64 (bits (s.x b) 0 4 * 2 ^ 21 + bits (s.x a) 0 21))
  | .ecnt _ d e => r 2 d (s.core.eqcnt.get e)
  | .rdwin _ d => r 1 d s.core.r.sr.win
  | .txstat _ d => some (none, xWrite s d s.core.r.sr.txstate, [])
  | _ => none

/-- What a predicate instruction delivers (05 R169 R175). -/
def predResult (i : Instr) (s : State) : Option (Fin 16 × Bool) :=
  match i with
  | .cmpeq _ d a b => some (d, decide (s.x a = s.x b))
  | .cmpne _ d a b => some (d, decide (s.x a ≠ s.x b))
  | .cmplt _ d a b => some (d, decide ((s.x a).toInt < (s.x b).toInt))
  | .cmple _ d a b => some (d, decide ((s.x a).toInt ≤ (s.x b).toInt))
  | .cmpltn _ d a b => some (d, decide ((s.x a).toNat < (s.x b).toNat))
  | .cmplen _ d a b => some (d, decide ((s.x a).toNat ≤ (s.x b).toNat))
  | .cmpeqi _ d a i => some (d, decide (s.x a = imm10 i))
  | .cmplti _ d a i => some (d, decide ((s.x a).toInt < (imm10 i).toInt))
  | .cmpltni _ d a i => some (d, decide ((s.x a).toNat < i.val))
  | .pand _ d a b => some (d, s.p a && s.p b)
  | .por _ d a b => some (d, s.p a || s.p b)
  | .pxor _ d a b => some (d, xor (s.p a) (s.p b))
  | .pandn _ d a b => some (d, s.p a && !s.p b)
  | .tstbit _ d a n => some (d, (s.x a).getLsbD n.val)
  | .isap _ d a k => some (d, decide (regionKind (s.x a) = k.val))
  | _ => none

/-- What the other A- and V-slot instructions that write one register deliver at latency 1 (05 R160 R171 to R173, 07 R238). -/
def writeResult (i : Instr) (s : State) : Option Write :=
  match i with
  | .mts _ a n => some (.state n.val (s.x a))
  | .shw _ k a n => some (.shadow k n (s.x a))
  | .agw _ k a n => some (.state (0x40 + 16 * k.val + n.val) (s.x a))
  | .xpw _ k a n => some (.state (0xC0 + 16 * k.val + n.val) (s.x a))
  | .btmovToBt _ k a => some (.bt k (s.x a))
  | .btset _ k i => some (.bt k (s.core.iss.pc + imm10 i * 32))
  | .segset _ i => some (.seg (BitVec.ofNat 64 (i.val % 1024 + 2 ^ 31 + i.val / 1024 * 2 ^ 32)))
  | .mzero _ m => some (.mreg m ⟨[], true, .on⟩)
  | .mgate _ m => some (.mreg m ⟨[], false, .gated⟩)
  | .mdrowsy _ m => some (.power m (if (s.core.r.m.get m).power = .gated then .gated else .drowsy))
  | .minval _ m => some (.mreg m ⟨[], false, (s.core.r.m.get m).power⟩)
  | _ => none

/-! Accesses of the L slot (06 R188 to R199). -/

/-- The bytes a load of pieces at `va` delivers, with the state after it: in a transaction it is recorded, at `system` scope
it is an input of FULL logging, and a replay supplies either (12 R362 R374 R388). None: the access ends otherwise. -/
def loadMeets (va : Word) (a : State → Act (List Byte)) (s : State) : Option (List Byte × State) :=
  let plain := match a s with
    | .ok bs u => some (bs, u)
    | _ => none
  if s.core.tx.isSome then
    match txGiven s with
    | some bs => plain.map fun r => (bs, r.2.noteLoad va bs)
    | none => plain.map fun r => (r.1, r.2.noteLoad va r.1)
  else if s.loadScope va = 4 then
    match s.input 3 with
    | .live => plain.map fun r => (r.1, r.2.recordInput 3 (b8 va ++ n8 r.1.length ++ pad16 r.1))
    | .given d => some (slice d 16 (field d 8 8), s.recordInput 3 d)
    | .diverged _ _ => none
  else plain

/-- A scalar load: its bytes, how they are widened, its destination, base and displacement. -/
def loadForm : Instr → Option (Nat × (Nat → Word) × Fin 64 × Fin 64 × Fin 4096)
  | .ldB _ d b disp => some (1, sext64 8, d, b, disp)
  | .ldH _ d b disp => some (2, sext64 16, d, b, disp)
  | .ldW _ d b disp => some (4, sext64 32, d, b, disp)
  | .ldD _ d b disp => some (8, BitVec.ofNat 64, d, b, disp)
  | .ldnB _ d b disp => some (1, BitVec.ofNat 64, d, b, disp)
  | .ldnH _ d b disp => some (2, BitVec.ofNat 64, d, b, disp)
  | .ldnW _ d b disp => some (4, BitVec.ofNat 64, d, b, disp)
  | _ => none

/-- A scalar store: its bytes, its source, base and displacement. -/
def storeForm : Instr → Option (Nat × Fin 64 × Fin 64 × Fin 4096)
  | .stB _ d b disp => some (1, d, b, disp)
  | .stH _ d b disp => some (2, d, b, disp)
  | .stW _ d b disp => some (4, d, b, disp)
  | .stD _ d b disp => some (8, d, b, disp)
  | _ => none

/-- A line access of 32 elements: its line, its base, what is checked against the base's region, and its pieces. -/
def lineForm (i : Instr) (s : State) : Option (Line × Word × Word × List (Word × Nat)) :=
  match i with
  | .ldv _ m b disp => some (m, s.ea b disp 128, s.x b, linePieces (s.ea b disp 128) 4)
  | .stv _ m b disp => some (m, s.ea b disp 128, s.x b, linePieces (s.ea b disp 128) 4)
  | .ldvs _ m b st | .stvs _ m b st => some (m, s.x b, s.x b, linePieces (s.x b) (s.x st))
  | .ldg _ m b ix | .stg _ m b ix => some (m, s.x b, s.x b, indexPieces (s.x b) (s.lineElems ix))
  | _ => none

/-- The instruction loads a line. -/
def isLineLoad : Instr → Bool
  | .ldv .. | .ldvs .. | .ldg .. => true
  | _ => false

/-- What an atomic on `old` writes, if anything, and the events it records (06 R197 R198). -/
def atomicValue (i : Instr) (s : State) (old : Nat) : Option (Option Nat × List LogEvent) :=
  let o : Word := BitVec.ofNat 64 old
  match i with
  | .aadd _ d _ _ => some (some (o + s.x d).toNat, [])
  | .aand _ d _ _ => some (some (o &&& s.x d).toNat, [])
  | .aor _ d _ _ => some (some (o ||| s.x d).toNat, [])
  | .axor _ d _ _ => some (some (o ^^^ s.x d).toNat, [])
  | .amin _ d _ _ => some (some (if o.toInt ≤ (s.x d).toInt then o else s.x d).toNat, [])
  | .amax _ d _ _ => some (some (if o.toInt ≤ (s.x d).toInt then s.x d else o).toNat, [])
  | .aminn _ d _ _ => some (some (if o.toNat ≤ (s.x d).toNat then o else s.x d).toNat, [])
  | .amaxn _ d _ _ => some (some (if o.toNat ≤ (s.x d).toNat then s.x d else o).toNat, [])
  | .axchg _ d _ _ => some (some (s.x d).toNat, [])
  | .acas _ d _ _ => some (if o = s.x d then some (s.x (d + 1)).toNat else none, [])
  | .afadd _ d _ _ =>
    let r := f32.add 0 false old (bits (s.x d) 0 32)
    some (some r.1, laneEvent s 0 r.2)
  | _ => none

/-- An atomic: its bytes, destination, base and displacement. -/
def atomicForm : Instr → Option (Nat × Fin 64 × Fin 64 × Fin 4096)
  | .aadd _ d b disp | .aand _ d b disp | .aor _ d b disp | .axor _ d b disp | .amin _ d b disp | .amax _ d b disp
  | .aminn _ d b disp | .amaxn _ d b disp | .axchg _ d b disp | .acas _ d b disp => some (8, d, b, disp)
  | .afadd _ d b disp => some (4, d, b, disp)
  | _ => none

/-! Instructions that act after their bundle (05 R156 R183 to R185, 13 R421, 14 R425 R431). -/

/-- The operand that such an instruction keeps: x[a] as it stands at its issue (02 R44). -/
def kept (i : Instr) (t : State) : State :=
  match i with
  | .fork _ a _ | .ctxsave _ a | .ctxload _ a => { t with core := { t.core with postArg := t.x a } }
  | _ => t

/-- When such an instruction may act at all, what it then waits for once its bundle is complete, and what it does there. -/
def afterBundle (i : Instr) (t : State) : Option ((State → Bool) × (State → State)) :=
  let now := fun (f : State → State) => some ((fun (_ : State) => true), f)
  let stopped := fun (f : State → State) => if enginesAtStop (kept i t) then now f else none
  let ret := fun (_ : Unit) =>
    let d := bits t.core.sup.tstatus 4 3
    if d = 0 then (if t.core.sup.tpc.toNat % 32 = 0 then now resumeStrand else none)
    else stopped fun s => if s.core.record.isEmpty then s else leaveFromTrap d s
  match i with
  | .yield _ => stopped (suspendAs Status.ready)
  | .suspend _ => stopped (suspendAs Status.suspended)
  | .fork _ a disp =>
    if (forkSlot t).isSome then now fun s => stopHere (match forkSlot s with
      | some w => addRecord s.core.partOf s.core.pipeOf w (forkRecord t (t.x a) (t.relTarget disp.val)) s
      | none => s)
    else none
  | .exitOp _ => if committedDone t then some (allDone, finishStrand) else none
  | .trapOp _ disp => now fun s => deliverTrap Cause.trapSw s.core.iss.pc 0 (s.core.r.sr.win - 1) 0 (BitVec.ofNat 64 disp.val) s
  | .svc _ n => now (serviceCall n.val)
  | .rftResume _ | .rftYield _ | .rftSuspend _ | .rftFault _ | .rftHold _ => ret ()
  | .idle _ => now fun s => if fwAwake s || s.core.nextAsync.isSome then s else { s with core := { s.core with run := .fwWait } }
  | .ctxsave _ a => if (t.x a).toNat % 4096 = 0 then stopped (saveTo (t.x a)) else none
  | .ctxload _ a =>
    let f := (readFrame (kept i t) (t.x a)).1
    if (t.x a).toNat % 4096 = 0 ∧ allDone (kept i t) = true ∧ frameOk f = true then now (loadFrom f) else none
  | _ => none

/-! Vector operands (07 R219 R224 R226). -/

/-- The lanes of some sources, in order: their values, their events and the state after their ports' moves. -/
def laneSources (ty : VType) : List VOp → State → Option (List (List W32) × List LogEvent × State)
  | [], s => some ([], [], s)
  | o :: r, s => match vsource ty o s with
    | .ok v u => (laneSources ty r u).map fun x => (v.1 :: x.1, v.2 ++ x.2.1, x.2.2)
    | _ => none

/-- A destination port gives 32 places; any other destination can be written. -/
def destOk (d : VOp) (s : State) : Bool :=
  match d with
  | .port k => match portTake k.val s with
    | .ok _ _ => true
    | _ => false
  | .line _ | .mask _ => true
  | _ => false

/-- A lane-wise instruction: latency, how it reads broadcasts, destination, sources, and the result lanes from the state after
the sources are read and their lanes (07 R227 to R234). -/
def laneOp (i : Instr) (s : State) :
    Option (Nat × VType × VOp × List VOp × (State → List (List W32) → List (W32 × Flags))) :=
  let one := fun (l : Nat) (ty : VType) (d a : VOp) (f : W32 → W32 × Flags) =>
    some (l, ty, d, [a], fun (_ : State) (v : List (List W32)) => (v.getD 0 []).map f)
  let two := fun (l : Nat) (ty : VType) (d a b : VOp) (f : W32 → W32 → W32 × Flags) =>
    some (l, ty, d, [a, b], fun (_ : State) (v : List (List W32)) => List.zipWith f (v.getD 0 []) (v.getD 1 []))
  let three := fun (l : Nat) (ty : VType) (d a b : VOp) (f : W32 → W32 → W32 → W32 × Flags) =>
    some (l, ty, d, [a, b], fun (u : State) (v : List (List W32)) =>
      List.zipWith (fun g c => g c) (List.zipWith f (v.getD 0 []) (v.getD 1 [])) (u.destLanes d))
  let all := fun (l : Nat) (d a : VOp) (f : List W32 → List W32) =>
    some (l, VType.int, d, [a], fun (_ : State) (v : List (List W32)) => (f (v.getD 0 [])).map fun x => (x, noFlags))
  let rm := bits s.core.r.sr.vctl 0 2
  let ftz := bitAt s.core.r.sr.vctl 2
  let val := fun (x : W32) => f32.decode (f32.flushIn ftz x.toNat)
  let mask := fun (b : Bool) (f : Flags) => ((if b then 0xFFFFFFFF else 0 : W32), f)
  let fun1 := fun (d a : VOp) (f : Nat → FVal → Nat × Flags) =>
    one 8 .f32 d a fun x => lane32 (f32.flushOut ftz (f rm (f32.decode (f32.flushIn ftz x.toNat))))
  match i with
  | .fadd _ d a b => two 2 .f32 d a b fun x y => lane32 (f32.add rm ftz x.toNat y.toNat)
  | .fsub _ d a b => two 2 .f32 d a b fun x y => lane32 (f32.sub rm ftz x.toNat y.toNat)
  | .fmul _ d a b => two 4 .f32 d a b fun x y => lane32 (f32.mul rm ftz x.toNat y.toNat)
  | .ffma _ d a b => three 4 .f32 d a b fun x y z => lane32 (f32.fma rm ftz x.toNat y.toNat z.toNat)
  | .ffms _ d a b => three 4 .f32 d a b fun x y z => lane32 (f32.fms rm ftz x.toNat y.toNat z.toNat)
  | .fmax _ d a b => two 2 .f32 d a b fun x y => lane32 (f32.maxMin true (f32.flushIn ftz x.toNat) (f32.flushIn ftz y.toNat))
  | .fmin _ d a b => two 2 .f32 d a b fun x y => lane32 (f32.maxMin false (f32.flushIn ftz x.toNat) (f32.flushIn ftz y.toNat))
  | .fabs _ d a => one 2 .f32 d a fun x => (x &&& 0x7FFFFFFF, noFlags)
  | .fneg _ d a => one 2 .f32 d a fun x => (x ^^^ 0x80000000, noFlags)
  | .fcpys _ d a b => two 2 .f32 d a b fun x y => ((x &&& 0x7FFFFFFF) ||| (y &&& 0x80000000), noFlags)
  | .frcp _ d a => fun1 d a f32.rcp
  | .frsq _ d a => fun1 d a f32.rsqrt
  | .flog2 _ d a => fun1 d a f32.log2F
  | .fexp2 _ d a => one 8 .f32 d a fun x => lane32 (f32.flushOut ftz (exp2 (f32.flushIn ftz x.toNat)))
  | .frint _ d a sz => one 2 .f32 d a fun x => lane32 (f32.rint (if sz = 1 then 1 else rm) (f32.flushIn ftz x.toNat))
  | .fcmpeq _ d a b => two 2 .f32 d a b fun x y => mask ((val x).eq (val y)) (anySnan (val x) (val y))
  | .fcmplt _ d a b => two 2 .f32 d a b fun x y => mask ((val x).lt (val y)) (anyNan (val x) (val y))
  | .fcmple _ d a b => two 2 .f32 d a b fun x y => mask ((val x).lt (val y) || (val x).eq (val y)) (anyNan (val x) (val y))
  | .fcmpun _ d a b => two 2 .f32 d a b fun x y => mask ((val x).isNan || (val y).isNan) (anySnan (val x) (val y))
  | .hadd _ d a b sz => two 2 (halfV sz) d a b (halves2 ((halfType sz).add rm ftz))
  | .hmul _ d a b sz => two 4 (halfV sz) d a b (halves2 ((halfType sz).mul rm ftz))
  | .hfma _ d a b sz => three 4 (halfV sz) d a b fun x y z =>
    joinHalves ((halfType sz).fma rm ftz (loHalf x) (loHalf y) (loHalf z)) ((halfType sz).fma rm ftz (hiHalf x) (hiHalf y) (hiHalf z))
  | .hmax _ d a b sz => two 2 (halfV sz) d a b (halves2 (selectF (halfType sz) true ftz))
  | .iadd _ d a b sz => two 2 .int d a b fun x y => narrow32 sz (x.toInt + y.toInt)
  | .isub _ d a b sz => two 2 .int d a b fun x y => narrow32 sz (x.toInt - y.toInt)
  | .imul _ d a b sz => two 4 .int d a b fun x y => narrow32 sz (x.toInt * y.toInt)
  | .imulh _ d a b sz => two 4 .int d a b fun x y =>
    (if sz = 1 then BitVec.ofNat 32 (x.toNat * y.toNat / 2 ^ 32) else BitVec.ofInt 32 (x.toInt * y.toInt / 2 ^ 32), noFlags)
  | .imad _ d a b sz => three 4 .int d a b fun x y z => narrow32 sz (x.toInt * y.toInt + z.toInt)
  | .imax _ d a b => two 2 .int d a b fun x y => (if x.toInt ≤ y.toInt then y else x, noFlags)
  | .imin _ d a b => two 2 .int d a b fun x y => (if x.toInt ≤ y.toInt then x else y, noFlags)
  | .imaxn _ d a b => two 2 .int d a b fun x y => (if x.toNat ≤ y.toNat then y else x, noFlags)
  | .iminn _ d a b => two 2 .int d a b fun x y => (if x.toNat ≤ y.toNat then x else y, noFlags)
  | .iand _ d a b => two 2 .int d a b fun x y => (x &&& y, noFlags)
  | .ior _ d a b => two 2 .int d a b fun x y => (x ||| y, noFlags)
  | .ixor _ d a b => two 2 .int d a b fun x y => (x ^^^ y, noFlags)
  | .ishl _ d a b sz => two 2 .int d a b fun x y => narrow32 sz (x.toInt * 2 ^ (y.toNat % 32))
  | .ishr _ d a b => two 2 .int d a b fun x y => (x >>> (y.toNat % 32), noFlags)
  | .isra _ d a b => two 2 .int d a b fun x y => (x.sshiftRight (y.toNat % 32), noFlags)
  | .iabs _ d a sz => one 2 .int d a fun x => narrow32 sz x.toInt.natAbs
  | .icmpeq _ d a b => two 2 .int d a b fun x y => mask (x == y) noFlags
  | .icmplt _ d a b => two 2 .int d a b fun x y => mask (decide (x.toInt < y.toInt)) noFlags
  | .icmpltn _ d a b => two 2 .int d a b fun x y => mask (decide (x.toNat < y.toNat)) noFlags
  | .cvt _ d a dst src sz => one 3 (cvtBroadcast src.val) d a (cvtLane dst.val src.val (if sz = 1 then 1 else rm) ftz)
  | .qnt _ d a b =>
    let w := s.xop b
    two 3 .int d a b fun x _ => let r := quantise (quantE w) (quantLo w) (quantL w) (f32.decode x.toNat); (BitVec.ofInt 32 r.1, r.2)
  | .dqnt _ d a b =>
    let w := s.xop b
    two 3 .int d a b fun x _ => lane32 (f32.round 0 (decide (x.toInt < 0)) x.toInt.natAbs (quantE w) false)
  | .plpack _ d a f => all 3 d a fun v => (List.range 32).map fun k => if k < f.val then BitVec.ofNat 32 (plane v k) else 0
  | .plunpk _ d a f => all 3 d a fun v => (List.range 32).map fun c =>
    let n := plane (v.take (f.val % 16)) c
    if f.val / 16 % 2 = 1 then sext32 (f.val % 16) n else BitVec.ofNat 32 n
  | .vmov _ d a => one 2 .int d a fun x => (x, noFlags)
  | .vbcast _ d a b => some (2, .int, d, [a, b], fun _ v => (v.getD 1 []).mapIdx fun _ n => ((v.getD 0 []).getD (n.toNat % 32) 0, noFlags))
  | .vshuf _ d a b => some (3, .int, d, [a, b], fun _ v => (v.getD 1 []).mapIdx fun _ n => ((v.getD 0 []).getD (n.toNat % 32) 0, noFlags))
  | .vrot _ d a b => some (3, .int, d, [a, b], fun _ v => (v.getD 1 []).mapIdx fun j n => ((v.getD 0 []).getD ((j + n.toNat % 32) % 32) 0, noFlags))
  | .vscan _ d a f sz => some (3, .int, d, [a], fun u v =>
    scanFrom f.val (sz == 1) (redIdentity f.val) (orIdentity f.val u.active (v.getD 0 [])))
  | _ => none

/-! Units of work of the engines (08 R262 R265). -/

/-- Writes of the command `c` of queue `q` can be performed at once: their pages' dirty bits can be set, no replay supplies them, and where
LOGMODE.MODE is FULL the log takes their entries, which show the position of `shown` (04 R127, 12 R361); `t` is the state after them and after the
position's move. -/
def commits (q : Nat) (c : Cmd) (ag : Agent) (ws : List BWrite) (shown adv : State → State) (s t : State) : Prop :=
  ∃ u, dirtyAll ag ws s = (true, u) ∧ u.core.replay = none ∧
    let done := fun (v : State) => ws.foldl (fun s w => performBlock ag w s) v
    let es := if u.logFull then tileEnts q c ws shown u else []
    (es = [] ∧ t = adv (done u)) ∨
    (es ≠ [] ∧ ∃ v, logReady es u = (none, v) ∧
      t = adv ((es.foldl logAppend (done v)).modWork q fun w => { w with logWait := false }))

/-- The same for elements whose places are all found. -/
def writesElems (q : Nat) (c : Cmd) (ag : Agent) (es : List EElem) (adv : State → State) (s t : State) : Prop :=
  ∃ ds u, locateElems ag es s = .ok ds u ∧ commits q c ag (ds.map fun x => writeElems .inherit x.1 x.2 u) adv adv u t

/-- How a chunk's counts and CHUNK move. -/
def chunkMoves (o : ChunkOut) (k : Word) (s : State) : State :=
  let s := if o.poison then s.consume 1 else s
  ((s.addCounts 2 o.counts).modWork 2 fun w => { w with mismatch := w.mismatch || o.mismatch }).setProg 2 4 (k + 1)

/-- A chunk whose places are all found, whose data is in order, and whose writes can be performed leads to `t`. -/
def chunkDone (c : Cmd) (ag : Agent) (far : Word → BitVec 24) (ue : Option ReadError) (srcs dsts : List Word)
    (build : SMap EBlock → SMap (Word × Loc) → State → Except (BitVec 8 × Word) ChunkOut) (s t : State) : Prop :=
  ∃ ls u ds v o, locateBlocks ag .read (oneEach (srcs.map blockOf)) s = .ok ls u ∧
    locateBlocks ag .write ((sortOn (fun a : Word => a.toNat) (dsts.map blockOf)).dedup) u = .ok ds v ∧
    build (takeSources 3 ag c far ue ls v).1 (ds.foldl (fun m d => sput m d.1.toNat d) []) (takeSources 3 ag c far ue ls v).2 = .ok o ∧
    let adv := chunkMoves o ((takeSources 3 ag c far ue ls v).2.prog 2 4)
    commits 2 c ag o.writes adv adv (takeSources 3 ag c far ue ls v).2 t

/-- The elements a copying, transposing or filling command moves in chunk `k` (08 R252 R253 R255). -/
def chunkElems (c : Cmd) (b : List Byte) (k : Nat) : Option (List MoveElem) :=
  let A := c.shape 0
  let C := c.shape 2
  let ns := chunkRange k C.count C.ebytes
  match c.instr with
  | .ccopy .. => some (ns.map fun n => ⟨some (A.addrOf n), C.addrOf n, [], false⟩)
  | .ctrans .. => some (ns.map fun n => ⟨some (A.addrOf (transOrdinal A n)), C.addrOf n, [], false⟩)
  | .cfill .. => some (ns.map fun n => ⟨none, C.addrOf n, slice b 8 C.ebytes, false⟩)
  | _ => none

/-- The command is CGATHER, or CSCATTER. -/
def indexedForm : Instr → Option Bool
  | .cgather .. => some false
  | .cscatter .. => some true
  | _ => none

/-- A phase fetch that begins: its tile is FILLING and the phase waits in the pair (08 R269). -/
def phaseBegun (q pair unit : Nat) (tile : Fin 64) (s : State) : State :=
  (s.modTiles (onTiles Tile.start [(tile, true)])).modPhases q fun l => l ++ [⟨pair, tile, unit, false, false, []⟩]

/-- What a phase of the running command of engine `q` reads. -/
def phaseRead (q : Nat) (c : Cmd) (ph : Phase) : State → Act (SMap EBlock) :=
  match q with
  | 0 => if isGemm c.instr then gemmRead c ph else attnRead c ph
  | 1 => scoutRead c ph
  | _ => vmacroRead c ph

end

end Sys2Proof.Safety
end

