-- ==== Sys2Proof/Certificates/Slice0/Obligations.lean ====
section
/-! DEFINITION. The statements for the provers. -/

open Sys2Proof Sys2Proof.Machine Sys2Proof.Safety

/-- 05 R164 to R168 R171 R173 R175 R176, 12 R382: what an instruction that computes one word delivers, and when. -/
def Obligations.ScalarResults : Prop :=
  ∀ (i : Instr) (s : State) (l : Option Nat) (w : Write) (es : List LogEvent), slotPasses i s = true →
    scalarResult i (staleReads s i) = some (l, w, es) → exec i s = .next ((staleReads s i).result l w es)

/-- 05 R169 R175: a predicate instruction delivers one predicate with latency 1. -/
def Obligations.PredicateResults : Prop :=
  ∀ (i : Instr) (s : State) (d : Fin 16) (v : Bool), slotPasses i s = true → predResult i (staleReads s i) = some (d, v) →
    exec i s = .next ((staleReads s i).result (some 1) (.p d v) [])

/-- 05 R160 R171 to R173, 07 R238: an instruction that writes one register that is not an x register, with latency 1. -/
def Obligations.RegisterWrites : Prop :=
  ∀ (i : Instr) (s : State) (w : Write), slotPasses i s = true → writeResult i (staleReads s i) = some w →
    exec i s = .next ((staleReads s i).result (some 1) w [])

/-- 06 R188 R190 to R192: a scalar load delivers its bytes widened, with latency 4 from the own scratchpad and interlocked
else; a y name takes a load of the own scratchpad only. -/
def Obligations.ScalarLoads : Prop :=
  ∀ (i : Instr) (s u : State) (n : Nat) (ext : Nat → Word) (d b : Fin 64) (disp : Fin 4096) (bs : List Byte),
    slotPasses i s = true → loadForm i = some (n, ext, d, b, disp) →
    let t := staleReads s i
    let va := t.x b + sext64 12 disp.val * BitVec.ofNat 64 n
    ((∀ k, t.core.xname d ≠ .y k) ∨ isOwn va = true) →
    loadMeets va (loadPieces none n [(va, n)]) t = some (bs, u) →
    exec i s = .next (u.result (if isOwn va then some 4 else none) (xWrite u d (ext (ofBytes bs))) [])

/-- 06 R189 R192, 04 R134: a scalar store that passes its checks is held in the open window. -/
def Obligations.ScalarStores : Prop :=
  ∀ (i : Instr) (s u : State) (n : Nat) (d b : Fin 64) (disp : Fin 4096),
    slotPasses i s = true → storeForm i = some (n, d, b, disp) →
    let t := staleReads s i
    storePieces none n n [(t.x b + sext64 12 disp.val * BitVec.ofNat 64 n, toBytes n (t.x d).toNat)] t = .ok () u →
    exec i s = .next u

/-- 06 R193: LDTAG delivers the tag and the poison bit; STTAG holds a store of the tag that counts 64 bytes. -/
def Obligations.TagAccesses : Prop :=
  ∀ (g : Fin 8) (d b : Fin 64) (disp : Fin 4096) (s u : State),
    (∀ bs, slotPasses (.ldtag g d b disp) s = true →
      let t := staleReads s (.ldtag g d b disp)
      let va := t.x b + sext64 12 disp.val * 64
      ((∀ k, t.core.xname d ≠ .y k) ∨ isOwn va = true) →
      loadMeets va (readTag va) t = some (bs, u) →
      exec (.ldtag g d b disp) s = .next (u.result (if isOwn va then some 4 else none) (xWrite u d (fw bs 0)) [])) ∧
    (∀ l, slotPasses (.sttag g d b disp) s = true →
      let t := staleReads s (.sttag g d b disp)
      let va := t.x b + sext64 12 disp.val * 64
      tagPlace va t = .ok (some l) u →
      exec (.sttag g d b disp) s = .next (u.hold [tagStore va l.key (BitVec.ofNat 24 (u.x d).toNat) u]))

/-- 06 R191 R194: LDV, LDVS and LDG deliver one element of 32 bits in each lane of their line. -/
def Obligations.LineLoads : Prop :=
  ∀ (i : Instr) (s u : State) (m : Line) (va base : Word) (ps : List (Word × Nat)) (bs : List Byte),
    slotPasses i s = true → isLineLoad i = true → lineForm i (staleReads s i) = some (m, va, base, ps) →
    loadMeets va (loadPieces (some base) 4 ps) (staleReads s i) = some (bs, u) →
    exec i s = .next (u.result (if isOwn base then some 4 else none)
      (.cells m.m ((List.range 32).map fun j => (lineKey m j, (BitVec.ofNat 32 (field bs (4 * j) 4) : W32)))) [])

/-- 06 R194: STV, STVS and STG hold one element of each lane of their line, in lane order. -/
def Obligations.LineStores : Prop :=
  ∀ (i : Instr) (s u : State) (m : Line) (va base : Word) (ps : List (Word × Nat)),
    slotPasses i s = true → isLineLoad i = false → lineForm i (staleReads s i) = some (m, va, base, ps) →
    storePieces (some base) 4 128 (ps.zipIdx.map fun p =>
      (p.1.1, toBytes 4 (((staleReads s i).lineElems m).getD p.2 0).toNat)) (staleReads s i) = .ok () u →
    exec i s = .next u

/-- 06 R195 R196: LDX cuts the fields of its pattern from the bytes that hold some used bit. -/
def Obligations.ExtractionLoads : Prop :=
  ∀ (g : Fin 8) (m : Line) (b : Fin 64) (k : Fin 4) (s u : State) (bs : List Byte),
    slotPasses (.ldx g m b k) s = true →
    let t := staleReads s (.ldx g m b k)
    let lanes := extractLanes t.core.r k.val
    patternOk t.core.r k.val = true →
    loadMeets (t.x b) (loadPieces (some (t.x b)) 1 (extractPieces (t.x b) lanes)) t = some (bs, u) →
    exec (.ldx g m b k) s = .next (u.result (if isOwn (t.x b) then some 4 else none)
      (.cells m.m ((extractElems lanes bs).zipIdx.map fun v => (lineKey m v.2, v.1))) [])

/-- 06 R197 R198, 12 R357 R384 R386: an atomic returns the old value, interlocked. Outside a transaction it performs its write at once; ACAS
that does not match writes nothing. Inside one its write is held for the commit, and one in the cluster aperture aborts as UNSUPPORTED. -/
def Obligations.Atomics : Prop :=
  ∀ (i : Instr) (s u : State) (n : Nat) (d b : Fin 64) (disp : Fin 4096) (l : Loc) (es : List LogEvent),
    slotPasses i s = true → atomicForm i = some (n, d, b, disp) →
    let t := staleReads s i
    let va := t.x b + sext64 12 disp.val * BitVec.ofNat 64 n
    (t.txAperture none n [(va, n)] = true → exec i s = .next (t.txDue 4 0 0)) ∧
    (t.txAperture none n [(va, n)] = false → atomicPlace va n t = .ok l u → u.core.replay = none →
      let old := ofBytes (u.viewBytes l.key n)
      let r := touchRead u.agent [(va, l)] u
      let returns := fun (v : State) => exec i s = .next (v.result none (.x d (BitVec.ofNat 64 old)) es)
      (∀ new, atomicValue i u old = some (some new, es) →
        (∀ v, u.core.tx = none → performRun r.agent (some r.core.id) l.key (toBytes n new)
            (r.noteL1 r.core.id (mayCache r.scopeNow l) l.key n) = (true, v) → returns (v.noteAtomic va n l.far old new)) ∧
        (u.core.tx.isSome = true → returns ((touchWrite [(va, l)] r).hold [atomicStore va l n (toBytes n new) r]))) ∧
      (atomicValue i u old = some (none, es) →
        (u.core.tx = none → returns (r.noteAtomic va n l.far old old)) ∧
        (u.core.tx.isSome = true → returns (r.hold [atomicStore va l n [] r]))))

/-- 06 R200 to R203, 04 R136 R145: a FENCE wider than `core` ends what L1 keeps apart from L2 (log 7); PROMOTE is an access to its
block, before which every store to it inside the instance has its place; PREFETCH counts a far page; CFLUSH is held until its
window closes, and has no effect on the own scratchpad. -/
def Obligations.FencesAndCaches : Prop :=
  ∀ (g : Fin 8) (b : Fin 64) (disp : Fin 4096) (s : State),
    (∀ sc, slotPasses (.fenceOp g sc) s = true →
      exec (.fenceOp g sc) s = .next (if sc.val = 0 then s else s.releaseL1)) ∧
    (∀ sc l u, slotPasses (.promote g sc b disp) s = true →
      let t := staleReads s (.promote g sc b disp)
      let va := t.x b + sext64 12 disp.val * 64
      t.core.steals = true → region va = .glob →
      translate (strandAgent t sc.val) .read (blockBase va) t = .ok l u →
      exec (.promote g sc b disp) s = .next
        ((noteAccess u u.core.id (some u.core.id) sc.val l.key false).cleanBlock (sameInstance sc.val u.core.id) l.key)) ∧
    (∀ l2 l u, slotPasses (.prefetch g l2 b disp) s = true →
      let t := staleReads s (.prefetch g l2 b disp)
      let va := t.x b + sext64 12 disp.val * 64
      region va = .glob → va.toNat % 64 = 0 → translate t.agent .read va t = .ok l u →
      exec (.prefetch g l2 b disp) s = .next (if l.far then u.countFar (dieOf u.core.id) u.core.partOf va 1 else u)) ∧
    (∀ i k x r u, (i, k) ∈ [(Instr.cflushWb g b disp, (0 : Fin 3)), (.cflushInv g b disp, 1), (.cflushMem g b disp, 2)] →
      slotPasses i s = true →
      let t := staleReads s i
      let va := t.x b + sext64 12 disp.val * 64
      locatePieces t.agent .read false none 64 [(va, 64)] t = .ok (x :: r) u →
      exec i s = .next (if isOwn va then u else u.modWin fun w => { w with held := w.held ++ [.flush k x.2.2.key] }))

/-- 06 R204 to R206: what BARINIT writes, what BARARR returns and does, and when BARWAIT goes on. -/
def Obligations.Barriers : Prop :=
  ∀ (g : Fin 8) (d b : Fin 64) (disp : Fin 4096) (s : State),
    (slotPasses (.barinit g d b disp) s = true →
      let t := staleReads s (.barinit g d b disp)
      let k := barrierKey t.core.id (t.index b disp)
      t.index b disp ≤ 31 → (t.x d).toNat ≠ 0 → (t.x d).toNat ≤ 1024 → (t.barrier k).arrived = 0 →
      exec (.barinit g d b disp) s = .next (t.setBarrier k ⟨(t.x d).toNat, 0, (t.barrier k).gen⟩)) ∧
    (slotPasses (.bararr g d b disp) s = true →
      let t := staleReads s (.bararr g d b disp)
      let k := barrierKey t.core.id (t.index b disp)
      let v := t.barrier k
      t.index b disp ≤ 31 → t.core.replay = none → v.expect ≠ 0 →
      let w := t.setBarrier k (if v.arrived + 1 = v.expect then ⟨v.expect, 0, v.gen + 1⟩ else ⟨v.expect, v.arrived + 1, v.gen⟩)
      let y := w.releaseL1.modWin fun v => { v with acted := true }
      exec (.bararr g d b disp) s = .next ((y.recordInput 6 (n8 v.gen.toNat)).result none (.x d (v.gen.setWidth 64)) [])) ∧
    (slotPasses (.barwait g d b disp) s = true →
      let t := staleReads s (.barwait g d b disp)
      let gen := (t.barrier (barrierKey t.core.id (t.index b disp))).gen
      t.index b disp ≤ 31 → 0 ≤ (gen - ((t.x d).setWidth 32 + 1)).toInt → exec (.barwait g d b disp) s = .next t)

/-- 06 R207 to R210: QPUSH reserves a place and holds its entry; a pop claims the oldest entry and holds its store; QPOP of a
closed queue returns 0 and QTRY all ones, QTRY of an empty open one 0. That a queue whose only entries another strand has claimed is empty
for a pop is the model's choice (log 109). -/
def Obligations.StageQueues : Prop :=
  ∀ (g q : Fin 8) (d b : Fin 64) (s : State) (id : Nat) (v : SQueue),
    (∀ r u v', slotPasses (.qpush g q b) s = true →
      let t := staleReads s (.qpush g q b)
      portOf q true t = some (id, v) → readEntry (t.x b) v.esize t = .ok r u → u.core.replay = none → v.closed = false →
      v.reserve = some v' →
      exec (.qpush g q b) s = .next ((u.modQueue u.core.partOf.val u.core.pipeOf id fun _ => v').holdItem
        (.push id r.1 r.2 v.chipRoom) v.esize)) ∧
    (∀ i, i ∈ [Instr.qpop g d q b, .qtry g d q b] → slotPasses i s = true →
      let t := staleReads s i
      let p := t.core.partOf.val
      let pipe := t.core.pipeOf
      portOf q false t = some (id, v) → pieceFault none 16 (t.x b) v.esize = none → t.core.replay = none →
      (∀ e u, v.oldest = some e → storeAt (t.queueScope p pipe) none 16 v.esize [(t.x b, e.bytes)] t = .ok () u →
        exec i s = .next ((((claimEntry u p pipe id e.seq u.core.id).modWin fun w =>
          { w with held := w.held ++ [.claim id e.seq] }).recordInput 4 (n8 e.seq ++ e.bytes)).result none
            (xWrite u d (BitVec.ofNat 64 e.seq)) [])) ∧
      (v.oldest = none → v.ringCount = 0 → (v.closed = true ∨ i = .qtry g d q b) →
        let r : Word := if v.closed ∧ i = .qtry g d q b then BitVec.allOnes 64 else 0
        exec i s = .next ((t.recordInput 4 (b8 r)).result none (xWrite t d r) [])))

/-- 06 R211 to R213: RSEND holds a message and takes a credit; RRECV claims the oldest message and holds its store. -/
def Obligations.Messages : Prop :=
  ∀ (g : Fin 8) (d b : Fin 64) (k : Fin 4) (s u : State) (c : Nat),
    (∀ r, slotPasses (.rsend g d k b) s = true →
      let t := staleReads s (.rsend g d k b)
      let site := bits (t.x d) 0 4
      let target := coreNumber (clusterId t.core.id) site
      let key := 9 * k.val + site
      pieceFault none 64 (t.x b) 64 = none → t.reachable t.core.id site = true →
      ringSize (t.coreAt target) (if target = t.core.id then (t.coreAt target).tileView else (t.coreAt target).tiles) k = some c →
      9 ≤ c → readMessage (t.x b) t = .ok r u → u.core.replay = none → 0 < sget u.core.credits 0 key → u.restoring target = false →
      let h := u.holdItem (.send target k r.1 r.2) 64
      exec (.rsend g d k b) s =
        .next { h with core := { h.core with credits := sset h.core.credits 0 key (sget u.core.credits 0 key - 1) } }) ∧
    (∀ hs, slotPasses (.rrecv g d k b) s = true →
      let t := staleReads s (.rrecv g d k b)
      let r := t.core.rings.get k
      let e := t.core.tileView.toList.getD (60 + k.val) zeroTile
      let key := scratchKey t.core.id ((e.base.toNat + (r.head + r.claimed) % c) * 64)
      let sender := r.senders.getD r.claimed 0
      pieceFault none 64 (t.x b) 64 = none → ringSize t.core t.core.tileView k = some c → t.core.replay = none →
      r.claimed < r.tail - r.head → storeMessage (t.x b) (t.peek key 64) (t.mdata key) t = .ok hs u →
      let h := u.holdMessage hs (t.mdata key)
      let h := { h with core := { h.core with rings := h.core.rings.set k { r with claimed := r.claimed + 1 } } }
      let h := h.modWin fun w => { w with held := w.held ++ [.receive k sender] }
      exec (.rrecv g d k b) s = .next ((h.recordInput 5 (n8 sender ++ t.peek key 64 ++ n8 (t.mdata key).toNat)).result none
        (xWrite h d (BitVec.ofNat 64 sender)) []))

/-- 06 R214 R215, 01 R35: TTDEF, TTREL and TTSET leave a change of the tile pending; TTSTAT delivers the tile's word. -/
def Obligations.TileInstructions : Prop :=
  ∀ (g : Fin 8) (d b : Fin 64) (disp : Fin 4096) (s : State) (i : Instr) (k : Fin 64), slotPasses i s = true →
    let t := staleReads s i
    let e := t.core.tileView.get k
    let w := Tile.ofWord (t.x d)
    t.index b disp = k.val →
    (i = .ttdef g d b disp → e.state = .empty → w.owner ≠ 5 → w.owner ≠ 6 →
      (w.base.toNat + w.size.toNat) * 64 ≤ t.core.spadSize → (60 ≤ k.val → ringBusy t (k.val - 60) = false) →
      exec i s = .next (t.tileChange (.define k { w with state := .empty, phase := false, readers := 0 }))) ∧
    (i = .ttrel g b disp ∨ i = .ttsetEmpty g b disp → e.size ≠ 0 → 5 ≤ e.owner.toNat → (e.state = .ready ∨ e.state = .draining) →
      exec i s = .next (t.tileChange (.release k))) ∧
    (i = .ttsetReady g b disp → e.size ≠ 0 → 5 ≤ e.owner.toNat → (e.state = .empty ∨ e.state = .ready) →
      exec i s = .next (t.tileChange (.setReady k))) ∧
    (i = .ttstat g d b disp → exec i s = .next (t.result none (.x d e.word) []))

/-- 12 R382 to R387: TXBEGIN opens a transaction, TXEND commits it unless an abort is due, TXABORT makes one due, and TX_ABORT performs the
one that is due. That the state which TXBEGIN saves is that before its own bundle is the model's reading (log 23). -/
def Obligations.Transactions : Prop :=
  ∀ (g k : Fin 8) (sc : Fin 4) (c : Fin 256) (s : State),
    (slotPasses (.txbegin g k sc) s = true → s.core.tx = none →
      let t := staleReads s (.txbegin g k sc)
      let v := t.modSr fun r => { r with txstate := txBegun k sc }
      let x : Tx := { save := t.core.bnd, reads := [], writes := [], others := [], held := [], loads := [], places := [], bytes := 0, conflict := false, abort := none }
      exec (.txbegin g k sc) s = .next { v with core := { v.core with tx := some x } }) ∧
    (∀ x, slotPasses (.txend g) s = true → (staleReads s (.txend g)).core.tx = some x → x.conflict = false → x.abort = none →
      exec (.txend g) s = .next (txCommit x (staleReads s (.txend g)))) ∧
    (slotPasses (.txabort g c) s = true → (staleReads s (.txabort g c)).core.tx.isSome = true →
      exec (.txabort g c) s = .next ((staleReads s (.txabort g c)).txDue 3 (BitVec.ofNat 8 c.val) 0)) ∧
    (∀ code cause, s.txDueNow = some (k, code, cause) → exec (.txAbort k) s = .next (txAbortNow k code cause s))

/-- 02 R49 R51, 05 R178 R181: the transfers with their targets; CALL writes bt0; LOOP writes its counter and its bounds. -/
def Obligations.Transfers : Prop :=
  ∀ (i : Instr) (s : State), slotPasses i s = true →
    let t := staleReads s i
    let goes := fun (w : Word) (r : Bool) => ({ t with core := { t.core with iss := { t.core.iss with target := some w, settle := r } } } : State)
    let call := fun (w : Word) => ({ t with core := { t.core with iss := { t.core.iss with call := some w } } } : State).result (some 1)
      (.bt 0 (t.core.iss.pc + 128)) []
    (∀ g disp, i = .br g disp → (t.relTarget disp.val).toNat % 32 = 0 → exec i s = .next (goes (t.relTarget disp.val) false)) ∧
    (∀ g a, i = .bri g a → (t.x a).toNat % 32 = 0 → exec i s = .next (goes (t.x a) false)) ∧
    (∀ g disp, i = .call g disp → (t.relTarget disp.val).toNat % 32 = 0 → exec i s = .next (call (t.relTarget disp.val))) ∧
    (∀ g a, i = .calli g a → (t.x a).toNat % 32 = 0 → exec i s = .next (call (t.x a))) ∧
    (∀ g k, i = .ret g k → (t.core.r.bt.get k).toNat % 32 = 0 → exec i s = .next (goes (t.core.r.bt.get k) true)) ∧
    (∀ sh t1 t2 t3 t4 l1 l2 l3 l4 l5, i = .tree sh t1 t2 t3 t4 l1 l2 l3 l4 l5 →
      (∀ x ∈ testsUsed sh t1 t2 t3 t4, t.core.valid (.p (Fin.ofNat 16 x.val)) = true) →
      let code : Fin 8 := [l1, l2, l3, l4, l5].getD (t.leafOf sh t1 t2 t3 t4 - 1) 0
      (code = 0 → exec i s = .next t) ∧
      (1 ≤ code.val → code.val ≤ 6 → t.core.r.btv.getLsbD code.val = true → (t.core.r.bt.get code).toNat % 32 = 0 →
        exec i s = .next (goes (t.core.r.bt.get code) false))) ∧
    (∀ g n k len, i = .loopOp g n k len →
      let act := activeLoops t.core.r.sr.lact
      let pc := t.core.iss.pc
      let last := pc + BitVec.ofNat 64 len.val * 32
      act.contains k.val = false →
      (∀ j ∈ act, (loopBounds t.core.r.sr j).1 ≤ pc → pc ≤ (loopBounds t.core.r.sr j).2 → last ≤ (loopBounds t.core.r.sr j).2) →
      (t.x n = 0 → (last + 32).toNat % 32 = 0 → exec i s = .next (goes (last + 32) false)) ∧
      (t.x n ≠ 0 → exec i s = .next (((if 2 ^ 32 ≤ (t.x n).toNat then t.event Ev.saturate else t).result (some 1)
        (.state (0x10 + k.val) (BitVec.ofNat 64 (min (t.x n).toNat (2 ^ 32 - 1)))) []).result (some 1)
          (.loop k (pc + 32) last (lactOf (k.val :: act))) [])))

/-- 05 R156 R178 R183 to R185, 13 R421, 14 R425 R431: an instruction that acts after its bundle ends the bundle, closes the
window, and then acts. TWIN of WIN - 1 at TRAP (log 55), the five RFT rows acting by TDISP (log 40) and what YIELD, SUSPEND and EXIT do where no
strand goes on (log 24) are the model's readings. -/
def Obligations.AfterTheBundle : Prop :=
  ∀ (i : Instr) (s u : State) (ready : State → Bool) (act : State → State), slotPasses i s = true → s.core.closing = false →
    let e := (bundleEnd (kept i (staleReads s i))).1
    afterBundle i (staleReads s i) = some (ready, act) → e.core.iss.gone = false →
    closeWindow (drain e) = .done u → ready u = true →
    exec i s = .next (act { u with core := { u.core with post := none } })

/-- 05 R186: WAIT.MEM goes on when the word has reached the awaited value, WAIT.ENG when no command of its queues is left; both
stall until then, and a read that does not find the value leaves no access in the window. That the markers of engine 6 are no
commands WAIT.ENG waits for is the model's choice (log 105). -/
def Obligations.Waits : Prop :=
  ∀ (g : Fin 8) (a b : Fin 64) (mask : Fin 32) (s u : State) (bs : List Byte),
    (slotPasses (.waitMem g a b) s = true →
      let t := staleReads s (.waitMem g a b)
      loadMeets (t.x a) (loadPieces none 4 [(t.x a, 4)]) t = some (bs, u) →
      let gap := ((BitVec.ofNat 32 (ofBytes bs) : W32) - (u.x b).setWidth 32).toInt
      (0 ≤ gap → exec (.waitMem g a b) s = .next u) ∧
      (gap < 0 → exec (.waitMem g a b) s =
        .next { u with core := { u.core with win := s.core.win, iss := { u.core.iss with stalled := true } } })) ∧
    (slotPasses (.waitEng g mask) s = true →
      ((∀ q, q < 5 → mask.val / 2 ^ q % 2 = 1 → ∀ c ∈ s.core.eng.queue q, isEtrel c.instr = true) →
        exec (.waitEng g mask) s = .next s) ∧
      ((∃ q, q < 5 ∧ mask.val / 2 ^ q % 2 = 1 ∧ ∃ c ∈ s.core.eng.queue q, isEtrel c.instr = false) →
        exec (.waitEng g mask) s = .next { s with core := { s.core with iss := { s.core.iss with stalled := true } } }))

/-- 05 R177, 04 R122, 14 R435 R439: the privileged instructions that act at once. -/
def Obligations.PrivilegedEffects : Prop :=
  ∀ (i : Instr) (s : State) (g : Fin 8) (a b : Fin 64), slotPasses i s = true →
    let t := staleReads s i
    (∀ sc, i = .tlbinvPage g a sc →
      exec i s = .next { t with core := { t.core with shoot := t.core.shoot ++ [(sc.val, some (t.x a).toNat)] } }) ∧
    (∀ sc, i = .tlbinvAll g sc → exec i s = .next { t with core := { t.core with shoot := t.core.shoot ++ [(sc.val, none)] } }) ∧
    (i = .cinvWbinv g → exec i s = .next t.releaseL1) ∧
    (i = .cinvInv g → exec i s = .next (discardL1 t)) ∧
    (∀ l u, i = .cinvWbpage g a → locate (strandAgent t 0) .read false (t.x a) t = .ok l u →
      let page := 2 ^ u.pageSize (u.x a)
      exec i s = .next (u.writeBackL1 (· == u.core.id) fun b => b * 64 / page == l.key / page)) ∧
    (∀ v c, i = .hackset g a v → t.cfg t.core.partOf.val = some c → bits (t.x a) 9 55 = 0 → isSite (bits (t.x a) 0 9) = true →
      c.hasCore (bits (t.x a) 0 9) = true →
      exec i s = .next (t.modCoreAt (bits (t.x a) 0 9) fun k => { k with hack := v == 1 })) ∧
    (∀ c, i = .dirtyclr g a b → t.cfg t.core.partOf.val = some c → (t.x a).toNat + (t.x b).toNat ≤ c.granules.length * 16384 →
      c.areas.getD 3 0 ≠ 0 →
      exec i s = .next ((List.range (t.x b).toNat).foldl (fun s j => clearDirty s.core.partOf c ((t.x a).toNat + j) s) t)) ∧
    (i = .quarantine g a → bits (t.x a) 16 48 = 0 → isSite (bits (t.x a) 0 9) = true → bits (t.x a) 9 7 < 8 →
      exec i s = .next (removeUnit (bits (t.x a) 0 9) (bits (t.x a) 9 7) t)) ∧
    (∀ (pa pb : Fin 8) ca cb, i = .pswap g a b → (t.x a).toNat = pa.val → (t.x b).toNat = pb.val →
      t.cfg pa.val = some ca → t.cfg pb.val = some cb → swapPartners ca cb pa.val pb.val = true → (t.part pa.val).resident = true →
      ((swapCores ca).all fun x => swapReady (t.coreAt x.1)) = true →
      exec i s = .next (swapPartitions pa pb ca cb t))

/-- 02 R42, 05 R163 R174 R176: NOP does nothing; CHKERR delivers CIR and may clear it; RDPW reads a bound window; RDTIME reads the
time base. -/
def Obligations.CoreReads : Prop :=
  ∀ (g : Fin 8) (d a : Fin 64) (s : State),
    (slotPasses .nop s = true → exec .nop s = .next (staleReads s .nop)) ∧
    (∀ c, slotPasses (.chkerr g d c) s = true →
      let t := staleReads s (.chkerr g d c)
      let cleared : State := { t with core := { t.core with cir := setBits (setBits t.core.cir 0 4 0) 16 16 0 } }
      exec (.chkerr g d c) s = .next ((if c = 1 then cleared else t).result (some 2) (xWrite t d t.core.cir) [])) ∧
    (∀ sz k, slotPasses (.rdpw g d a sz k) s = true →
      let t := staleReads s (.rdpw g d a sz k)
      let n := 2 ^ sz.val
      let off := (t.x a).toNat
      bitAt (vget t.core.pwsize k.val) 63 = true →
      exec (.rdpw g d a sz k) s = .next (t.result (some 2)
        (xWrite t d (BitVec.ofNat 64 (ofBytes ((List.range n).map fun j => paramByte t.core k.val (off + j)))))
        (if bits (vget t.core.pwsize k.val) 0 13 < off + n then [⟨Ev.paramOob, t.core.iss.slot, 0, t.core.iss.pc⟩] else []))) ∧
    (slotPasses (.rdtime g d) s = true →
      let t := staleReads s (.rdtime g d)
      t.core.replay = none →
      exec (.rdtime g d) s = .next ((t.recordInput 1 (n8 (t.clock % 2 ^ 64))).result (some 2) (xWrite t d (BitVec.ofNat 64 t.clock)) []))

/-- 07 R219 R221 R224 to R234: a lane-wise instruction delivers its lanes, from a before b, to its destination's active lanes. -/
def Obligations.LaneResults : Prop :=
  ∀ (i : Instr) (s u : State) (l : Nat) (ty : VType) (d : VOp) (src : List VOp) (f : State → List (List W32) → List (W32 × Flags))
    (vs : List (List W32)) (es : List LogEvent),
    slotPasses i s = true → laneOp i s = some (l, ty, d, src, f) → laneSources ty src (staleReads s i) = some (vs, es, u) →
    destOk d u = true →
    ∃ t, exec i s = .next t ∧ vresult l d u.active (f u vs) es u = .next t ∧ t.core.iss = { u.core.iss with stale := [] }

/-- 07 R232 R234 to R238: the vector instructions that are not lane-wise, with each destination they take. -/
def Obligations.OtherVectorResults : Prop :=
  ∀ (i : Instr) (g : Fin 8) (d a b : VOp) (s u : State) (va : List W32) (es : List LogEvent), slotPasses i s = true →
    let t := staleReads s i
    vsource .int a t = .ok (va, es) u →
    (∀ r sz, i = .vext g d a b sz → d = .xdest r → ∀ vb eb w, vsource .int b u = .ok (vb, eb) w →
      let v := va.getD ((vb.getD 0 0).toNat % 32) 0
      exec i s = .next (w.result (some 3) (xWrite w r (if sz = 1 then v.signExtend 64 else v.setWidth 64))
        (firstConditions (es.filter fun e => w.active.getLsbD e.lane.val)))) ∧
    (i = .vsel g d a b → ∀ vb eb w, vsource .int b u = .ok (vb, eb) w → destOk d w = true →
      let sel := t.core.r.vm.get (Fin.ofNat 8 (bits t.core.r.sr.vctl 4 3))
      exec i s = vresult 2 d 0xFFFFFFFF ((va.zip vb).mapIdx fun j p => (if sel.getLsbD j then p.1 else p.2, noFlags)) (es ++ eb) w ∧
      ∃ t, exec i s = .next t) ∧
    (i = .viota g d a b → ∀ vb eb w, vsource .int b u = .ok (vb, eb) w → destOk d w = true →
      exec i s = vresult 2 d w.active ((va.zip vb).mapIdx fun j p => (p.1 + BitVec.ofNat 32 j * p.2, noFlags)) [] w ∧
      ∃ t, exec i s = .next t) ∧
    (∀ f, i = .vred g d a f →
      let tree := redTree f.val (orIdentity f.val u.active va)
      let v := (tree.getD 0 (0, noFlags)).1
      let ev := (es.filter fun e => u.active.getLsbD e.lane.val) ++ tree.zipIdx.flatMap fun v => laneEvent u v.2 v.1.2
      (∀ r, d = .xdest r → exec i s = .next (u.result (some 3) (xWrite u r (redExtend f.val v)) (firstConditions ev))) ∧
      (destOk d u = true →
        exec i s = vresult 3 d 0xFFFFFFFF (List.replicate 32 (v, noFlags)) ev u ∧ ∃ t, exec i s = .next t)) ∧
    (∀ sz, i = .bscale g d a b sz →
      let chosen := blockScale ((va.zipIdx.filter fun v => u.active.getLsbD v.2).map Prod.fst) (quantL (u.xop b))
      let e := if sz = 1 then max chosen (u.prevScale d) else chosen
      let ev := es.filter fun v => u.active.getLsbD v.lane.val
      (∀ r, d = .xdest r → exec i s = .next (u.result (some 3) (xWrite u r (BitVec.ofInt 64 e)) (firstConditions ev))) ∧
      (destOk d u = true →
        exec i s = vresult 3 d u.active (List.replicate 32 (BitVec.ofInt 32 e, noFlags)) ev u ∧ ∃ t, exec i s = .next t))

/-- 07 R221 R222 R236 R237: VMASK and VPOPC in each of their forms, MMR, and MWAKE in each power state. -/
def Obligations.MaskAndMatrixResults : Prop :=
  ∀ (g : Fin 8) (s : State) (i : Instr), slotPasses i s = true →
    let t := staleReads s i
    (∀ (k m n : Fin 8) sz, i = .vmask g (.mask k) (.mask m) (.mask n) sz →
      let v := if sz = 1 then t.core.r.vm.get m ||| t.core.r.vm.get n else t.core.r.vm.get m &&& t.core.r.vm.get n
      exec i s = .next (t.result (some 2) (.vm k v 0xFFFFFFFF) [])) ∧
    (∀ (k : Fin 8) r b sz, i = .vmask g (.mask k) (.xreg r) b sz →
      exec i s = .next (t.result (some 2) (.vm k ((t.x r).setWidth 32) 0xFFFFFFFF) [])) ∧
    (∀ (d : Fin 64) (m : Fin 8) b sz, i = .vmask g (.xdest d) (.mask m) b sz →
      exec i s = .next (t.result (some 2) (xWrite t d ((t.core.r.vm.get m).setWidth 64)) [])) ∧
    (∀ (k : Fin 8) a b sz va es u, i = .vmask g (.mask k) a b sz → (∀ m, a ≠ .mask m) → (∀ r, a ≠ .xreg r) →
      vsource .int a t = .ok (va, es) u →
      exec i s = vresult 2 (.mask k) 0xFFFFFFFF (va.map fun v => (v, noFlags)) es u ∧ ∃ t, exec i s = .next t) ∧
    (∀ d a b sz va es u, i = .vmask g d a b sz → (∀ k, d ≠ .mask k) → vsource .int a t = .ok (va, es) u → destOk d u = true →
      exec i s = vresult 2 d 0xFFFFFFFF (va.map fun v => (if v = 0 then 0 else 0xFFFFFFFF, noFlags)) es u ∧ ∃ t, exec i s = .next t) ∧
    (∀ (d : Fin 64) (m : Fin 8), i = .vpopc g (.xdest d) (.mask m) →
      exec i s = .next (t.result (some 3) (xWrite t d (BitVec.ofNat 64 (ones (t.core.r.vm.get m)))) [])) ∧
    (∀ d a va es u, i = .vpopc g d a → vsource .int a t = .ok (va, es) u → destOk d u = true →
      exec i s = vresult 3 d u.active (va.map fun v => (BitVec.ofNat 32 (ones v), noFlags)) es u ∧ ∃ t, exec i s = .next t) ∧
    (∀ m a b sz va vb u w, i = .mmr g m a b sz → vsource (if sz = 0 then .f32 else .int) a t = .ok va u →
      vsource (if sz = 0 then .f32 else .int) b u = .ok vb w →
      let es := mmrElems sz w.rm w.ftz (w.core.r.m.get m) va.1 vb.1
      exec i s = .next (w.result (some 4) (.mreg m (regOf (es.map Prod.fst)))
        (va.2 ++ vb.2 ++ es.zipIdx.flatMap fun e => laneEvent w (e.2 / 32) e.1.2))) ∧
    (∀ m, i = .mwake g m →
      ((t.core.r.m.get m).power = .on → exec i s = .next (t.result (some 1) (.wake m) [])) ∧
      ((t.core.r.m.get m).power = .drowsy → exec i s = .next ((startWake [m] t).result (some 1) (.wake m) [])) ∧
      ((t.core.r.m.get m).power = .gated → exec i s = .next (t.result (some 1) (.mreg m ⟨[], false, .on⟩) [])))

/-- 01 R24 R25 R30, 02 R60, 04 R140, 12 R381: an E-slot operation that finds a place exchanges the shapes its mask names,
captures its operands and enters its queue, uncommitted. -/
def Obligations.CommandsEnter : Prop :=
  ∀ (i : Instr) (s : State), slotPasses i s = true → engineCode i < 7 → noPlace i (staleReads s i) = false →
    let u := swapShapes (swapOf i).val (staleReads s i)
    let v := match i with
      | .logmark _ _ p code _ => markEntry p code u
      | _ => u
    exec i s = .next (enqueue (newCmd i v) v) ∧ (newCmd i v).committed = false ∧ (newCmd i v).running = false ∧
    (enqueue (newCmd i v) v).core.eng.nextSeq = v.core.eng.nextSeq + 1

/-- 02 R44 R73 R75, 04 R134, 05 R158 R182 R187, 13 R421, 14 R423: the events of the issue: landings, the closing of a window, the forced
quiescent point, the back edge of a loop, WATCHDOG, TIMER, and the end of a blocking wait. -/
def Obligations.IssueEvents : Prop :=
  ∀ (s : State),
    exec .resultLanding s = .next (landUpTo s.core.beat s) ∧
    (∀ k, exec (.interlockedResultArrival k) s = .next (landInterlocked k s)) ∧
    (s.core.closing = true → s.core.post = none → exec .windowClose s = .next (quiesce s)) ∧
    (∀ b t, openNext s = some (b, t) → forcedDue t b = true → exec .forcedQuiescentPoint s = .next (pointBefore true s)) ∧
    (∀ t u, s.core.iss.active = true → s.core.iss.target = none →
      stepLoops s.core.iss.pc (activeLoops s.core.r.sr.lact) s = (some t, u) →
      exec .loopEndStep s = .next (u.modR fun r => { r with pc := t })) ∧
    (s.core.wdcnt = s.core.sup.wdlimit → exec .watchdog s = .next (s.pendEvent Cause.watchdog 0)) ∧
    (timerDue s.core s.clock = true →
      (isFirmware s.core.id = true → exec .timer s = .next (s.fwEvent (dieOf s.core.id) 5)) ∧
      (isFirmware s.core.id = false → exec .timer s = .next (s.pendEvent Cause.timer 0))) ∧
    (∀ w, 256 ≤ s.core.waitClocks → s.core.record.isEmpty = false → pendingWait s = some w → enginesAtStop s = true →
      exec .waitConversion s = .next (convertWait w s)) ∧
    (s.core.waitClocks ≠ 0 → waitOver s = true →
      exec .waitSatisfied s = .next { s with core := { s.core with waitClocks := 0 } })

/-- 04 R122, 07 R222 R223, 14 R435: a shootdown discards the entries it names once no access that used them is held, a DROWSY register
wakes, and PSWAP_SCRATCHPAD_RESTORE copies the next core's scratchpad back. -/
def Obligations.UnitEvents : Prop :=
  ∀ (s : State),
    ((s.core.shoot.any fun x => shootWaits s.core.partOf x.1 x.2 s) = true → exec .tlbShootdownComplete s = .next s) ∧
    ((s.core.shoot.any fun x => shootWaits s.core.partOf x.1 x.2 s) = false → ∃ u, u = s.core.shoot.foldl (fun s x => discardTlb s.core.partOf x.1 x.2 s) s ∧
      exec .tlbShootdownComplete s = .next { u with core := { u.core with shoot := [] } }) ∧
    (∀ m, exec (.drowsyWakeComplete m) s = .next (wakeUp m s)) ∧
    (∀ p c k rest g w, (List.finRange 8).find? (fun p => !(s.part p.val).restoring.isEmpty) = some p →
      (s.part p.val).restoring = (c, k) :: rest → s.cfg p.val = some g →
      ((swapCores g).find? fun x => x.1 == c) = some (c, w) →
      exec .pswapScratchpadRestore s = .next ((swapScratch p w c false s).modPart p.val fun q => { q with restoring := rest }))

/-- 01 R24 R27 R33 R35 R36, 04 R141 to R144, 14 R427: a command starts when nothing holds it, completes when no work is left,
stops where a stop is asked for; ETREL releases its tile, QFENCE and ESIGNAL wait for the commands before them. -/
def Obligations.CommandEvents : Prop :=
  ∀ (q : Fin 6) (k : Nat) (s : State) (c : Cmd),
    (∀ t v, (s.head q.val).isSome = true → startable q.val ((s.head q.val).getD c) s = true →
      let u := refreshBoxes s
      asStarted q.val ((u.head q.val).getD c) u = c → u.core.eng.hazard c = false → u.core.eng.fenced q.val c = false →
      tileFault u c = none → u.core.hold q.val = 0 →
      let d := describeCmd q.val c u
      d.core.eng.disabled.getLsbD (q.val + 1) = false → startCmd q.val c d = .ok t v →
      let r := ((if c.started then t else t.modTiles (onTiles Tile.start c.tiles)).modHead q.val fun c =>
        { c with running := true, started := true }).modWork q.val fun w => { w with errors := c.errors }
      exec (.commandStart q) s = .next (if q.val = 4 then takeHeld r else r)) ∧
    (s.engineReady q.val = some c → q.val < 5 → (s.work q.val).open_ = false → cmdDone q.val c s = true →
      exec (.commandComplete q) s =
        .next (if q.val = 4 then endExch c (s.work 4).prm (completeCmd 4 s) else completeCmd q.val s)) ∧
    ((s.runningCmd q.val).isSome = true → (s.work q.val).stopReq ≠ 0 → (s.work q.val).open_ = false →
      exec (.engineStop q) s = .next (endHead q.val s)) ∧
    (∀ g e t m, s.head q.val = some c → c.instr = .etrel g e t m → c.committed = true → c.started = false → c.faulted = false →
      (s.core.ttPend.any fun ch => ch.tile == t) = false → s.core.eng.fenced q.val c = false →
      let v := s.core.tiles.get t
      v.size ≠ 0 → (v.state = .ready ∨ v.state = .draining) → (5 ≤ v.owner.toNat ∨ v.owner.toNat = q.val) →
      exec (.etrelAtHead q) s = .next ((s.modTiles fun w => w.set t v.release).dropHead q.val)) ∧
    (s.core.eng.signals[k]? = some c → isQfence c.instr = true → c.committed = true → earlierDone c s = true →
      exec (.qfenceRelease k) s = .next (removeSignal c s)) ∧
    (∀ add scope r u l w, s.core.eng.signals[k]? = some c → signalForm c.instr = some (add, scope) → c.committed = true →
      earlierDone c s = true → (s.core.eng.faults.toList.getD 5 none).isSome = false → pregOf c.instr ≠ 0 →
      let ag := engineAgent s scope false
      readDirect ag c.preg 16 s (unit := 6) = .ok r u →
      let va := fw (bytesOf r) 0
      va.toNat % 8 = 0 → locate ag (if add then .atomic else .write) true va (consumePieces r u) = .ok l w →
      (add = true → atomicScopeBad scope va l.far = false ∧ w.poisonAt l.key = false) →
      (scope ≠ 4 ∨ isHost l.key = false) →
      let v := if add then BitVec.ofNat 64 (w.peekNat l.key 8) + fw (bytesOf r) 8 else fw (bytesOf r) 8
      ∀ x, performRun ag none l.key (b8 v) (if scope = 0 then w else w.releaseL1) = (true, x) →
        exec (.esignalPerform k) s = .next (removeSignal c (if l.far then x.countFar (dieOf ag.core) ag.part va 1 else x)))

/-- 01 R37, 08 R268 to R270: a sequencer without phases asks for the first of its next unit, into the tile of the pair that it
consumes next; the oldest phase in flight is filled with what it reads, or is struck by an uncorrectable error; a row of a row
operation is read once the row before it is written (07 R241). -/
def Obligations.PhaseEvents : Prop :=
  ∀ (s : State) (c : Cmd),
    (∀ (q : Fin 6) (pair unit t0 t1 : Nat), s.engineReady q.val = some c → (s.work q.val).phases = [] →
      let b := (s.work q.val).prm
      let t : Fin 64 := Fin.ofNat 64 (if s.phaseBit q.val pair % 2 = 0 then t0 else t1)
      (s.core.tiles.get t).state = .empty →
      (q.val = 0 ∧ isGemm c.instr = true ∧ pair = 0 ∧ unit = (dimsOf c b).unit (posAt s) ∧ unit < (dimsOf c b).total ∧
        t0 = field b 2 1 ∧ t1 = field b 3 1) ∨
      (q.val = 0 ∧ isGemm c.instr = false ∧ pair = 0 ∧ s.mark 0 0 < (attnOf c b).nb ∧ s.mark 0 4 ≠ 0 ∧
        ((s.work 0).stopReq = 0 ∨ (s.work 0).mid = true) ∧
        candidates c (attnOf c b) (s.mark 0 2) s ≠ [] ∧ unit = attnUnit (attnOf c b) (s.mark 0 0) (s.mark 0 1) 0 ∧
        t0 = field b 2 1 ∧ t1 = field b 3 1) ∨
      (q.val = 1 ∧ (scoutOp c.instr).array = true ∧ scoutOver c b (scoutPos s) = false ∧ (s.work 1).stopReq = 0 ∧
        (s.work 1).deferred = none ∧ s.mark 1 4 ≠ 0 ∧ (scoutPos s).sweep ≠ 2 ∧ needed c (scoutPos s).t s ≠ [] ∧ pair = 0 ∧ unit = scoutUnit c b (scoutPos s) 0 ∧
        t0 = field b 2 1 ∧ t1 = field b 3 1) ∨
      (q.val = 3 ∧ vmacroReady s = some c ∧ pair = 0 ∧ unit = vmacroUnit c s ∧ (isSort c.instr = true ∨ unit < (s.prog 3 8).toNat) ∧
        t0 = field b 1 1 ∧ t1 = field b 2 1) →
      exec (.phaseFetch q) s = .next (phaseBegun q.val pair unit t s)) ∧
    (∀ (q : Fin 6) ph m u, q.val = 0 ∨ (q.val = 1 ∧ (s.work 1).deferred = none) ∨ (q.val = 3 ∧ ph.unit = vmacroUnit c s) →
      s.engineReady q.val = some c → s.fetching q.val = some ph →
      phaseRead q.val c ph s = .ok m u →
      exec (.phaseFetchDone q none) s = .next (finishPhase q.val ph m u) ∧
      ∀ e x, m[e.request]? = some x → exec (.phaseFetchDone q (some e)) s = .next (strikePhase q.val c ph (readCause x.2 e.l2) x.2.va u))

/-- 09 R285 to R287 R293 to R296 R303, 08 R270: a tile step adds its groups to the bank, a key tile updates the row state, and a
retirement writes a complete tile or a chunk and moves the position; an error strikes a fetched phase's tile or the bank. -/
def Obligations.MatrixEvents : Prop :=
  ∀ (s : State) (c : Cmd), s.engineReady 0 = some c →
    let w := s.work 0
    let d := dimsOf c w.prm
    let p := posAt s
    let a := attnOf c w.prm
    let ag := attnAgent s w.prm 0
    let poisons := fun (es : List EElem) (f : State → State) (s : State) => f (if es.any EElem.poison then s.consume 1 else s)
    let miss := fun (k : Nat) (s : State) => (s.addCounts 0 ⟨0, 0, 0, 0, k⟩).setMark 0 5 (s.mark 0 5 + k)
    let goesOn := w.stopReq = 0 ∨ w.mid = true
    (exec (.matrixTileStep (some 0)) s = .next (strikeBank c s) ∧
      ∀ k, exec (.matrixTileStep (some (k + 1))) s = .next (strikeTile 0 k c s)) ∧
    (∀ pa pb u, isGemm c.instr = true → p.b < d.nb → p.ks < d.kt → goesOn → atChunk s w.prm p.ks = false →
      s.phaseOf 0 0 (d.unit p) = some pa → s.phaseOf 0 1 (d.unit p) = some pb → loadBank c w.prm d p s = .ok () u →
      exec (.matrixTileStep none) s = .next (stepBank c pa pb u)) ∧
    (∀ t, isGemm c.instr = true → w.mid = true →
      (let es := bankElems w (outVa c w.prm d p) (d.elems p)
       d.kt ≤ p.ks → writesElems 0 c (matrixAgent s w.prm) es (poisons es (retireTo (d.after p) false true)) s t →
        exec .matrixRetirement s = .next t) ∧
      (let es := bankElems w (areaVa w.prm) (d.elems p)
       p.ks < d.kt → atChunk s w.prm p.ks = true → writesElems 0 c (matrixAgent s w.prm) es (poisons es (retireTo p true false)) s t →
        exec .matrixRetirement s = .next t)) ∧
    (∀ t pq pk pv r, isGemm c.instr = false → s.mark 0 4 ≠ 0 → goesOn → attnAtChunk a s = false →
      candidates c a (s.mark 0 2) s = t :: r →
      s.phaseOf 0 0 (attnUnit a (s.mark 0 0) (s.mark 0 1) 0) = some pq → s.phaseOf 0 1 (attnUnit a (s.mark 0 0) (s.mark 0 1) t) = some pk →
      s.phaseOf 0 2 (attnUnit a (s.mark 0 0) (s.mark 0 1) t) = some pv →
      exec .mattnKeyTileVisit s = .next (visit c t pq pk pv s)) ∧
    (∀ t, isGemm c.instr = false → s.mark 0 4 ≠ 0 → s.mark 0 0 < a.nb → candidates c a (s.mark 0 2) s = [] →
      let n := s.mark 0 0
      let q := s.mark 0 1
      let o := attnOut c w.prm a n q s
      let m := missElems w.prm n q a.tk s
      let next : Pos := if q + 1 < a.tq then ⟨n, q + 1, 0, 0⟩ else ⟨n + 1, 0, 0, 0⟩
      writesElems 0 c ag (o ++ m.1) (poisons (o ++ m.1) fun s =>
        retireTo next false false (miss m.2 (swapPhase 0 0 (attnUnit a n q 0) s))) s t →
      exec .matrixRetirement s = .next t) ∧
    (∀ t, isGemm c.instr = false → s.mark 0 4 ≠ 0 → s.mark 0 0 < a.nb → candidates c a (s.mark 0 2) s ≠ [] → attnAtChunk a s = true →
      let n := s.mark 0 0
      let q := s.mark 0 1
      let k := s.mark 0 2
      let m := missElems w.prm n q k s
      let es := attnArea w.prm a q s ++ m.1
      writesElems 0 c ag es (poisons es fun s => retireTo ⟨n, q, k, 0⟩ true false (miss m.2 s)) s t →
      exec .matrixRetirement s = .next t)

/-- 10 R314 R315 R318 R319 R325, 08 R270: each unit of the scout engine writes its elements and moves its position; sweep 1 stores
its row states at its end, and before that where a stop or a fault waits for it; an error in the workspace begins the pass again.
That a stop, and a fault met in sweep 1, wait for the step that stores the row states is the model's reading (logs 35, 113); what the block of
a complete SCOUT or SSCORE shows is its choice (log 115). -/
def Obligations.ScoutEvents : Prop :=
  ∀ (s : State) (c : Cmd), scoutReady s = some c →
    let b := (s.work 1).prm
    let p := scoutPos s
    let tk := scoutTk c b
    let ag := scoutAgent s b false
    let rows := fun (bad : Bool) (s : State) => setScoutPos { p with q := p.q + 1 } (if bad then s.consume 1 else s)
    let stored := fun (s : State) => s.modWork 1 fun w => { w with mid := false }
    let waits := (s.work 1).mid = true ∧ ((s.work 1).stopReq ≠ 0 ∨ (s.work 1).deferred.isSome = true)
    (scoutOp c.instr = .scout → p.sweep = 1 → s.mark 1 4 ≠ 0 →
      (∀ x, waits → writesElems 1 c ag (rowElems c b p s) (fun s => match ((stored s).work 1).deferred with
          | some f => faultNow 1 f.1 f.2 (stored s)
          | none => stored s) s x → exec (.scoutSweep1Tile none) s = .next x) ∧
      (∀ t r pq pk x, ¬waits → needed c p.t s = t :: r → s.phaseOf 1 0 (scoutUnit c b p 0) = some pq → s.phaseOf 1 1 (scoutUnit c b p t) = some pk →
        writesElems 1 c ag (sweepOut c t pq pk s).1 (sweepOut c t pq pk s).2 s x → exec (.scoutSweep1Tile none) s = .next x) ∧
      (∀ x, ¬waits → needed c p.t s = [] → s.filling 1 0 = false →
        writesElems 1 c ag ((List.range (tileRows (c.shape 0) p.q)).map fun i =>
            (⟨wsRow b i, b8 (sget (s.work 1).rows freshMax i), none, false⟩ : EElem))
          (fun s => setScoutPos { p with sweep := 2, t := 0 } (countSkips tk (swapPhase 1 0 (scoutUnit c b p 0) (stored s)))) s x →
        exec (.scoutSweep1Tile none) s = .next x) ∧
      ∀ k, (s.work 1).deferred = none → exec (.scoutSweep1Tile (some (k + 1))) s = .next (strikeTile 1 k c s)) ∧
    (scoutOp c.instr = .scout → p.sweep = 1 → s.mark 1 4 = 0 → p.t ≠ 0 →
      exec (.scoutSweep1Tile (some 0)) s = .next (workspaceError c b p s)) ∧
    (scoutOp c.instr = .scout → p.sweep = 2 → s.mark 1 4 ≠ 0 → exec (.scoutSweep2 true) s = .next (workspaceError c b p s)) ∧
    (∀ m u prev v x, scoutOp c.instr = .scout → p.sweep = 2 → s.mark 1 4 ≠ 0 →
      readBlocks ag 2 c.pc (fun _ => 0) ((List.range (wsBytes tk / 64)).map fun k => fw b 72 + BitVec.ofNat 64 (64 * k)) s = .ok m u →
      let rd := fun o => let a := fw b 72 + BitVec.ofNat 64 o; ofBytes ((blockAt m a).at a 4)
      (if p.b = 0 then Act.ok [] u else (readMaskRow ag 2 (fw b 48) p.q tk u).map Prod.fst) = .ok prev v →
      let ws := (bitsWords tk (sweep2Bit c b p u rd)).zipIdx.map fun w => Nat.lor w.1 (prev.getD w.2 0)
      let last := decide (p.b + 1 = field b 92 4)
      writesElems 1 c (scoutAgent v (v.work 1).prm false) (maskElems (fw b 48) p.q tk ws []) (fun s =>
        let s := if last then s.setProg 1 5 (s.prog 1 5 + BitVec.ofNat 64 (popWords ws)) else s
        let s := (s.setMark 1 4 0).modWork 1 fun w => { w with errors := 0, rows := [], poison := false }
        setScoutPos (if !last then ⟨p.q, p.b + 1, 1, 0⟩ else if p.q + 1 < scoutTq c b then ⟨p.q + 1, 0, 1, 0⟩ else ⟨p.q, p.b, 2, tk⟩) s) v x →
      exec (.scoutSweep2 false) s = .next x) ∧
    (∀ pq pk x, scoutOp c.instr = .sscore → s.mark 1 4 ≠ 0 → (needed c p.t s).contains p.t = true →
      s.phaseOf 1 0 (scoutUnit c b p 0) = some pq → s.phaseOf 1 1 (scoutUnit c b p p.t) = some pk →
      writesElems 1 c ag (scoreOut c b p (some (pq, pk)) s).1 (scoreOut c b p (some (pq, pk)) s).2 s x →
      exec (.sscoreTile none) s = .next x) ∧
    (∀ x, scoutOp c.instr = .sscore → s.mark 1 4 ≠ 0 → (needed c p.t s).contains p.t = false →
      (p.t + 1 < tk ∨ s.filling 1 0 = false) →
      writesElems 1 c ag (scoreOut c b p none s).1 (scoreOut c b p none s).2 s x → exec (.sscoreTile none) s = .next x) ∧
    (∀ k, scoutOp c.instr = .sscore → s.mark 1 4 ≠ 0 → exec (.sscoreTile (some k)) s = .next (strikeTile 1 k c s)) ∧
    (∀ x, scoutOp c.instr = .swin →
      writesElems 1 c ag (maskElems (fw b 48) p.q tk (bitsWords tk ((scoutExcl c b).anyPair p.q)) []) (rows false) s x →
      exec .maskRow s = .next x) ∧
    (∀ y z u v x, scoutOp c.instr = .smask → readMask ag 2 (fw b 56) p.q tk s = .ok y u → readMask ag 2 (fw b 64) p.q tk u = .ok z v →
      let bad := (y.2.zip z.2).map fun z => z.1 || z.2
      writesElems 1 c (scoutAgent v (v.work 1).prm false)
        (maskElems (fw b 48) p.q tk ((y.1.zip z.1).map fun w => maskOp (field b 90 1) w.1 w.2) bad) (rows (bad.contains true)) v x →
      exec .maskRow s = .next x)

/-- 07 R242 R243, 08 R270: a run or segment of VSORT and a row of a row operation write their outputs and move the position. -/
def Obligations.VmacroEvents : Prop :=
  ∀ (s : State) (c : Cmd) (ph : Phase) (x : State), vmacroReady s = some c →
    let ag := vmacroAgent s (s.work 3).prm
    (isSort c.instr = true → s.phaseOf 3 0 (s.mark 3 0) = some ph →
      ∀ run u, runBlocks c (s.work 3).prm (sortPos s) s = .ok run u →
      (sortPoisoned ph run u = false → writesElems 3 c (vmacroAgent u (u.work 3).prm) (sortOut c ph u).1 (sortOut c ph u).2 u x →
        exec (.vsortRunSegment none) s = .next x) ∧
      (sortPoisoned ph run u = true → exec (.vsortRunSegment none) s = .next (faultHead 3 Cause.poisonTrap 0 (u.consume 1)))) ∧
    (isSort c.instr = false → s.phaseOf 3 0 (s.prog 3 3).toNat = some ph → writesElems 3 c ag (rowOut c ph s).1 (rowOut c ph s).2 s x →
      exec (.rowOperation none) s = .next x) ∧
    (∀ k, (isSort c.instr = true → exec (.vsortRunSegment (some k)) s = .next (strikeTile 3 k c s)) ∧
      (isSort c.instr = false → exec (.rowOperation (some k)) s = .next (strikeTile 3 k c s)))

/-- 08 R252 to R262 R265, 04 R122: a chunk of each copy command whose places are found and whose writes can be performed is
performed, and CHUNK advances; CMIGRATE takes a page through its five steps: WB set, the page copied, the leaf switched, WB
cleared, and CHUNK advanced, each after the shootdown before it is complete. These five steps, and COPY_CHUNK taking the step of
CMIGRATE_PAGE, are the model's reading (log 64), as are the free tag of CFLAT (log 32) and indices that cannot be read (log 118). -/
def Obligations.CopyChunks : Prop :=
  ∀ (s : State) (c : Cmd) (k : Nat) (ue : Option ReadError) (t : State), copyReady s = some (c, k) →
    let b := (s.work 2).prm
    let A := c.shape 0
    let C := c.shape 2
    let ag := cmdAgent s (scopeCode (field b 0 1)) (tierOf b)
    let move := fun (ue : Option ReadError) (es : Nat) (xs : List MoveElem) (u : State) =>
      chunkDone c (cmdAgent u (scopeCode (field b 0 1)) (tierOf b)) (fun _ => A.farTag 0) ue (xs.filterMap MoveElem.src)
        (xs.map MoveElem.dst) (moveBuild c b es xs) u t
    let lands := fun (ag : Agent) (ws : List BWrite) (adv : State → State) (v t : State) => commits 2 c ag ws adv adv v t
    let planar := ∃ g sa sc sw p r, c.instr = .cplane g sa sc sw p r ∨ c.instr = .cflat g sa sc sw p r
    (∀ xs, chunkElems c b k = some xs → move ue C.ebytes xs s → exec (.copyChunk ue) s = .next t) ∧
    (∀ sc ix u, indexedForm c.instr = some sc →
      let X := if sc then C else A
      let O := if sc then A else C
      let ns := chunkRange k O.count O.ebytes
      let ks := (ns.map fun n => n / X.rowSize).dedup
      readIndices c b X.outer ue ks s = .ok ix u →
      move (laterError (indexBlocks c ks).length ue) O.ebytes (indexedMoves c sc ix ns) u →
      exec (.copyChunk ue) s = .next t) ∧
    (planar → field b 8 1 = 0 →
      let ts := subRange A C k
      chunkDone c ag (fun _ => A.farTag 0) ue (ts.flatMap (subAddrs A))
        (ts.flatMap fun t => (List.range (field b 10 1)).map fun j => planeAddr C.base (field b 10 1) (subTiles C.rows C.cols) t j)
        (planeBuild c b ts) s t → exec (.copyChunk ue) s = .next t) ∧
    (∀ tops u, planar → field b 8 1 ≠ 0 →
      let nb := subTiles A.rows A.cols
      let ts := subRange C A k
      let ask := if isFlat c.instr then 0 else field b 11 1
      locateBlocks ag .read (ts.map fun t => A.base + BitVec.ofNat 64 (64 * t)) s = .ok tops u →
      let ps := (ts.zip tops).map fun x => (x.1, topPlanes A x.2 u)
      (ps.findSome? fun x => planarSpan u A (planesRead ask x.2)) = none →
      chunkDone c ag (planarFarTag A nb) ue (ps.flatMap fun x => subBlocks A nb x.2 ask x.1) (ts.flatMap (subAddrs C))
        (unplaneBuild c b ask ps (if isFlat c.instr then BitVec.ofNat 24 u.fresh.1.toNat else mkTag (field b 13 1) 1 0 0 false))
        (if isFlat c.instr then u.fresh.2 else u) t → exec (.copyChunk ue) s = .next t) ∧
    (∀ g sw p r u es v, c.instr = .cpagein g sw p r →
      let src := fw b 8 + BitVec.ofNat 64 (65536 * k)
      let dst := fw b 16 + BitVec.ofNat 64 (65536 * k)
      let ag := cmdAgent s (scopeCode (field b 0 1)) 0
      let side := if field b 32 8 = 0 then [] else (List.range 1024).map fun j => fw b 32 + BitVec.ofNat 64 (4096 * k + 4 * j)
      let later := laterError (sideBlocks side).length ue
      pageinDest ag dst s = .ok () u → readSide ag c ue side u = .ok es v →
      (later = none ∨ ∀ l w, locate ag .read false src v = .ok l w → l.far = false) →
      chunkDone c ag (fun _ => 0) later (pageBlocks src) (pageBlocks dst) (pageBuild b src dst es) v t →
      exec (.copyChunk ue) s = .next t) ∧
    (∀ g sw p r es u rs v xs, c.instr = .ctags g sw p r → field b 8 1 ≠ 0 →
      let js := tagRange b k
      readSide ag c ue (js.map fun j => fw b 32 + BitVec.ofNat 64 (4 * j)) s = .ok es u →
      locateBlocks ag .write (js.map fun j => fw b 16 + BitVec.ofNat 64 (64 * j)) u = .ok rs v →
      (rs.find? fun r => r.2.far) = none → (es.mapM fun e => sideEntry e.1) = some xs →
      let ws := (rs.zip (xs.zip es)).map fun r => wholeBlock r.1 (v.peek r.1.2.key 64) r.2.1.1 (r.2.1.2 || r.2.2.2.1)
      lands ag ws (chunkMoves ⟨ws, zeroCounts, es.any fun e => e.2.1, false⟩ (v.prog 2 4)) v t → exec (.copyChunk ue) s = .next t) ∧
    (∀ g sw p r rs u ds v, c.instr = .ctags g sw p r → field b 8 1 = 0 →
      let js := tagRange b k
      locateBlocks ag .read (js.map fun j => fw b 16 + BitVec.ofNat 64 (64 * j)) s = .ok rs u →
      let w := rs.foldl (fun s r => if r.2.far then s else noteAccess s ag.core none ag.scope r.2.key false) u
      let hit := ue.bind fun e => (rs[e.request]?).map fun x => (e, x)
      let es := (js.zip rs).mapIdx fun i x =>
        (⟨fw b 32 + BitVec.ofNat 64 (4 * x.1), toBytes 4 (if x.2.2.far then 0 else (w.mdata x.2.2.key).toNat), none,
          hit.any fun h => h.1.request == i && h.1.again⟩ : EElem)
      locateElems ag es w = .ok ds v →
      let ws := ds.map fun d => writeElems (.fixed 0) d.1 d.2 v
      let x := match hit with
        | some h => sourceUe 3 h.2 h.1.l2 c v
        | none => v
      lands ag ws (chunkMoves ⟨ws, zeroCounts, es.any fun e => e.poison, false⟩ (x.prog 2 4)) x t → exec (.copyChunk ue) s = .next t) ∧
    (∀ g sw p r, c.instr = .cmigrate g sw p r →
      let va := fw b 16 + BitVec.ofNat 64 (65536 * k)
      let newFar := field b 8 1 == 1
      let frame := field b 24 5 + k
      let ag := cmdAgent s 3 0
      let old := sget (s.work 2).rows 0 0
      let at_ := (sget (s.work 2).rows 0 1).toNat
      let now := BitVec.ofNat 64 (s.peekNat at_ 8)
      let shot := fun (x : State) => discardTlb x.core.partOf 3 (some va.toNat) x
      let paged := fun (t : State) => exec (.copyChunk ue) s = .next t ∧ (ue = none → exec .cmigratePage s = .next t)
      (∀ leaf u x, s.mark 2 0 = 0 → migrateLeaf ag va s = .ok leaf u →
        (newFar = true ∨ (frame * 65536 + 65536 ≤ hbmTop ∧ u.ownsKey u.core.partOf.val (frame * 65536) = true)) →
        leafWB leaf.1 = false → performRun ag none leaf.2 (toBytes 8 (setBits leaf.1 5 1 1).toNat) u = (true, x) →
        paged ((migrateStep 1 (shot x)).modWork 2 fun w => { w with
          rows := [(0, leaf.1), (1, BitVec.ofNat 64 leaf.2)] })) ∧
      (s.mark 2 0 ≠ 0 → shootWaits s.core.partOf 3 (some va.toNat) s = true → paged s) ∧
      (s.mark 2 0 ≠ 0 → shootWaits s.core.partOf 3 (some va.toNat) s = false →
        (s.mark 2 0 = 1 →
          let ls := (List.range 1024).map fun j =>
            (va + BitVec.ofNat 64 (64 * j), (⟨leafKey 0 old va.toNat + 64 * j, leafFar old, old⟩ : Loc))
          let rd := takeStruck 3 ag c (fun _ => 0) ue ls s
          let struck := ue.any fun u => u.again && decide (u.request < 1024)
          commits 2 c ag (migrateWrites b va old frame newFar rd.1 rd.2) (fun s => s.setProg 2 4 (BitVec.ofNat 64 (k + 1)))
            (fun s => migrateStep 2 (if struck then s.consume 1 else s)) rd.2 t →
          paged t) ∧
        (∀ x, s.mark 2 0 = 2 → sameLeaf old now = true →
          performRun ag none at_ (toBytes 8 (migratedLeaf now frame newFar).toNat) s = (true, x) →
          paged (migrateStep 3 (shot x))) ∧
        (∀ x, s.mark 2 0 = 3 → performRun ag none at_ (toBytes 8 (setBits now 5 1 0).toNat) s = (true, x) →
          paged (migrateStep 4 (shot x))) ∧
        (4 ≤ s.mark 2 0 → paged ((migrateStep 0 s).setProg 2 4 (BitVec.ofNat 64 (k + 1))))))

/-- 11 R341 to R347, 12 R357: a step of a collective sends a staged message or reads, computes, writes and stages one; what the
messages do at a running command, at a complete one, at none, where they do not arrive, and when the bridge fabric loses them; a peer that stays
silent past TIMEOUT stops the command. A START held until a command takes it, DATA at a complete command and the staged messages kept by COMMID
and rank are the model's reading (log 72); the lowest free slot and the free header bytes are its choice (log 71). -/
def Obligations.ExchangeEvents : Prop :=
  ∀ (s : State) (c : Cmd) (m : Message),
    (∀ st, xReady s = some c → (collOf c (s.work 4).prm).next c (s.work 4).prm s = some (.send st) →
      s.core.replay = none →
      let b := (s.work 4).prm
      ((xAway b st.msg.dst = false ∨ bits s.core.log.mode 0 2 = 0) → exec (.exchangeStep none) s = .next (sentOut c b st.slot st.msg s)) ∧
      (∀ u, xAway b st.msg.dst = true → bits s.core.log.mode 0 2 ≠ 0 → logReady [xIrrev c st.msg] s = (none, u) →
        exec (.exchangeStep none) s = .next (sentOut c b st.slot st.msg
          ((logAppend u (xIrrev c st.msg)).modWork 4 fun w => { w with logWait := false })))) ∧
    (∀ a ls u o t, xReady s = some c →
      let b := (s.work 4).prm
      let k := collOf c b
      let ag := xAgent s b
      let lands := fun (ag : Agent) (ws : List BWrite) (adv : State → State) (v t : State) => commits 4 c ag ws adv adv v t
      k.next c b s = some a → (∀ st, a ≠ .send st) →
      let r := k.reads a
      locateBlocks ag .read (oneEach (((List.range r.2).map fun i => (c.shape 0).addrOf (r.1 + i)).map blockOf)) s = .ok ls u →
      let x := takeSources 5 (xAgent u b) c (fun _ => (c.shape 0).farTag 0) none ls u
      k.act c b x.1 a = some o →
      (∀ ds v, o.msg = none → locateElems (xAgent x.2 b) o.writes x.2 = .ok ds v →
        lands (xAgent x.2 b) (ds.map fun d => writeElems (k.rule b) d.1 d.2 v) (actDone b k a a.chunk o) v t →
        exec (.exchangeStep none) s = .next t) ∧
      (∀ ds v y slot st w, o.msg = some y → locateElems (xAgent x.2 b) o.writes x.2 = .ok ds v → freeSlot b v = some slot →
        let m := actMessage b k a.chunk y
        locateElems (xAgent x.2 b) (stageElems b slot (freeBytes 64 v).1 m) (freeBytes 64 v).2 = .ok st w →
        lands (xAgent x.2 b)
          (ds.map (fun d => writeElems (k.rule b) d.1 d.2 w) ++ st.map fun d => writeElems .inherit d.1 d.2 w)
          (fun s => beginWaits k b s (actDone b k a a.chunk o (modStaged (fun l => l ++ [⟨slot, true, m⟩]) s))) w t →
        exec (.exchangeStep none) s = .next t)) ∧
    (m.lost = false → arrive m s = none → ∀ i ∈ [Instr.startMsg m, .dataMsg m, .ackMsg m, .pausedMsg m], exec i s = .next s) ∧
    (∀ u, m.lost = false → arrive m s = some u →
     (u.exchangeOf m = none →
      exec (.startMsg m) s = .next (holdStarts [m] u) ∧
      (u.exchangeEnded m = none → exec (.dataMsg m) s = .next u) ∧
      (∀ x, u.exchangeEnded m = some x →
        exec (.dataMsg m) s = .next ((lateData x.2.1 x.2.2 m (u.focus x.1)).focus u.core.id)) ∧
      exec (.ackMsg m) s = .next { u with dev := { u.dev with xstage := u.dev.xstage.map fun x =>
        if x.1 = m.comm.toNat ∧ x.2.1 = m.dst then
          (x.1, x.2.1, x.2.2.filter fun z => !(z.msg.dst == m.src && z.msg.chunk == m.chunk && z.msg.seq == m.seq)) else x } } ∧
      exec (.pausedMsg m) s = .next { u with dev := { u.dev with xheld := u.dev.xheld.filter fun a =>
        !(a.comm == m.comm && a.seq == m.seq && a.src == m.src && a.dst == m.dst) } }) ∧
     (∀ k, u.exchangeOf m = some k →
      let v := u.focus k
      let now := fun (s : State) => s.modExch fun x => { x with since := sput x.since m.src s.clock }
      v.runningCmd 4 = some c →
      let b := (v.work 4).prm
      exec (.startMsg m) s = .next ((takeStart m v).focus u.core.id) ∧
      exec (.ackMsg m) s = .next ((beginWaits (collOf c b) b (now v) (acknowledge (opCode c.instr)
        (fun z => z.msg.dst == m.src && z.msg.chunk == m.chunk && z.msg.seq == m.seq) (now v))).focus u.core.id) ∧
      exec (.pausedMsg m) s = .next ((v.modExch fun x => { x with
        started := x.started.filter fun t => t.src != m.src, pausedBy := addOnce x.pausedBy m.src,
        since := sput x.since m.src v.clock }).focus u.core.id) ∧
      (v.core.replay = none → ((collOf c b).receives b m.chunk).contains m.step = true →
        (v.xDone m.chunk = true →
          exec (.dataMsg m) s = .next ((xSend b (xMessage (collOf c b).op b .ack m.src m.chunk m.step)
            ((now v).setProg 4 9 ((now v).prog 4 9 + 1))).focus u.core.id)) ∧
        (v.xDone m.chunk = false → v.core.eng.exch.consumed.contains (m.chunk, m.step) = true →
          exec (.dataMsg m) s = .next (((now v).setProg 4 9 ((now v).prog 4 9 + 1)).focus u.core.id)) ∧
        (v.xDone m.chunk = false → v.core.eng.exch.consumed.contains (m.chunk, m.step) = false →
          let take := fun (s : State) => s.modExch fun x => { x with
            consumed := x.consumed ++ [(m.chunk, m.step)],
            partials := x.partials ++ [⟨m.chunk, m.step, m.payload, m.metas⟩] }
          (v.logFull = false → exec (.dataMsg m) s = .next ((take (now v)).focus u.core.id)) ∧
          (∀ w, v.logFull = true → logReady [xDelivery c m] (now v) = (none, w) →
            exec (.dataMsg m) s = .next ((take (logAppend w (xDelivery c m))).focus u.core.id)))))) ∧
    (m.lost = true → let sent := { m with lost := false }
      ∀ i ∈ [Instr.startMsg m, .dataMsg m, .ackMsg m, .pausedMsg m],
        exec i s = .next (if s.dev.fabric.contains sent then loseMessage sent (s.dropFabric sent) else s)) ∧
    (∀ peer, exchangeLate peer s = true → exec (.exchangeTimeout peer) s = .next (xStop Cause.exchangeTimeout peer 0xFF s))

/-- 15 R448 R449, 11 R344: the fields of a flit, and the retries, acknowledgements, errors and training of a link port. -/
def Obligations.LinkEvents : Prop :=
  ∀ (port : Fin 18) (seq : Fin 4096) (f : List Byte) (a : FlitAck) (s : State),
    let p := s.port port.val
    (∀ type cred : Nat, type < 4 → cred < 256 → f.length ≤ 248 →
      let x := flit type seq cred f
      x.length = 256 ∧ flitSeq x = seq ∧ flitType x = type ∧ flitCred x = cred ∧ (x.drop 4).take f.length = f ∧ flitGood x = true) ∧
    (p.state = 2 → exec (.linkUe port) s = .next (portDown port.val s)) ∧
    (p.state = 2 → (p.replay.any fun f => flitSeq f == seq) = true →
      let n := sget p.retries 0 seq.val + 1
      exec (.linkRetryRequest port seq) s = .next
        (if n ≤ 8 then
          let u := s.modPort port.val fun p => { p with retries := sset p.retries 0 seq.val n }
          { u with dev := { u.dev with out := u.dev.out ++ [.flits port.val (p.replay.dropWhile fun f => flitSeq f != seq)] } }
        else portDown port.val s)) ∧
    (p.state = 2 →
      let gone := p.acked a.seq
      exec (.linkAcknowledgement port a) s = .next (giveCredits port.val a.cred.val (s.modPort port.val fun p => { p with
        replay := p.replay.drop gone.length, retries := p.retries.filter fun r => !gone.any fun f => (flitSeq f).val == r.1 }))) ∧
    (∀ old new x, p.replay = old ++ x :: new → (old.any fun f => flitSeq f == a.seq) = false → flitSeq x = a.seq →
      p.acked a.seq = old ++ [x]) ∧
    (p.state = 2 →
      (flitGood f = false → exec (.flitCrcError port f) s =
        .next { s with dev := { s.dev with out := s.dev.out ++ [.control port.val true (flitSeq f) 0] } }) ∧
      (flitGood f = true → exec (.flitCrcError port f) s = .next s)) ∧
    (p.state = 0 →
      (s.firmwareRuns (portDie port.val) = true → exec (.linkTrainingStart port) s = .next (setPort port.val 1 s)) ∧
      (s.firmwareRuns (portDie port.val) = false → exec (.linkTrainingStart port) s = .next s)) ∧
    (p.state = 1 →
      let u := setPort port.val 2 s
      exec (.linkTrainingComplete port) s =
        .next { u.modPort port.val fun p => { p with credits := Config.freeNat u.free } with free := u.free + 1 } ∧
      exec (.linkTrainingTimeout port) s = .next (setPort port.val 0 s))

/-- 04 R118 R119 R125 R126 R128, 14 R436 R458: a reply of 1 makes an access be tried again and any other delivers its fault; faults
that found no room are posted; stalled writes, notifications and areas that were down go on. UNIT 7 for the L slot and 0 otherwise in the
entry of a strand's fault is the model's choice (log 17). -/
def Obligations.FaultEvents : Prop :=
  ∀ (s : State) (w : Waiter) (f : PendingFault),
    (waiterPending w s = some f →
      let p := waiterPart w s
      (∀ i, f.ring = some i →
        ((replyOf p i s).1 = 1 → exec (.faultReplyPoll w) s = .next (waiterRetry w (replyOf p i s).2)) ∧
        (2 ≤ (replyOf p i s).1 → exec (.faultReplyPoll w) s = .next (waiterDeliver w f (replyOf p i s).2)))) ∧
    (∀ i u, f.ring = none →
      (s.core.fault = some f → postRing s s.core.partOf 1 false (tfEntry s f (if f.uslot = 3 then 7 else 0)) = (.done i, u) →
        exec (.tfringPostRetry .strand) s = .next { u with core := { u.core with fault := some { f with ring := some i } } }) ∧
      (∀ q, s.core.eng.faults.get q = some f → postRing s s.core.partOf 1 false (tfEntry s f (q.val + 1)) = (.done i, u) →
        exec (.tfringPostRetry (.engine q)) s =
          .next (u.modEng fun g => { g with faults := vset g.faults q.val (some { f with ring := some i }) })) ∧
      (∀ (p : Fin 8) (k : Fin 64) q, s.cq p k = some q → q.fault = some f → postRing s p 1 false (fetchEntry q f s.clock) = (.done i, u) →
        exec (.tfringPostRetry (.fetcher p k)) s =
          .next (u.modCq p k fun q => { q with fault := some { f with ring := some i } })) ∧
      (∀ (p : Fin 8) (pipe : Nat) (at_ : Word) k z, s.pipeline p pipe = some z → (z.misses.find? fun m => m.1 == at_) = some (at_, k, f) →
        postRing s p 1 false (unitEntry (unitId k 0) f s.clock) = (.done i, u) →
        exec (.tfringPostRetry (.pickup p pipe at_)) s = .next (u.modPipe p pipe fun x =>
          { x with misses := (x.misses.filter fun m => m.1 != at_) ++ [(at_, k, { f with ring := some i })] }))) ∧
    (s.core.closing = true → exec .writeBlockRetry s = .next (quiesce s)) ∧
    (s.core.closing = false →
      exec .writeBlockRetry s = .next { s with core := { s.core with iss := { s.core.iss with stalled := false } } }) ∧
    (∀ c k u, s.cfg s.core.partOf.val = some c → areaKey s s.core.partOf 4 (c.areas.getD 4 0) = (some k, u) →
      (u.part s.core.partOf.val).dringFull = true →
      u.peekNat k 8 - u.peekNat (k + 8) 8 < (2 ^ c.log2s.getD 4 0 - 64) / 8 →
      let v := u.modPart s.core.partOf.val fun q => { q with dringFull := false }
      exec .dirtyRingResume s = .next (if v.core.closing then quiesce v
        else { v with core := { v.core with iss := { v.core.iss with stalled := false } } })) ∧
    (∀ (p : Fin 8) (a : Fin 6) c, s.cfg p = some c → (s.part p).areaDown.getLsbD a = true →
      exec (.configAreaWalkRetry p a) s = .next (areaKey s p a (c.areas.getD a 0)).2) ∧
    (∀ (die : Fin 4) (idx : Fin 4096) e, sfind (s.die die).monitor idx = some e → e.crossed = true →
      let put := fun (v : MonEntry) (s : State) => s.modDie die fun d => { d with monitor := sput d.monitor idx v }
      (e.notified = true → exec (.tierNotify die idx) s = .next (put { e with crossed := false } s)) ∧
      (e.notified = false → exec (.tierNotify die idx) s = .next (put { e with notified := true, crossed := false }
        (postRing s e.part 2 true (b8 (BitVec.ofNat 64 (e.page.toNat / 65536 * 65536)) ++ toBytes 2 e.count.toNat ++
          [BitVec.ofNat 8 e.part, BitVec.ofNat 8 die] ++ toBytes 4 idx)).2)))

/-- 13 R390 to R401: the fetcher takes the next packet's line 0, and each packet that may start and whose accesses succeed has its
effect and leaves its queue; 2^20 packets without another kind in an indirect buffer are a WATCHDOG fault. -/
def Obligations.PacketEvents : Prop :=
  ∀ (p : Fin 8) (k : Fin 64) (s : State) (q : CmdQueue) (x : Packet) (bs : List Byte) (v : State),
    let u := enterHead p k s
    let ag := fetchAgent u p q
    let starts := fun ty => canStart u p k ty = some (q, x)
    (let w := flush p k (s.modCq p k CmdQueue.popped)
     w.cq p k = some q → q.enable = true → q.out = [] → q.fault = none → q.head = none → q.spins < 2 ^ 20 → w.serves p = true →
      (q.ibs ≠ [] ∨ (q.avail ≠ 0 ∧ q.avail ≤ 2 ^ (q.log2 - 6))) → fetchRead (fetchAgent w p q) q.next.1 64 w = .ok bs v →
      exec (.packetLine0Poll p k) s = .next (takeLine0 p k q bs v)) ∧
    (starts 0 → exec (.packetNop p k) s = .next (startAndEnd p k x u)) ∧
    (starts 2 → fetchRead ag (fw x.bytes 32) 8 u = .ok bs v →
      exec (.waitv p k) s = .next
        (if waitvMet x.bytes (fw bs 0) then completePacket p k x.order (startHead p k v) else startHead p k v)) ∧
    (s.cq p k = some q → startedOf q 2 = some x → q.fault = none →
      fetchRead (fetchAgent s p q) (fw x.bytes 32) 8 s = .ok bs v → waitvMet x.bytes (fw bs 0) = true →
      exec (.waitvSatisfied p k) s = .next (completePacket p k x.order v)) ∧
    (starts 3 →
      (field x.bytes 48 1 = 1 → fetchAdd ag (fw x.bytes 32) (fw x.bytes 40) u = .ok () v →
        exec (.signalPacket p k) s = .next (startAndEnd p k x v)) ∧
      (field x.bytes 48 1 ≠ 1 → fetchWrite ag (fw x.bytes 32) (b8 (fw x.bytes 40)) u = .ok () v →
        exec (.signalPacket p k) s = .next (startAndEnd p k x v))) ∧
    (starts 4 → q.ibs.length < 4 → exec (.ibcall p k) s = .next ((startAndEnd p k x u).modCq p k fun q =>
      { q with ibs := (fw x.bytes 32, field x.bytes 40 4, 0) :: q.ibs })) ∧
    (starts 4 → 4 ≤ q.ibs.length → exec (.ibcall p k) s = .next (queueFault p k Cause.ibDepth u)) ∧
    (starts 5 → q.ibs ≠ [] → exec (.ibjump p k) s = .next ((startAndEnd p k x u).modCq p k fun q =>
      { q with ibs := (fw x.bytes 32, field x.bytes 40 4, 0) :: q.ibs.drop 1 })) ∧
    (s.cq p k = some q → 2 ^ 20 ≤ q.spins → exec (.ibSpinWatchdog p k) s = .next (queueFault p k Cause.watchdog s)) ∧
    (starts 6 → exec (.packetFence p k) s = .next (endFence p k (startHead p k u))) ∧
    (starts 7 → q.capture = none → exec (.capstart p k) s = .next ((startAndEnd p k x u).modCq p k fun q =>
      { q with capture := some ⟨0, List.replicate 5 0, 0, u.clock, !(u.part p).resident⟩ })) ∧
    (∀ c, starts 8 → q.capture = some c →
      fetchWrite ag (fw x.bytes 32) (c.bytes (u.part p).resident u.clock) u = .ok () v →
      exec (.capstop p k) s = .next ((startAndEnd p k x v).modCq p k fun q => { q with capture := none })) ∧
    (∀ ls w, starts 9 →
      ((globalRange (fw x.bytes 32) (field x.bytes 40 8) u).bind fun _ s => Act.mapM (fun (y : Word × Nat) s =>
        (locate ag .write false y.1 s).map fun l => (y.1, y.2, l)) (pagesOf (fw x.bytes 32) (field x.bytes 40 8)) s) = .ok ls v →
      markDirty v p (ls.map fun y => y.2.2.key) = (true, w) →
      exec (.zeroPacket p k) s = .next (startAndEnd p k x (zeroPages ag ls w)))

/-- 13 R402 R404 to R406 R409 R410 R417 to R419, 14 R442 R443, 12 R367: LAUNCH activates a pipeline, which ends when its work is done; PSWITCH
replaces the image at the next quiet moment, with the entries of its queues where KEEPQ asks for them; CKPT stops strands and writes memory.
What the checks of an image leave open (log 81), a second PSWITCH and the
end of one whose pipeline fails (log 82) and the details of CKPT (log 87) are the model's readings. -/
def Obligations.LaunchEvents : Prop :=
  ∀ (p : Fin 8) (k : Fin 64) (s : State) (q : CmdQueue) (x : Packet) (v : State),
    let u := enterHead p k s
    let starts := fun ty => canStart u p k ty = some (q, x)
    (∀ c im rs, starts 1 → u.cfg p = some c → (u.part p).pipes.length < 8 →
      ((readImage (fetchAgent u p q) c (fw x.bytes 32) ((u.part p).pipes.map Prod.fst) u).bind fun im s =>
        (readTable (fetchAgent u p q) im.rectab im.nrec 64 s).map fun rs => (im, rs)) = .ok (im, rs) v →
      recordsCause rs p im.pipe = none →
      let gid := (rs.map fun b => field b 20 4).foldl max 0 + 1
      let w := startHead p k (activate p im (newPipeline im k x.order (field x.bytes 40 4) (pipeSlot (u.part p).pipes) gid) v)
      exec (.launch p k) s = .next (updateClosed (w.modPipe p im.pipe.pipe fun z =>
        { z with recs := (rectabOf im).map fun a => (a, some w.clock) }) p im.pipe.pipe)) ∧
    (∀ pipe z, s.pipeline p pipe = some z → (s.strandsOf p pipe).isEmpty = true →
      (z.cause.isSome = true ∨ (z.switch = none ∧ pipelineEnded s p z = true)) →
      let cause := z.cause.or (if z.poison then some Cause.poisonAtEnd else none)
      let w := endPacket p z.queueK z.packet cause z.unit z.causePc (logCompletion p z cause s)
      let w := match z.switch with
        | some y => endPacket p y.queueK y.packet cause none 0 w
        | none => w
      exec (.launchComplete p pipe) s = .next (w.modPart p fun y => { y with pipes := sdel y.pipes pipe })) ∧
    (∀ z im, starts 10 → u.pipeline p (field x.bytes 40 2) = some z → z.switch = none →
      readPipe (fetchAgent u p q) (fw x.bytes 32) (spadOf z.l1n) u = .ok im v →
      let keep := decide (field x.bytes 42 1 % 2 = 1)
      im.pipe = field x.bytes 40 2 → switchOk keep z.queues im.queues = true →
      exec (.pswitch p k) s = .next ((startHead p k v).modPipe p (field x.bytes 40 2) fun y =>
        { y with switch := some ⟨k, x.order, keep, im⟩ })) ∧
    (∀ pipe z w, s.pipeline p pipe = some z → z.switch = some w → (s.strandsOf p pipe).isEmpty = true → z.cause = none →
      let new := fun (y : Pipeline) => ({ y with toPipeImage := w.image, switch := none } : Pipeline)
      let done := fun (u : State) => exec (.pswitchActivate p pipe) s = .next (completePacket p w.queueK w.packet (updateClosed u p pipe))
      (w.keep = false → done (s.modPipe p pipe new)) ∧
      (w.keep = true →
        let kept := z.queues.zipIdx.foldl (fun (a : List (Nat × QEntry) × State) q =>
          let e := allEntries a.2 p pipe q.1
          (a.1 ++ e.1.map fun e => (q.2, e), e.2)) ([], s)
        done (kept.1.foldl (fun s e => enterQueue s p pipe e.1 e.2.bytes e.2.mdata true) (kept.2.modPipe p pipe new)))) ∧
    (starts 11 → field x.bytes 40 1 = 0 → exec (.ckpt p k) s = .next (ckptEnd p k (startHead p k u))) ∧
    (starts 11 → field x.bytes 40 1 ≠ 0 → exec (.ckpt p k) s = .next (ckptEnd p k (ckptStop p ((startHead p k u).modCq p k fun q =>
      { q with packets := q.packets.map fun y => if y.order = x.order then { y with acted := true } else y }))))

/-- 13 R411 to R416, 05 R187, 06 R216: the dispatcher takes the first partition for which something starts, in the operation `decideFirst`; BLOCKED
records whose condition is met become READY, READY records enter the age order, and free on-chip places are refilled from the ring, in the
operation `refill`. The order of partitions and cores, and the details of a gang and of the start, are logs 5, 50, 83 and 84. -/
def Obligations.RegulatorEvents : Prop :=
  ∀ (p : Fin 8) (pipe n : Nat) (s : State) (z : Pipeline),
    exec .dispatchDecision s = .next (decideFirst (List.finRange 8) s) ∧
    (s.pipeline p pipe = some z →
      exec (.blockedReevaluation p pipe) s = .next ((readRecs s p z).foldl (fun s r =>
        if field r.2.2 24 1 == Status.blocked && field r.2.2 18 1 / 4 % 2 == 0 && blockedMet s p z r.2.2 then
          makeReady p pipe r.1 r.2.2 s else s) s) ∧
      exec (.suspendedPoll p pipe) s = .next ((readRecs s p z).foldl (fun s r =>
        if r.2.1.isNone && field r.2.2 24 1 == Status.ready && field r.2.2 18 1 / 4 % 2 == 0 &&
            field r.2.2 60 4 == crc32c (r.2.2.take 60) then
          s.readyTime p.val pipe r.1 (some s.clock) else s) s)) ∧
    exec (.remontoireRefill p pipe n) s = .next (refill s p pipe n)

/-- 13 R390, 14 R433, 15 R444 to R446 R451 R453, 04 R129 R146: what the host's accesses and requests do. Where a record and its lists lie (log 13), what a request says (log 88), the
details of a record (log 89), host accesses that are not decoded or that wait (log 90) and that decoders and vectors are set whole (log 128)
are the model's. -/
def Obligations.HostEvents : Prop :=
  ∀ (p : Fin 8) (v : Word) (s : State),
    (∀ k : Fin 64, s.blockValid p = true →
      let u := (s.modPart p fun q => { q with dbs := sset q.dbs 0 k (BitVec.ofNat 64 (bits v 0 32)) }).modCq p k fun q =>
        { q with widx := BitVec.ofNat 32 v.toNat }
      (∀ q, u.cq p k = some q → q.enable = true → 2 ^ (q.log2 - 6) < (q.widx - q.ridx).toNat →
        exec (.db p k v) s = .next (stopQueue p k Cause.packetMalformed 0 u)) ∧
      ((∀ q, u.cq p k = some q → q.enable = true → (q.widx - q.ridx).toNat ≤ 2 ^ (q.log2 - 6)) → exec (.db p k v) s = .next u)) ∧
    (s.blockValid p = true → (s.cfg p = none ∨ (s.part p).areaDown.getLsbD 5 = false) →
      exec (.dbgdb p v) s = .next ((s.modPart p fun q => { q with dbgW := BitVec.ofNat 64 (bits v 0 32) }).fwEvent 0 0)) ∧
    (∀ n c, s.blockValid p = true → s.cfg p = some c → n / 9 < c.clusters.length →
      let core := coreNumber (c.clusters.getD (n / 9) 0) (n % 9)
      isFirmware core = false → isSpare core = false →
      let u := s.modPart p fun q => { q with hreq := sset q.hreq 0 n (v ||| (sget q.hreq 0 n &&& 1)) }
      (bitAt v 0 = false → exec (.hreq p n v) s = .next u) ∧
      (bitAt v 0 = true → (u.part p).resident = true → exec (.hreq p n v) s = .next (u.modCoreAt core Core.hostRequest))) ∧
    (let w := BitVec.ofNat 64 (bits v 6 50 * 64 + bits (s.dev.cfgreq ||| v) 0 1)
     let u : State := { s with dev := { s.dev with cfgreq := w } }
     exec (.cfgreq v) s = .next (if bitAt v 0 then u.fwEvent 0 3 else u) ∧
     (if bitAt v 0 then u.fwEvent 0 3 else u).readDevice 0x10 8 = some w) ∧
    (∀ off n, n ≠ 8 ∨ off % 8 ≠ 0 → s.readDevice off n = none) ∧
    (∀ off, exec (.deviceRegisterWrite (.bar0 off) v) s = .next s) ∧
    (∀ k d, exec (.deviceRegisterWrite (.decoder k d) v) s = .next { s with dev := { s.dev with hdm := s.dev.hdm.set k d } }) ∧
    (∀ k d, exec (.deviceRegisterWrite (.vector k d) v) s = .next { s with dev := { s.dev with msix := s.dev.msix.set k d } }) ∧
    (s.dev.ready = false → exec .partitionConfiguration s = .next s ∧ ∀ hpa bytes, exec (.hostSnoop hpa bytes) s = .next s) ∧
    (bitAt s.dev.cfgreq 0 = true → s.dev.ready = true →
      let req := s.peek (hostKey (bits s.dev.cfgreq 6 50 * 64)) 64
      (∀ r, Config.requestReport req = some r →
        exec .partitionConfiguration s = .next (answer none (s.poke (hostKey r.1) (s.attestation r.2)))) ∧
      (Config.requestReport req = none → (s.dev.newCfg.get (Config.requestPart req)).isSome = false →
        let i := Config.requestPart req
        let u := loadTiers i (Config.requestTiers req) s
        let w := vget (u.die 0).pcfg i.val
        let r := readPartRecord u (BitVec.ofNat 64 (bits w 6 50 * 64))
        (bitAt w 0 = false → exec .partitionConfiguration s = .next (answer none (u.modPart i.val fun _ => resetPartition))) ∧
        (bitAt w 0 = true → (recordFieldsOk i r.1 r.2 && ownersOk u i r.2) = true →
          exec .partitionConfiguration s = .next (acceptRecord i r.2 u)) ∧
        (bitAt w 0 = true → (recordFieldsOk i r.1 r.2 && ownersOk u i r.2) = false →
          exec .partitionConfiguration s = .next (answer (some Cause.partitionBounds) u)))) ∧
    (∀ gran z, (s.dev.zeroing.find? fun z => z.1 == gran) = some z → granuleInUse gran s = true →
      exec (.granuleZeroingComplete gran) s = .next s) ∧
    (∀ gran z, (s.dev.zeroing.find? fun z => z.1 == gran) = some z → granuleInUse gran s = false →
      let u := dropMapped gran (s.zeroBlocks (gran * 2 ^ 30) (2 ^ 24))
      let u : State := { u with dev := { u.dev with zeroing := u.dev.zeroing.filter fun x => x.1 != gran } }
      ((u.dev.zeroing.any fun x => x.2 == z.2) = true → exec (.granuleZeroingComplete gran) s = .next u) ∧
      (∀ c, (u.dev.zeroing.any fun x => x.2 == z.2) = false → u.dev.newCfg.get (Fin.ofNat 8 z.2) = some c →
        let i := Fin.ofNat 8 z.2
        let w := applyRecord i c { u with dev := { u.dev with newCfg := u.dev.newCfg.set i none } }
        exec (.granuleZeroingComplete gran) s = .next { w with dev := { w.dev with cfgresp := 256 } })) ∧
    (∀ hpa k, s.hostBlock hpa = some k → s.hostWaits k = false →
      exec (.hostCxlMemRead hpa) s = .next (s.sendHost hpa (s.peek k 64) (s.poisonAt k)) ∧
      (∀ bytes a, s.hdmAddr hpa = some a →
        (s.ownerOf k = none →
          exec (.hostCxlMemWrite hpa bytes) s =
            .next (((s.cleanBlock (fun _ => true) k).writeRun (k + a % 64) (bytes.take (64 - a % 64))).clearZ k)) ∧
        (∀ i u, s.ownerOf k = some i → markDirty s i [k] = (true, u) →
          exec (.hostCxlMemWrite hpa bytes) s =
            .next (((u.cleanBlock (fun _ => true) k).writeRun (k + a % 64) (bytes.take (64 - a % 64))).clearZ k)))) ∧
    (∀ hpa bytes, s.dev.ready = true →
      let k := hostKey (hpa / 64 * 64)
      exec (.hostSnoop hpa bytes) s =
        .next ((s.sendHost hpa (s.peek k 64) false).poke (k + hpa % 64) (bytes.take (64 - hpa % 64))))

/-- 15 R450 to R454, 14 R434 R437 R441, 13 R420 R421: power, boot, reset, management, temperature and errors of the platform. The severities 4 and 0
are log 86; the order of the slots and what the firmware does at a boot are log 51; the bridges' training is log 126. -/
def Obligations.PlatformEvents : Prop :=
  ∀ (die : Fin 4) (bytes : List Byte) (s : State),
    ((s.dev.dies.toList.any fun d => d.up) = false → exec .powerGoodBoot s = .next
      ((List.range 4).foldl (fun s d => bootDie d s) { s with dev := { s.dev with power := true } })) ∧
    (s.dev.ready = false → (s.dev.dies.toList.any fun d => d.up) = true →
      let t := trainBridges s
      let u := t.zeroBlocks 0 (hbmTop / 64)
      ((∀ d ∈ t.dev.dies.toList, d.up = true → d.bridged = true) →
        exec .deviceReady s = .next { u with dev := { u.dev with ready := true } }) ∧
      ((∃ d ∈ t.dev.dies.toList, d.up = true ∧ d.bridged = false) → exec .deviceReady s = .next t)) ∧
    (let u := resetAll false s
     exec .mainPowerRemoved s =
      .next { u with clock := 0, mem := u.mem.filter fun c => isHost c.1, tags := u.tags.filter fun c => isHost (64 * c.1) }) ∧
    (s.dev.power = true → exec .deviceReset s = .next ((List.range 4).foldl (fun u d => bootDie d u) (resetAll true s))) ∧
    (∀ e : Die, (e.pending = true → e.bootOrder = [1 - e.slot, e.slot]) ∧ (e.pending = false → e.bootOrder = [e.slot, 1 - e.slot])) ∧
    (s.core.run = .fwWait → (fwAwake s = true ∨ s.core.nextAsync.isSome = true) →
      exec .fwEventWake s = .next { s with core := { s.core with run := .strand } }) ∧
    (s.firmwareRuns die = true →
      let u := (s.fwEvent die 2).send (.management (Config.managementReply (s.fwEvent die 2).free bytes))
      exec (.mctpControlMessage die bytes) s = .next { u with free := u.free + 1 } ∧
      exec (.pldmMonitoring die bytes) s = .next { u with free := u.free + 1 } ∧
      ∀ image, exec (.pldmFirmwareUpdate die image) s = .next ((s.fwEvent die 2).modDie die fun d =>
        { d with flash := d.flash.mapFinIdx fun i v _ => if i = 1 - d.slot then some image else v, pending := true })) ∧
    (s.firmwareRuns die = false → exec (.mctpControlMessage die bytes) s = .next s ∧ exec (.pldmMonitoring die bytes) s = .next s ∧
      ∀ image, exec (.pldmFirmwareUpdate die image) s = .next s) ∧
    (s.firmwareRuns 0 = false → exec (.attestationRequest bytes) s = .next s) ∧
    (s.firmwareRuns 0 = true →
      exec (.attestationRequest bytes) s = .next ((s.fwEvent 0 2).send (.management ((s.fwEvent 0 2).attestation bytes)))) ∧
    ((s.die die).hot = false → exec (.thermalTrip die) s = .next
      (report (s.modDie die fun d => { d with hot := true }) none die Cause.thermalTrip 4 (unitId die 0) false 0 0)) ∧
    (let u := s.modDie die fun d => { d with hot := false }
     let go := fun (c : Core) => if c.run = .stopped ∧ dieOf c.id = die.val then { c with run := .strand } else c
     exec (.thermalTripResume die) s =
      .next { u with core := go u.core, others := u.others.map fun (e : Nat × Core) => (e.1, go e.2) }) ∧
    (∀ unit, exec (.ceRate die unit) s = .next (report s none die Cause.ceRate 0 unit false 0 0)) ∧
    (isFirmware s.core.id = true → exec .ueRegister s = .next (firmwareFault s.core.r.pc 0 s)) ∧
    (isFirmware s.core.id = false → s.core.holdsStrand = true → s.core.record.isEmpty = false →
      exec .ueRegister s = .next (faultStrand Cause.ueRegister (rollback s).core.r.pc false false true (rollback s))) ∧
    (isFirmware s.core.id = false → s.core.holdsStrand = false → exec .ueRegister s =
      .next (report s none (dieOf s.core.id) Cause.ueRegister 1 (unitId s.core.id 0) false 0 0))

/-- 05 R149, 12 R353 R354 R365 R366 R377, 14 R423 R434: register writes that are steps of their own, and the trace sample. FELI is
cleared; LOGBASE, LOGSIZE and TROOT are kept for the next boundary, LOG2 outside 12 to 40 and a write in strand mode ignored; LOGTAIL
takes the start of an entry only and clears LOGMODE.STALLED; SVCRES answers the site it names in x1 and presents the next; HACKM sets HACK of the sites whose
bits are written; a sample is recorded once per PERIOD, at the close of the open window, while the ring has room. -/
def Obligations.RegisterEvents : Prop :=
  ∀ (v : Word) (k : Fin 2) (s : State),
    let die := dieOf s.core.id
    let l := s.core.log
    (s.core.mode = .service →
      ((s.die die).svcSite = none → exec (.svcresWrite v) s = .next s) ∧
      (∀ b, (s.die die).svcSite = some b → ∃ t, exec (.svcresWrite v) s = .next t ∧
        (let c := t.coreAt (coreOfSite die b)
         c.svc = none ∧ c.r.x.get 1 = v ∧ c.r.xv.getLsbD 1 = true ∧ c.bnd.x.get 1 = v ∧ c.bnd.xv.getLsbD 1 = true) ∧
        (∀ n, n ≠ coreOfSite die b → t.coreAt n = s.coreAt n) ∧
        (t.die die).svcSite = (List.range 72).find? (fun b => (t.coreAt (coreOfSite die b)).svc.isSome) ∧ t.mem = s.mem) ∧
      ∃ t, exec (.hackmWrite k v) s = .next t ∧ t.mem = s.mem ∧ t.dev = s.dev ∧ ∀ n, t.coreAt n = { s.coreAt n with
        hack := (s.coreAt n).hack || (List.range (if k = 0 then 64 else 8)).any fun i =>
          v.getLsbD i && n == coreOfSite die (64 * k.val + i) }) ∧
    (s.core.mode ≠ .service → exec (.svcresWrite v) s = .next s ∧ exec (.hackmWrite k v) s = .next s) ∧
    exec .feliWrite s = .next { s with core := { s.core with r := { s.core.r with sr := { s.core.r.sr with feli := 0, fela := 0 } } } } ∧
    (s.core.mode = .strand → exec (.logRingWrite k v) s = .next s ∧ exec (.logtailWrite v) s = .next s ∧
      exec (.trootWrite v) s = .next s) ∧
    (s.core.mode ≠ .strand →
      (∃ b : Word, bits b 0 12 = 0 ∧ bits b 12 52 = bits v 12 52 ∧
        exec (.logRingWrite 0 v) s = .next { s with core := { s.core with log := { l with nextBase := some b } } }) ∧
      (12 ≤ bits v 0 6 → bits v 0 6 ≤ 40 → ∃ n : Word, n.toNat = bits v 0 6 ∧
        exec (.logRingWrite 1 v) s = .next { s with core := { s.core with log := { l with nextSize := some n } } }) ∧
      (bits v 0 6 < 12 ∨ 40 < bits v 0 6 → exec (.logRingWrite 1 v) s = .next s) ∧
      (logStart s v.toNat (l.cur.toNat / 16 + 1) l.tail.toNat = false → exec (.logtailWrite v) s = .next s) ∧
      (logStart s v.toNat (l.cur.toNat / 16 + 1) l.tail.toNat = true → ∃ t, exec (.logtailWrite v) s = .next t ∧
        bits t.core.log.mode 6 1 = 0 ∧ t.mem = s.mem ∧ t.tags = s.tags ∧ t.core = { s.core with log := { l with
          tail := v, horizon := t.core.log.horizon, mode := setBits l.mode 6 1 0, fullPosted := false } }) ∧
      ∃ r : Word, bits r 13 43 = bits v 13 43 ∧ bits r 0 13 = 0 ∧ bits r 56 8 = 0 ∧
        exec (.trootWrite v) s = .next { s with core := { s.core with sup := { s.core.sup with trootNext := some r } } }) ∧
    (let period := 256 * bits l.trctl 16 16
     let n := 2 ^ bits l.trctl 8 5
     let prod := bits l.trctl 32 32
     let u : State := { s with core := { s.core with samples := s.core.beat } }
     (period = 0 ∨ s.core.run ≠ .strand ∨ s.core.beat - s.core.samples < period → exec .traceSample s = .next s) ∧
     let b := toBytes 2 s.core.id ++ [2, 0] ++ toBytes 4 s.core.win.beats ++ b8 s.core.r.sr.win ++ b8 s.core.r.pc ++ b8 (BitVec.ofNat 64 s.clock)
     (0 < period → s.core.run = .strand → s.core.samples + period ≤ s.core.beat →
      (s.core.win.bundles ≠ 0 → exec .traceSample s = .next (u.modWin fun w => { w with held := w.held ++ [.trace b] })) ∧
      (s.core.win.bundles = 0 → (prod + 2 ^ 32 - bits l.trcons 0 32) % 2 ^ 32 = n → exec .traceSample s = .next u) ∧
      (s.core.win.bundles = 0 → (prod + 2 ^ 32 - bits l.trcons 0 32) % 2 ^ 32 ≠ n → exec .traceSample s = .next
        ((devWrite (strandAgent u 0) (l.trbase + BitVec.ofNat 64 (32 * (prod % n))) b u).modLog fun l =>
          { l with trctl := setBits l.trctl 32 32 (prod + 1) }))))

/-- 12 R368 to R376: an operation of the debug queue on a held strand acts and is answered; RSTEP, RUNBACK and REPLAY are answered 0x81
without FULL mode. REPLAY of a strand with entries ahead makes it ready, to run in replay from its next pickup, and is answered when that
ends; STOP makes DEBUG_HALT pending and is answered when the strand is held (log 95). The debugger works on a copy of the frame (log 39).
A movement and a READ or WRITE are those of the shared operations named. A replay that has diverged ends before the next bundle: the open
window is rolled back, the frame is marked HELD, and REPLAY is answered with the place of the difference. -/
def Obligations.DebugEvents : Prop :=
  (∀ (p : Fin 8) (s u : State) (b : List Byte), dbgHead p s = (some b, u) → dbgBad b = false →
    let op := field b 0 1
    let f := (dbgOpen p b u).1
    let t := (dbgOpen p b u).2.2
    let full := bits t.core.log.mode 0 2 = 2
    let moves := fun (target : State → Option Nat) =>
      let r := moveBack (target t) (field b 1 1 % 2 = 1) (t.core.log.head.toNat / 16 + 1) false t
      Host.Outcome.next (dbgAnswer p b r.1 (dbgClose p f u false (if r.2.1 then dropCommands r.2.2 else r.2.2)))
    let n := field b 24 8
    let answers := fun (e : DbgEnd) => Host.Outcome.next (dbgAnswer p b e (dbgClose p f u false t))
    let waits := (u.part p.val).replays.any fun e => e.1 == fw b 8
    let idle := (u.liveCores.any fun k => let c := u.coreAt k; c.crec == fw b 8 && c.partOf == p && c.replay.isSome) = false
    (op = 4 → idle → waits = true → ∀ c, replayLost p b u = some c → exec (.dbgReplay p) s =
      .next (dbgAnswer p b (.cause c none 0) (u.modPart p.val fun v => { v with replays := v.replays.filter fun e => e.1 != fw b 8 }))) ∧
    (op = 1 → isHeld p b u = true → exec (.dbgStop p) s = .next (dbgAnswer p b .ok u)) ∧
    (op = 1 → isHeld p b u = false → ∀ k, (u.liveCores.find? fun k =>
        let c := u.coreAt k; c.holdsStrand && c.partOf == p && c.crec == fw b 8 && !c.record.isEmpty) = some k →
      exec (.dbgStop p) s = .next (u.modCoreAt k fun c => if c.pend.any fun e => e.1 == Cause.debugHalt then c
        else { c with pend := c.pend ++ [(Cause.debugHalt, 0)] })) ∧
    (isHeld p b u = true →
      (op = 2 → field b 16 8 ≠ 0 → field b 16 8 ≤ 2 ^ 32 → full →
        exec (.dbgRstep p) s = moves fun t => (windowsBack (field b 16 8) t).bind fun w => quietTarget w t) ∧
      (op = 3 → full → exec (.dbgRunback p) s = moves (quietTarget (field b 16 8))) ∧
      (¬ full → (op = 2 → field b 16 8 ≠ 0 → field b 16 8 ≤ 2 ^ 32 → exec (.dbgRstep p) s = answers (.bad 0x81)) ∧
        (op = 3 → exec (.dbgRunback p) s = answers (.bad 0x81)) ∧
        (op = 4 → idle → waits = false → exec (.dbgReplay p) s = answers (.bad 0x81))) ∧
      (op = 4 → idle → waits = false → full → t.core.log.cur < t.core.log.tail →
        exec (.dbgReplay p) s = answers (.cause Cause.horizonReached none 0)) ∧
      (op = 4 → idle → waits = false → full → t.core.log.tail ≤ t.core.log.cur →
        (t.core.log.head ≤ t.core.log.cur ∨ (fw b 16 ≠ 0 ∧ fw b 16 ≤ t.core.r.sr.win)) → exec (.dbgReplay p) s = answers .ok) ∧
      (op = 4 → idle → waits = false → full → t.core.log.tail ≤ t.core.log.cur →
        t.core.log.cur < t.core.log.head → (fw b 16 = 0 ∨ t.core.r.sr.win < fw b 16) →
        exec (.dbgReplay p) s = .next ((dbgClose p f u true t).modPart p.val fun v =>
          { v with replays := (fw b 8, ⟨t.core.log.cur.toNat, fw b 16, field b 4 4, fw b 32, none, []⟩) :: v.replays })) ∧
      (∀ x, op = 5 → selectorOf t (fw b 16) = some x → n ≠ 0 → n ≤ 32 →
        exec (.dbgRead p) s = .next (dbgAnswer p b (dbgRead f x n t).1 (dbgClose p f u false (dbgRead f x n t).2))) ∧
      (∀ x, op = 6 → selectorOf t (fw b 16) = some x → n ≠ 0 → n ≤ 24 →
        let r := dbgWrite x (slice b 40 n) t
        exec (.dbgWrite p) s =
          .next (dbgAnswer p b r.1 (dbgClose p f u false (if r.1.status = 0 then cutLog r.2 else r.2)))) ∧
      (op = 7 → exec (.dbgResume p) s = .next (dbgAnswer p b .ok (dbgClose p f u true (cutLog t)))))) ∧
  ∀ (s : State) (rp : Replay),
    let v := rollback s
    let u : State := { v with core := { v.core with replay := none } }
    s.core.run = .strand → heldUp s = false → s.core.fault = none → s.core.replay = some rp → rp.diverged.isSome = true →
    s.core.openTx = none → enginesAtStop v = true → replayOver s = true →
    issueCore s = .next (replayAnswer u.core.partOf rp u.core.r.sr.win u.core.r.pc
      (leaveCore Status.suspended 0 none false true u.core.r.pc none false u))

/-- 02 R42 R49 R53 to R60: the decoder gives back every well-formed instruction from its syllable, each operand at every value
its field admits; the five RFT rows share one word (log 40). -/
def Obligations.EncodeThenDecode : Prop :=
  ∀ (i : Instr) (sy : Syllable), i.wf = true → encode i = some sy → decodeSyllable sy = .ok (asDecoded i)

/-- 02 R42: a syllable that decodes to an instruction other than NOP is that instruction's own word, and well formed. -/
def Obligations.DecodeThenEncode : Prop :=
  ∀ (i : Instr) (sy : Syllable), fits sy = true → decodeSyllable sy = .ok i → i ≠ .nop → i.wf = true ∧ encode i = some sy

/-- 02 R49 R53 R55 to R60, 05 R181, 14 R425: words written out from the encodings, one or more of each slot. -/
def Obligations.DecodeWords : Prop :=
  decodeA 0x20441460 = .ok (.add 1 4 5 6) ∧ decodeA 0x480413FE = .ok (.addi 2 4 4 0x3FE) ∧
  decodeX 0x21D400210000 = .ok (.tree 2 3 0x15 0 0 1 0 2 0 0) ∧ decodeX 0x8C0440000003 = .ok (.loopOp 0 4 1 3) ∧
  decodeX 0x9A0000000000 = .ok (.rftResume 0) ∧ decodeL 0x00C01C9002 = .ok (.ldW 0 7 9 2) ∧
  decodeL 0x0A40189002 = .ok (.acas 0 6 9 2) ∧
  decodeV 0x0020800824C8 = .ok (.fadd 0 (.line ⟨0, 2, 0⟩) (.line ⟨0, 2, 1⟩) (.line ⟨1, 3, 4⟩)) ∧
  decodeE 0x0020DEA006 = .ok (.mattn 0 0 1 2 15 20 0 3 0) ∧ decodeE 0x1820002944 = .ok (.esignalAdd 0 0 5 4 2)

/-- 02 R39 R44 R51 R76: a step at a core that may issue fetches the 32 bytes at its pc, decodes them slot by slot, lands the results
of its beat and, where no slot traps or waits, runs exec of the decoded instructions in order and ends the bundle; a turn of an event
runs exec of that event. -/
def Obligations.StepRuns : Prop :=
  ∀ (s v w t n : State) (bs : List Byte) (b : Sound) (r : List Turn),
    ((s.agenda = [] ∧ r = [] ∧ v = s ∧ waiting s = false) ∨
      ∃ c, s.agenda = .issue c :: r ∧ isSite c = true ∧ v = ({ s with agenda := r } : State).focus c) →
    v.core.run = .strand → heldUp v = false → v.core.fault = none → replayOver v = false → v.core.closing = false →
    stopWaits v = false → deliverable v = false → v.txDueNow = none →
    w = v.core.wake.foldl (fun s k => wakeUp k.1 s) v → fetch (beginIssue w) = .bytes bs t → checkBundle t bs = .ok b →
    let o := openBundle b bs (landUpTo t.core.beat t)
    forcedDue o b = false → (isSerial o b && !atBoundary o) = false → interlockWait o b = false → logStalls o b = false →
    firstTrap o b = none → firstStop o b = none → n = countFetch o →
    let ends := fun (e : Ends) => endTurn s r (endIssue e)
    let ws := (live n b).flatMap fun x => n.core.writes x.2
    (∃ l, w.core.r.pc.toNat % 32 = 0 ∧ ∃ z, locate (strandAgent (beginIssue w) 0) .fetch false w.core.r.pc (beginIssue w) = .ok l z ∧
      bs = z.peek l.key 32 ∧ t = { z with core := { z.core with iss := { z.core.iss with far := l.far } } }) ∧
    (∃ d, decodeBundle (ofBytes bs) = .ok d ∧ b.header = d.header ∧
      b.slots.map (fun x => (x.1, Except.ok (ε := DecodeError) x.2)) = d.slots) ∧
    (∀ m, actAll (inOrder n b).1 n = .next m →
      ((inOrder n b).2 = none → step s = ends (.next (pointAfter n b (isSerial o b) (bundleEnd (noteWrites ws m)).2
        (bundleEnd (noteWrites ws m)).1))) ∧
      (∀ x, (inOrder n b).2 = some x → step s = ends (exec x.2 (atSlot x.1 (noteWrites ws m))))) ∧
    (∀ x y m, actAll (x :: y) m = match exec x.2 (atSlot x.1 m) with
      | .next m => actAll y (countEvents m)
      | e => e) ∧
    (∀ z c i q, z.agenda = .event c i :: q → isSite c = true → isEvent i = true →
      step z = endTurn z q (exec i (({ z with agenda := q } : State).focus c)))

/-- No instruction ends in a fault or a refusal, and a machine whose agenda names sites of the package (05 R151) always takes
a step to a next state whose agenda does so; every step keeps the canonical form of memory and of the blocks' metadata. -/
def Obligations.StepsNeverStop : Prop :=
  (∀ (i : Instr) (s : State), ∃ t, exec i s = .next t) ∧ ∀ (s : State), agendaOk s → ∃ t, step s = .next t ∧ agendaOk t ∧
    (Memory.wf s.mem = true → Memory.wf t.mem = true) ∧ (swf 0 s.tags = true → swf 0 t.tags = true)

/-- 02 R61 R63, 07 R222, 14 R423: the values at reset that the specification gives, and, of the Retrograde unit, whose registers 12 R354 takes
from the template at a pickup, the zeros that the model names (log 2); memory lists nothing and is in canonical form. -/
def Obligations.ResetState : Prop :=
  let c := State.reset.core
  let t := c.sup
  agendaOk State.reset ∧ State.reset.mem = [] ∧ Memory.wf State.reset.mem = true ∧ State.reset.tags = [] ∧
  t.tcause = 0 ∧ t.tpc = 0 ∧ t.tfpc = 0 ∧ t.tslot = 0 ∧ t.twin = 0 ∧ t.taddr = 0 ∧ t.targ = 0 ∧ t.tstatus = 0 ∧
  t.tloop = Vector.replicate 13 0 ∧ t.bkpt = Vector.replicate 4 0 ∧ t.wpta = Vector.replicate 2 0 ∧
  t.wptl = Vector.replicate 2 0 ∧ c.r.xv = 0 ∧ c.r.pv = 0 ∧ c.r.btv = 0 ∧ (∀ k : Fin 16, c.r.m.get k = ⟨[], false, .gated⟩) ∧
  c.log = ⟨0, 0, 0, 0, 0, 0, 0, 0, 0, 0, 0, 0, 0, none, none, none, false⟩ ∧
  ∀ d : Fin 4, (State.reset.die d.val).up = false ∧ (State.reset.die d.val).tnthresh = 0xFFFF ∧
    (State.reset.die d.val).cethresh = 0xFFFF

/-- 02 R42 R52 R63 R73: what a slot's checks come to: a bad encoding traps whatever the guard, a false guard does nothing, a
pending interlocked result stalls, and a register that may not be read traps; and what each guard value means. BUNDLE_RESERVED before
OPCODE_UNDEF where both hold (log 9) and a stall before REG_INVALID where both hold (log 43) are the model's readings. -/
def Obligations.SlotChecks : Prop :=
  ∀ (i : Instr) (s : State), isEvent i = false → (s.core.closing && s.core.post == some i) = false →
    (i.reservedOk = false → exec i s = trapOut 4 Cause.bundleReserved 0 0 s) ∧
    (i.reservedOk = true → (i.formOk && modeFormOk i s) = false → exec i s = trapOut 4 Cause.opcodeUndef 0 0 s) ∧
    (i.wf = true → modeFormOk i s = true → (∀ r ∈ s.guardReads (guardOf i), s.core.valid r = true) →
      s.guardTrue (guardOf i) = false → exec i s = .next s) ∧
    (guarded i s = true → minMode i ≤ s.core.mode.code → s.core.tx = none →
      (s.core.pendingOn (s.core.reads i ++ s.core.writes i) = true → exec i s = stallOut s) ∧
      (∀ c, s.core.pendingOn (s.core.reads i ++ s.core.writes i) = false → badRead s i = some c →
        exec i s = trapOut 10 c 0 0 s)) ∧
    (∀ g : Fin 8, s.core.iss.tree = false → (s.guardTrue g = true ↔ g = 0 ∨ s.core.r.p.getLsbD g.val = true)) ∧
    (∀ g : Fin 8, s.core.iss.tree = true → (s.guardTrue g = true ↔ g = 0 ∨ (g.val ≤ 5 ∧ s.core.iss.taken = g) ∨
      (g = 6 ∧ s.core.iss.taken ∈ [1, 2]) ∨ (g = 7 ∧ s.core.iss.taken ∈ [3, 4, 5])))

/-- 02 R67: A-slot opcodes 0x50 to 0x58 but SVC, MTS to 0x300 to 0x3FF and MFS of 0x380 to 0x3FF trap PRIV in strand mode; the
entries of 05 R177 and R178 name the lowest mode; SVC passes in every mode. In a transaction those that 12 R384 lists abort it
instead. -/
def Obligations.Privileges : Prop :=
  ∀ (i : Instr) (s : State) (g : Fin 8), guarded i s = true →
    let traps := exec i s = if s.core.tx.isSome && txUnsupported i then .next (s.txDue 4 0 0) else trapOut 6 Cause.priv 0 0 s
    (s.core.mode = .strand →
      (∀ w, encode i = some (.a w) → 0x50 ≤ w / 4194304 % 128 → w / 4194304 % 128 ≤ 0x58 → (∀ n, i ≠ .svc g n) → guardOf i = g →
        traps) ∧
      (∀ a n, i = .mts g a n → 0x300 ≤ n.val → traps) ∧ (∀ d n, i = .mfs g d n → 0x380 ≤ n.val → traps) ∧
      (i ∈ [.rftResume g, .rftYield g, .rftSuspend g, .rftFault g, .rftHold g] → traps)) ∧
    (s.core.mode ≠ .service →
      (∀ a b, i = .pswap g a b ∨ i = .quarantine g a ∨ i = .idle g → traps) ∧ (∀ a n, i = .mts g a n → 0x380 ≤ n.val → traps) ∧
      (∀ d n, i = .mfs g d n → 0x380 ≤ n.val → traps)) ∧
    (∀ n, i = .svc g n → s.core.tx = none → slotPasses i s = true)

/-- 02 R44 R47 R72: an instruction that only computes registers adds one result to the landing buffer, for a destination it
names; nothing else changes, and the events of the slot wait for the result (03 R108). -/
def Obligations.IssueFrame : Prop :=
  ∀ (i : Instr) (s t : State), slotPasses i s = true → exec i s = .next t →
    ((scalarResult i s).isSome ∨ (predResult i s).isSome ∨ (writeResult i s).isSome ∨ portless i = true) →
    ∃ r : Result, (∀ d ∈ r.write.dest, d ∈ s.core.writes i) ∧
      t = { s with core := { s.core with
        seq := s.core.seq + 1, land := s.core.land ++ [r], iss := { s.core.iss with stale := [] } } }

/-- 04 R118 to R121 R127: a translation changes TLBs, the accessed and dirty bits of the leaf it uses, and, where the partition logs
dirty pages, what R127 and R128 say of that write; nothing else. -/
def Obligations.TranslationFrame : Prop :=
  ∀ (ag : Agent) (k : AKind) (va : Word) (s u : State) (l : Loc), Memory.wf s.mem = true → translate ag k va s = .ok l u →
    u.core = { s.core with tlb := u.core.tlb } ∧ u.tags = s.tags ∧
    u.dev = { s.dev with ctlb := u.dev.ctlb, parts := u.dev.parts, dies := u.dev.dies, stalled := u.dev.stalled } ∧
    u.clock = s.clock ∧ u.agenda = s.agenda ∧ u.free = s.free ∧
    ((∀ c, s.cfg ag.part.val = some c → c.dlog = false) →
      u.dev.parts = s.dev.parts ∧ u.dev.dies = s.dev.dies ∧ u.dev.stalled = s.dev.stalled ∧
      ∀ x : Nat, (∀ t, s.tlbFind ag va.toNat = some t → x < t.entryAt ∨ t.entryAt + 8 ≤ x) →
        (∀ n e a ts, walkChecked s ag va.toNat = .leaf n e a ts → x < a ∨ a + 8 ≤ x) → getByte u.mem x = getByte s.mem x)

/-- 02 R47 R48 R63 R73, 05 R148 to R150, 06 R195, 07 R217 R220 R221 R224: a result that lands changes the register it names, its valid bit
and what the window has written of it, and nothing else; x0 and p0 discard it; the first write of an invalid matrix register zero-fills the
rest. A state register below 0x100 takes the value that its row gives. Two results for one register land in beat order, and of two at one
beat the later-issued stands, with WAW_COLLIDE, an interlocked one, which lands at the beat it arrives, and one that has landed already
among them. -/
def Obligations.Landing : Prop :=
  (∀ (w : Write) (s : State), (∀ n v, w ≠ .state n v) → (∀ xs sc, w ≠ .push xs sc) →
    let t := applyWrite w s
    let r := s.core.r
    let g := t.core.r
    t = { s with core := { s.core with
      r := { r with
        x := g.x, xv := g.xv, p := g.p, pv := g.pv, bt := g.bt, btv := g.btv, vm := g.vm, m := g.m, shS := g.shS,
        sr := { r.sr with lstart := g.sr.lstart, lend := g.sr.lend, lact := g.sr.lact, segexp := g.sr.segexp, segrun := g.sr.segrun } },
      y := t.core.y, win := { s.core.win with wx := t.core.win.wx, wbt := t.core.win.wbt, wvm := t.core.win.wvm } } } ∧
    (∀ k : Fin 64, let hit := match w with
        | .x d _ => decide (k = d ∧ d ≠ 0)
        | _ => false
      g.x.get k = (match w with
        | .x _ v => if hit = true then v else r.x.get k
        | _ => r.x.get k) ∧
      g.xv.getLsbD k.val = (hit || r.xv.getLsbD k.val) ∧ t.core.win.wx.getLsbD k.val = (hit || s.core.win.wx.getLsbD k.val)) ∧
    (∀ k : Fin 4, t.core.y.get k = match w with
      | .y d v => if k = d then ⟨v, some s.core.beat⟩ else s.core.y.get k
      | _ => s.core.y.get k) ∧
    (∀ k : Fin 16, let hit := match w with
        | .p d _ => decide (k = d ∧ d ≠ 0)
        | _ => false
      g.p.getLsbD k.val = (match w with
        | .p _ v => if hit = true then v else r.p.getLsbD k.val
        | _ => r.p.getLsbD k.val) ∧
      g.pv.getLsbD k.val = (hit || r.pv.getLsbD k.val)) ∧
    (∀ k : Fin 8, let hit := match w with
        | .bt d _ => decide (k = d)
        | _ => false
      g.bt.get k = (match w with
        | .bt d v => if k = d then v else r.bt.get k
        | _ => r.bt.get k) ∧
      g.btv.getLsbD k.val = (hit || r.btv.getLsbD k.val) ∧ t.core.win.wbt.getLsbD k.val = (hit || s.core.win.wbt.getLsbD k.val)) ∧
    (∀ k : Fin 8, (∀ j : Nat, j < 32 → (g.vm.get k).getLsbD j = match w with
        | .vm d v lanes => if k = d ∧ lanes.getLsbD j = true then v.getLsbD j else (r.vm.get k).getLsbD j
        | _ => (r.vm.get k).getLsbD j) ∧
      t.core.win.wvm.getLsbD k.val = ((match w with
        | .vm d _ _ => decide (k = d)
        | _ => false) || s.core.win.wvm.getLsbD k.val)) ∧
    (∀ k : Fin 16, match w with
      | .cells d cs => if k = d then (g.m.get k).valid = true ∧ (g.m.get k).power = .on ∧
            (swf 0 (r.m.get k).cells = true → ∀ e, sget (g.m.get k).cells 0 e = match cs.reverse.find? fun c => c.1 == e with
              | some c => c.2
              | none => if (r.m.get k).valid then sget (r.m.get k).cells 0 e else 0)
          else g.m.get k = r.m.get k
      | .mreg d v => g.m.get k = if k = d then v else r.m.get k
      | .power d v => g.m.get k = if k = d then { r.m.get k with power := v } else r.m.get k
      | _ => g.m.get k = r.m.get k) ∧
    (∀ (k : Fin 4) (e : Fin 8), (g.shS.get k).w.get e = match w with
      | .shadow d n v => if k = d ∧ e = n then v else (r.shS.get k).w.get e
      | _ => (r.shS.get k).w.get e) ∧
    (∀ k : Fin 4, g.sr.lstart.get k = (match w with
        | .loop d first _ _ => if k = d then first else r.sr.lstart.get k
        | _ => r.sr.lstart.get k) ∧
      g.sr.lend.get k = match w with
        | .loop d _ last _ => if k = d then last else r.sr.lend.get k
        | _ => r.sr.lend.get k) ∧
    g.sr.lact = (match w with
      | .loop _ _ _ v => v
      | _ => r.sr.lact) ∧
    g.sr.segexp = (match w with
      | .seg v => v
      | _ => r.sr.segexp) ∧
    g.sr.segrun = match w with
      | .seg _ => 0
      | _ => r.sr.segrun) ∧
  (∀ (n : Nat) (v : Word) (s : State), n < 0x100 →
    let t := applyWrite (.state n v) s
    let r := s.core.r
    let g := t.core.r
    t = { s with core := { s.core with
      r := { r with lc := g.lc, ag := g.ag, xp := g.xp, sr := { r.sr with fela := g.sr.fela, feli := g.sr.feli, fels := g.sr.fels, vctl := g.sr.vctl } },
      cir := t.core.cir, win := { s.core.win with wlc := t.core.win.wlc } } } ∧
    g.sr.fela = (if n = 1 then 0 else r.sr.fela) ∧ g.sr.feli = (if n = 1 then 0 else r.sr.feli) ∧
    g.sr.fels = (if n = 2 then r.sr.fels &&& ~~~v else r.sr.fels) ∧ g.sr.vctl = (if n = 3 then v &&& 0xF7 else r.sr.vctl) ∧
    (∀ j, j < 64 → t.core.cir.getLsbD j = if n = 4 then
        if j < 4 then s.core.cir.getLsbD j && !v.getLsbD j else decide (16 ≤ j ∧ j < 32) && v.getLsbD j
      else s.core.cir.getLsbD j) ∧
    (∀ k : Fin 4, g.lc.get k = (if n = 0x10 + k.val then v.setWidth 32 else r.lc.get k) ∧
      t.core.win.wlc.getLsbD k.val = (decide (n = 0x10 + k.val) || s.core.win.wlc.getLsbD k.val)) ∧
    (∀ k : Fin 128, g.ag.get k = if n = 0x40 + k.val then v
      else if 0x40 ≤ n ∧ n < 0xC0 ∧ n % 16 < 6 ∧ (0x40 + k.val) / 16 = n / 16 ∧ (k.val % 16 = 6 ∨ k.val % 16 = 7) then 0 else r.ag.get k) ∧
    ∀ k : Fin 64, g.xp.get k = if n = 0xC0 + k.val then v else r.xp.get k) ∧
  (∀ (xs : List (Word × Nat × Byte)) (sc : Nat) (s : State), let t := applyWrite (.push xs sc) s
    t.core.r = s.core.r ∧ t.core.y = s.core.y ∧ t.core.sup = s.core.sup ∧ t.core.log = s.core.log ∧ t.mem = s.mem ∧ t.tags = s.tags ∧ t.dev = s.dev) ∧
  (∀ (s : State) (p q : Result) (b c n : Nat), s.core.land = [p, q] → p.due = some b → q.due = some c → b ≤ n → c ≤ n →
    p.seq < q.seq → p.write.meets q.write = true → (∀ r ∈ s.core.landed, r.due ≠ some b ∧ r.due ≠ some c) →
    let z : State := { s with core := { s.core with land := [] } }
    let keep := fun (rs : List Result) (u : State) => ({ u with core := { u.core with landed := rs } } : State)
    (b = c → landUpTo n s =
      (keep [p, q] (landOne q (landOne p z))).recordAllAt b (p.events ++ q.events ++ [⟨Ev.wawCollide, q.slot, 0, q.pc⟩])) ∧
    (b < c → landUpTo n s = (keep [q] (landOne q ((keep [p] (landOne p z)).recordAllAt b p.events))).recordAllAt c q.events) ∧
    (c < b → landUpTo n s = (keep [p] (landOne p ((keep [q] (landOne q z)).recordAllAt c q.events))).recordAllAt b p.events)) ∧
  ∀ (s : State) (p q : Result) (b : Nat), s.core.land = [q] → s.core.landed = [p] → p.due = some b → p.seq < q.seq →
    p.write.meets q.write = true →
    let z : State := { s with core := { s.core with land := [] } }
    let v : Result := { q with due := some b }
    let u := (landOne v z).core
    let t := ({ landOne v z with core := { u with landed := [p, v] } } : State).recordAllAt b (q.events ++ [⟨Ev.wawCollide, q.slot, 0, q.pc⟩])
    (∀ n, q.due = some b → b ≤ n → landUpTo n s = t) ∧ (q.due = none → b = s.core.beat → landInterlocked 0 s = t)

/-- 04 R134, 06 R189 R192: a scalar store to the own scratchpad is held with its place and bytes; performing a held store writes
its bytes, and no other byte, tag of another block or register. Before it, what an L1 keeps of its block is written back; where a partition
logs dirty pages, that sets their bits (04 R127). -/
def Obligations.StoreFrame : Prop :=
  (∀ (n : Nat) (va : Word) (bs : List Byte) (off : Nat) (s : State), n ∈ [1, 2, 4, 8] → bs.length = n → va.toNat % n = 0 →
    s.core.tx = none → region va = .own off → off < s.core.spadSize → s.watched va n false true = false →
    let h : HStore := {
      pc := s.core.iss.pc, slot := s.core.iss.slot, scope := s.scopeNow, size := n, va := va,
      key := scratchKey s.core.id off, bytes := bs, tag := none, mdata := none, far := false, cached := false, atom := false, lead := true }
    storePieces none n n [(va, bs)] s = .ok () ((s.promote h.key).hold [h])) ∧
  ∀ (h : HStore) (tx : Bool) (s t : State) (es : List LogEnt),
    let v := (noteAccess s s.core.id (some s.core.id) h.scope h.key true).noteL1 s.core.id (s.l1Keeps h) h.key h.bytes.length
    Memory.wf v.mem = true → swf 0 v.tags = true → performStore h tx false s = (es, t) → (h.atom && h.bytes.isEmpty) = false →
    (∀ a, a < h.key ∨ h.key + h.bytes.length ≤ a → getByte t.mem a = getByte v.mem a) ∧
    (∀ j, j < h.bytes.length → getByte t.mem (h.key + j) = h.bytes.getD j 0) ∧
    (∀ k, k / 64 ≠ h.key / 64 → t.mdata k = v.mdata k) ∧ t.core.r = s.core.r ∧ t.core.sup = s.core.sup ∧
    (h.far = false → t.dev = v.dev) ∧
    ((∀ (p : Fin 8) c, s.cfg p.val = some c → c.dlog = false) → v.mem = s.mem ∧ v.tags = s.tags ∧ v.dev = s.dev)

/-- 04 R133 R134, 00 R9, 03 R98: bytes read after a write are the bytes written, every other byte reads as before, and little-endian bytes
give their number back; the operations that write memory and metadata keep their canonical form. -/
def Obligations.MemoryReads : Prop :=
  (∀ (s : State) (k : Nat) (bs : List Byte), Memory.wf s.mem = true →
    (s.poke k bs).peek k bs.length = bs ∧
    ∀ a n, a + n ≤ k ∨ k + bs.length ≤ a → (s.poke k bs).peek a n = s.peek a n) ∧
  (∀ (s : State) (k n d : Nat) (bs : List Byte), Memory.wf s.mem = true →
    Memory.wf (s.poke k bs).mem = true ∧ Memory.wf (s.writeRun k bs).mem = true ∧ Memory.wf (s.zeroBlocks k n).mem = true ∧
    Memory.wf (movePlaces initialByte k d n s.mem) = true) ∧
  (∀ (s : State) (k n d : Nat) (v : BitVec 25) (w : BitVec 24) (p : Bool) (bs : List Byte), swf 0 s.tags = true →
    swf 0 (s.setMdata k v).tags = true ∧ swf 0 (s.setTag k w).tags = true ∧ swf 0 (s.setPoison k p).tags = true ∧
    swf 0 (s.writeRun k bs).tags = true ∧ swf 0 (s.zeroBlocks k n).tags = true ∧ swf 0 (movePlaces 0 k d n s.tags) = true) ∧
  (∀ (s : State) (k : Nat) (v : BitVec 25), swf 0 s.tags = true → (s.setMdata k v).mdata k = v ∧
    ∀ j, j / 64 ≠ k / 64 → (s.setMdata k v).mdata j = s.mdata j) ∧
  ∀ n v : Nat, ofBytes (toBytes n v) = v % 256 ^ n

/-- 05 R152 to R154, 14 R424 R425: a precise trap restores the boundary of its window, the state registers that the window wrote among it,
and enters the handler; RFT with TDISP 0
restores the mode, the loop state and the restart address. -/
def Obligations.TrapEntryAndReturn : Prop :=
  (∀ (cause : BitVec 8) (slot : Nat) (addr arg : Word) (s : State),
    let b := s.core.bnd
    let v := rollback s
    let t := takeTrap cause slot addr arg s
    s.core.openTx = none → s.core.mode ≠ .service → (s.core.mode = .supervisor → v.core.tbusy = false) →
    v.core.r = b ∧ (s.core.win.undo = [] → v.core.sup = { s.core.sup with trootNext := none }) ∧
    t.core.r = { b with pc := v.core.sup.tvec, sr := { b.sr with lact := 0 } } ∧ t.core.bnd = t.core.r ∧ t.core.mode = .supervisor ∧
    t.core.sup = { v.core.sup with
      tcause := cause.setWidth 64, tpc := b.pc, tfpc := s.core.iss.pc, tslot := BitVec.ofNat 64 slot, twin := b.sr.win,
      taddr := addr, targ := arg, tloop := loopState b, tstatus := t.core.sup.tstatus } ∧
    bits t.core.sup.tstatus 0 1 = 1 ∧ bits t.core.sup.tstatus 1 2 = s.core.mode.code ∧
    bits t.core.sup.tstatus 3 61 = bits v.core.sup.tstatus 3 61 ∧
    t.core.land = [] ∧ t.core.win = emptyWindow ∧ t.core.wdcnt = s.core.wdcnt ∧ t.core.hack = s.core.hack ∧
    t.core.eqcnt = s.core.eqcnt ∧ t.core.cir = s.core.cir ∧ t.core.tlb = s.core.tlb ∧ t.mem = s.mem ∧ t.tags = s.tags) ∧
  ∀ (s : State),
    let l := s.core.sup.tloop
    let t := resumeStrand s
    t.core.mode = Mode.ofCode (bits s.core.sup.tstatus 1 2) ∧ t.core.r.pc = s.core.sup.tpc ∧ t.core.bnd = t.core.r ∧
    (∀ k : Fin 4, t.core.r.lc.get k = (vget l k.val).setWidth 32 ∧ t.core.r.sr.lstart.get k = vget l (4 + k.val) ∧
      t.core.r.sr.lend.get k = vget l (8 + k.val)) ∧ t.core.r.sr.lact = vget l 12 ∧
    bits t.core.sup.tstatus 0 1 = 0 ∧ bits t.core.sup.tstatus 4 3 = 0 ∧
    bits t.core.sup.tstatus 1 3 = bits s.core.sup.tstatus 1 3 ∧ t.core.r.x = s.core.r.x ∧ t.core.r.p = s.core.r.p ∧
    t.core.r.bt = s.core.r.bt ∧ t.core.r.vm = s.core.r.vm ∧ t.core.r.m = s.core.r.m ∧ t.mem = s.mem ∧ t.tags = s.tags

/-- 05 R165: DIV and REM are signed and DIVN and REMN unsigned; their results are interlocked; the quotient is truncated toward
zero and the remainder has the dividend's sign; a divisor of 0 gives all ones or the dividend, with DIVZERO; DIV of the most
negative number by -1 gives it back, and REM 0. -/
def Obligations.DivisionAndRemainder : Prop :=
  ∀ (g : Fin 8) (d a b : Fin 64) (i : Instr) (s : State), slotPasses i s = true →
    let t := staleReads s i
    let gives := fun (v : Word) (es : List LogEvent) => exec i s = .next (t.result none (.x d v) es)
    let zero : List LogEvent := [⟨Ev.divzero, t.core.iss.slot, 0, t.core.iss.pc⟩]
    let n := t.x a
    let m := t.x b
    let lowest : Word := 0x8000000000000000
    (i = .div g d a b ∨ i = .divn g d a b → m = 0 → gives (BitVec.allOnes 64) zero) ∧
    (i = .rem g d a b ∨ i = .remn g d a b → m = 0 → gives n zero) ∧
    (i = .div g d a b → n = lowest → m = BitVec.allOnes 64 → gives lowest []) ∧
    (i = .rem g d a b → n = lowest → m = BitVec.allOnes 64 → gives 0 []) ∧
    (m ≠ 0 → ¬(n = lowest ∧ m = BitVec.allOnes 64) → ∃ q r : Word,
      q.toInt * m.toInt + r.toInt = n.toInt ∧ r.toInt.natAbs < m.toInt.natAbs ∧ (0 ≤ n.toInt → 0 ≤ r.toInt) ∧
      (n.toInt ≤ 0 → r.toInt ≤ 0) ∧ q.toInt.natAbs * m.toInt.natAbs ≤ n.toInt.natAbs ∧
      (i = .div g d a b → gives q []) ∧ (i = .rem g d a b → gives r [])) ∧
    (m ≠ 0 → ∃ q r : Word, q.toNat * m.toNat + r.toNat = n.toNat ∧ r.toNat < m.toNat ∧
      (i = .divn g d a b → gives q []) ∧ (i = .remn g d a b → gives r []))

/-- 05 R174: CHKERR has its fields a and b and func[3:1] zero, and func[0] selects the clear; it delivers CIR with latency 2, and
with func[0] = 1 then clears CIR[3:0] and COUNT. -/
def Obligations.ErrorRead : Prop :=
  (∀ (g : Fin 8) (d : Fin 64) (c : Fin 2), encode (.chkerr g d c) = some (.a (packA g.val 0x47 d.val 0 c.val))) ∧
  (∀ g d f : Nat, g < 8 → d < 64 → f < 65536 → decodeA (g * 2 ^ 29 + 0x47 * 2 ^ 22 + d * 2 ^ 16 + f) =
    if f < 2 then .ok (.chkerr (Fin.ofNat 8 g) (Fin.ofNat 64 d) (Fin.ofNat 2 f)) else .error .bundleReserved) ∧
  ∀ (g : Fin 8) (d : Fin 64) (c : Fin 2) (s : State), slotPasses (.chkerr g d c) s = true →
    let t := staleReads s (.chkerr g d c)
    ∃ cir : Word, (∀ k, 4 ≤ k → k < 16 ∨ 32 ≤ k → cir.getLsbD k = t.core.cir.getLsbD k) ∧
      (c = 1 → bits cir 0 4 = 0 ∧ bits cir 16 16 = 0) ∧ (c = 0 → cir = t.core.cir) ∧
      exec (.chkerr g d c) s =
        .next (({ t with core := { t.core with cir := cir } } : State).result (some 2) (xWrite t d t.core.cir) [])

/-- 05 R180: a taken transfer deactivates every active loop whose range does not hold its target, and the loops nested inside
it; the others stay active in their order. -/
def Obligations.LoopsLeft : Prop :=
  (∀ (s : State) (t : Word), s.core.iss.target = some t → (nextPc s).1 = t ∧ ∃ z, (nextPc s).2.2.2 = leaveLoops t z ∧
    (s.core.iss.settle = false → z.core.r = s.core.r)) ∧
  ∀ (s : State) (t : Word) (ks : List Nat), activeLoops s.core.r.sr.lact = ks → ks.Nodup →
    let holds := fun (k : Nat) => (loopBounds s.core.r.sr k).1 ≤ t ∧ t ≤ (loopBounds s.core.r.sr k).2
    let after := activeLoops (leaveLoops t s).core.r.sr.lact
    (∃ n, after = ks.drop n) ∧
    (∀ (i k : Nat), ks[i]? = some k → (k ∈ after ↔ ∀ (j m : Nat), i ≤ j → ks[j]? = some m → holds m)) ∧
    (leaveLoops t s).core.r = { s.core.r with sr := { s.core.r.sr with lact := (leaveLoops t s).core.r.sr.lact } }
end

