-- ==== Sys2Proof/Laws/Encoding.lean ====
section
/-! SUPPORT. The decoders on packed fields. -/

namespace Sys2Proof.Laws

open Sys2Proof

theorem decodeA_pack {g op d a lo : Nat} (h0 : 0 < op) (hop : op < 128) (hd : d < 64) (ha : a < 64) (hl : lo < 1024) :
    decodeA (packA g op d a lo) = decodeAFields (Fin.ofNat 8 g) op d a lo := by
  have hw : packA g op d a lo ≠ 0 := by unfold packA; omega
  have h1 : packA g op d a lo / 4194304 % 128 = op := by unfold packA; omega
  have h2 : packA g op d a lo / 65536 % 64 = d := by unfold packA; omega
  have h3 : packA g op d a lo / 1024 % 64 = a := by unfold packA; omega
  have h4 : packA g op d a lo % 1024 = lo := by unfold packA; omega
  have h5 : packA g op d a lo / 536870912 = g := by unfold packA; omega
  simp [decodeA, hw, h1, h2, h3, h4, h5, Nat.pos_iff_ne_zero.mp h0]

theorem decodeX_pack {g op r disp : Nat} (hg : g < 8) (hop : op < 64) (hr : r < 64) (hd : disp < 4294967296) :
    decodeX (packX g op r disp) = decodeXFields (Fin.ofNat 8 g) op r disp := by
  have hw : packX g op r disp / 140737488355328 ≠ 0 := by unfold packX; omega
  have h1 : packX g op r disp / 2199023255552 % 64 = op := by unfold packX; omega
  have h2 : packX g op r disp / 4294967296 % 64 = r := by unfold packX; omega
  have h3 : packX g op r disp % 4294967296 = disp := by unfold packX; omega
  have h4 : Fin.ofNat 8 (packX g op r disp / 274877906944) = Fin.ofNat 8 g := by
    apply Fin.ext; simp only [Fin.ofNat]; unfold packX; omega
  simp only [decodeX, hw, if_false, h1, h2, h3, h4]

theorem decodeL_pack {g op dt b disp : Nat} (h0 : 0 < op) (hop : op < 128) (hd : dt < 4096) (hb : b < 64)
    (hl : disp < 4096) : decodeL (packL g op dt b disp) = decodeLFields (Fin.ofNat 8 g) op dt b disp := by
  have hw : packL g op dt b disp ≠ 0 := by unfold packL; omega
  have h1 : packL g op dt b disp / 1073741824 % 128 = op := by unfold packL; omega
  have h2 : packL g op dt b disp / 262144 % 4096 = dt := by unfold packL; omega
  have h3 : packL g op dt b disp / 4096 % 64 = b := by unfold packL; omega
  have h4 : packL g op dt b disp % 4096 = disp := by unfold packL; omega
  have h5 : packL g op dt b disp / 137438953472 = g := by unfold packL; omega
  simp [decodeL, hw, h1, h2, h3, h4, h5, Nat.pos_iff_ne_zero.mp h0]

theorem decodeV_pack {g op d a b s : Nat} (h0 : 0 < op) (hop : op < 256) (hd : d < 4096) (ha : a < 4096)
    (hb : b < 4096) (hs : s < 2) : decodeV (packV g op d a b s) = decodeVFields (Fin.ofNat 8 g) op d a b s := by
  have hw : packV g op d a b s ≠ 0 := by unfold packV; omega
  have h1 : packV g op d a b s / 137438953472 % 256 = op := by unfold packV; omega
  have h2 : packV g op d a b s / 33554432 % 4096 = d := by unfold packV; omega
  have h3 : packV g op d a b s / 8192 % 4096 = a := by unfold packV; omega
  have h4 : packV g op d a b s / 2 % 4096 = b := by unfold packV; omega
  have h5 : packV g op d a b s % 2 = s := by unfold packV; omega
  have h6 : packV g op d a b s / 35184372088832 = g := by unfold packV; omega
  simp [decodeV, hw, h1, h2, h3, h4, h5, h6, Nat.pos_iff_ne_zero.mp h0]

theorem decodeE_pack {g eng op sa sb sc sw p r imm : Nat} (he : eng < 8) (h0 : 0 < op) (hop : op < 128) (hsa : sa < 4)
    (hsb : sb < 4) (hsc : sc < 4) (hsw : sw < 16) (hp : p < 64) (hr : r < 2) (hi : imm < 1024) :
    decodeE (packE g eng op sa sb sc sw p r imm) =
      decodeEFields (Fin.ofNat 8 g) (eng * 128 + op) sa sb sc sw p r imm := by
  have hw : packE g eng op sa sb sc sw p r imm ≠ 0 := by unfold packE; omega
  have h1 : packE g eng op sa sb sc sw p r imm / 134217728 % 128 = op := by unfold packE; omega
  have h2 : packE g eng op sa sb sc sw p r imm / 134217728 % 1024 = eng * 128 + op := by unfold packE; omega
  have h3 : packE g eng op sa sb sc sw p r imm / 33554432 % 4 = sa := by unfold packE; omega
  have h4 : packE g eng op sa sb sc sw p r imm / 8388608 % 4 = sb := by unfold packE; omega
  have h5 : packE g eng op sa sb sc sw p r imm / 2097152 % 4 = sc := by unfold packE; omega
  have h6 : packE g eng op sa sb sc sw p r imm / 131072 % 16 = sw := by unfold packE; omega
  have h7 : packE g eng op sa sb sc sw p r imm / 2048 % 64 = p := by unfold packE; omega
  have h8 : packE g eng op sa sb sc sw p r imm / 1024 % 2 = r := by unfold packE; omega
  have h9 : packE g eng op sa sb sc sw p r imm % 1024 = imm := by unfold packE; omega
  have h10 : packE g eng op sa sb sc sw p r imm / 137438953472 = g := by unfold packE; omega
  simp [decodeE, hw, h1, h2, h3, h4, h5, h6, h7, h8, h9, h10, Nat.pos_iff_ne_zero.mp h0]

theorem packVOp_lt (o : VOp) : packVOp o < 4096 := by
  cases o with
  | line l => simp only [packVOp, packLine]; have := l.dir.isLt; have := l.m.isLt; have := l.line.isLt; omega
  | _ k => simp only [packVOp]; omega

/-- A vector operand's 12 bits give it back. -/
theorem voperand_pack (o : VOp) : voperand (packVOp o) = .ok o := by
  cases o with
  | line l =>
    have h1 := l.dir.isLt; have h2 := l.m.isLt; have h3 := l.line.isLt
    have hl : packLine l < 2048 := by simp only [packLine]; omega
    have : lineOf (packLine l) = l := by
      obtain ⟨d, m, k⟩ := l
      simp only [lineOf, packLine] at *
      congr 1 <;> apply Fin.ext <;> simp only [Fin.ofNat] <;> omega
    simp [voperand, packVOp, hl, this]
  | port k => revert k; decide
  | xreg k => revert k; decide
  | imm k => revert k; decide +kernel
  | mask k => revert k; decide
  | xdest k => revert k; decide

theorem lineOf_pack (l : Line) : lineOf (packLine l) = l := by
  have h1 := l.dir.isLt; have h2 := l.m.isLt; have h3 := l.line.isLt
  obtain ⟨d, m, k⟩ := l
  simp only [lineOf, packLine] at *
  congr 1 <;> apply Fin.ext <;> simp only [Fin.ofNat] <;> omega

end Sys2Proof.Laws
end

