-- ==== Sys2Proof/Laws/Engines.lean ====
section
/-! SUPPORT. A unit of an engine's work whose places are found and whose writes can be performed is performed (08 R262). -/

namespace Sys2Proof.Laws

open Sys2Proof.Machine Sys2Proof.Safety

/-- Writes that can be performed at once complete their unit, whatever position their entries show. -/
theorem commitShown_of_commits {q : Nat} {c : Cmd} {ag : Agent} {ws : List BWrite} {shown adv : State → State} {s t : State}
    (h : commits q c ag ws shown adv s t) : commitShown q c ag ws [] shown adv s = .next t := by
  obtain ⟨u, h1, h2, ⟨h3, rfl⟩ | ⟨h3, v, h4, rfl⟩⟩ := h
  · simp [commitShown, h1, h2, h3]
  · simp [commitShown, h1, h2, h3, h4]

/-- Writes that can be performed at once complete their unit. -/
theorem commitUnit_of_commits {q : Nat} {c : Cmd} {ag : Agent} {ws : List BWrite} {adv : State → State} {s t : State}
    (h : commits q c ag ws adv adv s t) : commitUnit q c ag ws adv s = .next t := by
  exact commitShown_of_commits h

/-- A unit of the scout engine. -/
theorem scoutWrite_of_writes {c : Cmd} {es : List EElem} {adv : State → State} {s t : State}
    (h : writesElems 1 c (scoutAgent s (s.work 1).prm false) es adv s t) : scoutWrite c es adv s = .next t := by
  obtain ⟨ds, u, h1, h2⟩ := h
  simp [scoutWrite, h1, Act.eng, commitUnit_of_commits h2]

/-- A unit of the vector macro engine. -/
theorem vmacroWrite_of_writes {c : Cmd} {es : List EElem} {adv : State → State} {s t : State}
    (h : writesElems 3 c (vmacroAgent s (s.work 3).prm) es adv s t) : vmacroWrite c es adv s = .next t := by
  obtain ⟨ds, u, h1, h2⟩ := h
  simp [vmacroWrite, h1, Act.eng, commitUnit_of_commits h2]

/-- A chunk of the copy engine. -/
theorem runChunk_of_done {c : Cmd} {ag : Agent} {far : Word → BitVec 24} {ue : Option ReadError} {srcs dsts : List Word}
    {build : SMap EBlock → SMap (Word × Loc) → State → Except (BitVec 8 × Word) ChunkOut} {s t : State}
    (h : chunkDone c ag far ue srcs dsts build s t) : runChunk c ag far ue srcs dsts build s = .next t := by
  obtain ⟨ls, u, ds, v, o, h1, h2, h3, h4⟩ := h
  simp only [runChunk, h1, h2, Act.eng, h3, finishChunk]
  exact commitUnit_of_commits h4

end Sys2Proof.Laws
end

