-- ==== Sys2Proof/Laws/Frame.lean ====
section
/-! SUPPORT. What a frame of a held strand gives the debugger (12 R370, 14 R432). -/

namespace Sys2Proof.Laws
open Sys2Proof.Machine

/-- The commands that a frame gives back leave the Retrograde registers alone. -/
theorem reissue_log (cs : List (Nat × Cmd)) (s : State) : (reissue cs s).core.log = s.core.log := by
  induction cs generalizing s with
  | nil => rfl
  | cons x cs ih =>
    show (reissue cs _).core.log = _
    rw [ih]
    dsimp only
    split <;> rfl

/-- A frame without a spill area gives the Retrograde registers back. -/
theorem restoreFrame_log (f : FrameData) (s : State) (h : field f.low 6 1 / 4 % 2 ≠ 1) :
    (restoreFrame f s).2.core.log = frameLog f.low := by
  unfold restoreFrame
  simp only [if_neg h]

/-- The Retrograde registers of a held strand are those of its frame. -/
theorem dbgOpen_log (p : Fin 8) (b : List Byte) (s : State) (h : field (dbgOpen p b s).1.low 6 1 / 4 % 2 ≠ 1) :
    (dbgOpen p b s).2.2.core.log = frameLog (dbgOpen p b s).1.low := by
  unfold dbgOpen at h ⊢
  simp only at h ⊢
  rw [reissue_log]
  exact restoreFrame_log _ _ h

end Sys2Proof.Laws
end

