-- ==== Sys2Proof/Laws/Memory.lean ====
section
/-! SUPPORT. Sparse maps and memory: every operation keeps the canonical form, and what reads after writes give. -/

namespace Sys2Proof.Laws

open Sys2Proof.Machine

variable {α : Type} [DecidableEq α]

/-- A map whose keys rise from `lo + 1` rises from `lo`. -/
theorem sortedFrom_mono {d : α} {m : SMap α} {lo hi : Nat} (h : lo ≤ hi) (hm : sortedFrom d hi m = true) :
    sortedFrom d lo m = true := by
  cases m with
  | nil => rfl
  | cons e r =>
    simp only [sortedFrom, Bool.and_eq_true, decide_eq_true_eq] at hm ⊢
    exact ⟨⟨le_trans h hm.1.1, hm.1.2⟩, hm.2⟩

/-- A key below every listed key reads as the default. -/
theorem sget_below {d : α} {m : SMap α} {lo k : Nat} (hm : sortedFrom d lo m = true) (hk : k < lo) : sget m d k = d := by
  induction m generalizing lo with
  | nil => rfl
  | cons e r ih =>
    simp only [sortedFrom, Bool.and_eq_true, decide_eq_true_eq] at hm
    have : ¬ e.1 = k := by omega
    simp only [sget, this, if_false]
    exact ih hm.2 (by omega)

/-- A write keeps the canonical form. -/
theorem sset_sorted {d : α} {m : SMap α} {lo k : Nat} {v : α} (hm : sortedFrom d lo m = true) (hk : lo ≤ k) :
    sortedFrom d lo (sset m d k v) = true := by
  induction m generalizing lo with
  | nil =>
    by_cases hv : v = d <;> simp [sset, hv, sortedFrom, hk]
  | cons e r ih =>
    obtain ⟨k', v'⟩ := e
    have h0 := hm
    simp only [sortedFrom, Bool.and_eq_true, decide_eq_true_eq] at hm
    obtain ⟨⟨h1, h2⟩, h3⟩ := hm
    simp only [sset]
    split
    · split
      · exact h0
      · rename_i hlt hv
        simp [sortedFrom, hk, hv, h2, h3, Nat.succ_le_of_lt hlt]
    · split
      · rename_i _ he
        split
        · exact sortedFrom_mono (by omega) h3
        · rename_i hv; subst he; simp [sortedFrom, h1, hv, h3]
      · rename_i hn he
        simp only [sortedFrom, Bool.and_eq_true, decide_eq_true_eq]
        exact ⟨⟨h1, h2⟩, ih h3 (by omega)⟩

theorem sset_wf {d : α} {m : SMap α} {k : Nat} {v : α} (hm : swf d m = true) : swf d (sset m d k v) = true :=
  sset_sorted hm (Nat.zero_le k)

/-- What a map in canonical form reads after a write. -/
theorem sget_sset_sorted {d : α} {m : SMap α} {lo k j : Nat} {v : α} (hm : sortedFrom d lo m = true) :
    sget (sset m d k v) d j = if k = j then v else sget m d j := by
  induction m generalizing lo with
  | nil => by_cases hv : v = d <;> by_cases hk : k = j <;> simp [sset, sget, hv, hk]
  | cons e r ih =>
    obtain ⟨k', v'⟩ := e
    simp only [sortedFrom, Bool.and_eq_true, decide_eq_true_eq] at hm
    obtain ⟨⟨h1, h2⟩, h3⟩ := hm
    simp only [sset]
    split
    · rename_i hlt
      have hb : k = j → sget ((k', v') :: r) d j = d := by
        rintro rfl
        have : ¬ k' = k := by omega
        simp only [sget, this, if_false]
        exact sget_below h3 (by omega)
      split
      · rename_i hv
        split
        · rename_i hk; rw [hb hk, hv]
        · rfl
      · split
        · rename_i hk; simp [sget, hk]
        · rename_i hk; rw [sget, if_neg hk]
    · split
      · rename_i _ he
        subst he
        split
        · rename_i hv
          split
          · rename_i hk; subst hk; rw [hv]; exact sget_below h3 (by omega)
          · rename_i hk; simp [sget, hk]
        · by_cases hk : k = j <;> simp [sget, hk]
      · rename_i hn he
        simp only [sget, ih h3]
        by_cases hk : k' = j
        · have : ¬ k = j := by omega
          simp [hk, this]
        · simp [hk]

theorem sget_sset {d : α} {m : SMap α} {k j : Nat} {v : α} (hm : swf d m = true) :
    sget (sset m d k v) d j = if k = j then v else sget m d j := sget_sset_sorted hm

/-! Memory. -/

theorem setByte_wf {m : List Host.Cell} {k : Nat} {b : Byte} (hm : Memory.wf m = true) : Memory.wf (setByte m k b) = true :=
  sset_wf hm

theorem getByte_setByte {m : List Host.Cell} {k j : Nat} {b : Byte} (hm : Memory.wf m = true) :
    getByte (setByte m k b) j = if k = j then b else getByte m j := sget_sset hm

theorem setBytes_wf {m : List Host.Cell} {k : Nat} {bs : List Byte} (hm : Memory.wf m = true) :
    Memory.wf (setBytes m k bs) = true := by
  induction bs generalizing m k with
  | nil => exact hm
  | cons b r ih => exact ih (setByte_wf hm)

/-- A byte after a run of bytes is written. -/
theorem getByte_setBytes {m : List Host.Cell} {k j : Nat} {bs : List Byte} (hm : Memory.wf m = true) :
    getByte (setBytes m k bs) j = if k ≤ j ∧ j < k + bs.length then bs.getD (j - k) 0 else getByte m j := by
  induction bs generalizing m k with
  | nil =>
    have : ¬ (k ≤ j ∧ j < k + 0) := by omega
    simp only [setBytes, List.length_nil, this, if_false]
  | cons b r ih =>
    simp only [setBytes, List.length_cons]
    rw [ih (setByte_wf hm), getByte_setByte hm]
    by_cases h1 : k = j
    · subst h1
      have h2 : ¬ (k + 1 ≤ k ∧ k < k + 1 + r.length) := by omega
      simp
    · by_cases h3 : k + 1 ≤ j ∧ j < k + 1 + r.length
      · have h4 : k ≤ j ∧ j < k + (r.length + 1) := by omega
        have h5 : j - k = (j - (k + 1)) + 1 := by omega
        rw [if_pos h3, if_pos h4, h5, List.getD_cons_succ]
      · have h4 : ¬ (k ≤ j ∧ j < k + (r.length + 1)) := by omega
        rw [if_neg h3, if_neg h4, if_neg h1]

theorem poke_wf {s : State} {k : Nat} {bs : List Byte} (h : Memory.wf s.mem = true) : Memory.wf (s.poke k bs).mem = true :=
  setBytes_wf h

theorem setMdata_wf {s : State} {k : Nat} {v : BitVec 25} (h : swf 0 s.tags = true) : swf 0 (s.setMdata k v).tags = true :=
  sset_wf h

/-- A filter of a map in canonical form is in canonical form. -/
theorem sortedFrom_filter {d : α} {m : SMap α} {lo : Nat} (p : Nat × α → Bool) (hm : sortedFrom d lo m = true) :
    sortedFrom d lo (m.filter p) = true := by
  induction m generalizing lo with
  | nil => rfl
  | cons e r ih =>
    have h0 := hm
    simp only [sortedFrom, Bool.and_eq_true, decide_eq_true_eq] at hm
    by_cases hp : p e = true
    · simp only [List.filter_cons, hp, if_true, sortedFrom, Bool.and_eq_true, decide_eq_true_eq]
      exact ⟨hm.1, ih hm.2⟩
    · simp only [List.filter_cons, hp]
      exact sortedFrom_mono (by omega) (ih hm.2)

theorem setTag_wf {s : State} {k : Nat} {v : BitVec 24} (h : swf 0 s.tags = true) : swf 0 (s.setTag k v).tags = true :=
  setMdata_wf h

theorem setPoison_wf {s : State} {k : Nat} {p : Bool} (h : swf 0 s.tags = true) : swf 0 (s.setPoison k p).tags = true :=
  setMdata_wf h

theorem writeRun_wf {s : State} {k : Nat} {bs : List Byte} (h : Memory.wf s.mem = true) : Memory.wf (s.writeRun k bs).mem = true := by
  unfold State.writeRun
  dsimp only
  split
  · exact poke_wf (s := s) h
  · exact poke_wf h

theorem zeroBlocks_wf {s : State} {k n : Nat} (h : Memory.wf s.mem = true) : Memory.wf (s.zeroBlocks k n).mem = true :=
  sortedFrom_filter _ h

theorem zeroBlocks_tags_wf {s : State} {k n : Nat} (h : swf 0 s.tags = true) : swf 0 (s.zeroBlocks k n).tags = true :=
  sortedFrom_filter _ h

/-- Writing a list of entries keeps the canonical form. -/
theorem sset_foldl_wf {d : α} {β : Type} (k : β → Nat) (v : β → α) (l : List β) {m : SMap α} (hm : swf d m = true) :
    swf d (l.foldl (fun m e => sset m d (k e) (v e)) m) = true := by
  induction l generalizing m with
  | nil => exact hm
  | cons e r ih => exact ih (sset_wf hm)

theorem movePlaces_wf {d : α} {lo dst len : Nat} {m : SMap α} (hm : swf d m = true) : swf d (movePlaces d lo dst len m) = true :=
  sset_foldl_wf _ _ _ (sortedFrom_filter _ hm)

/-- `canonical` answers a map in canonical form that reads as the given one. -/
theorem canonical_wf (d : α) (m : SMap α) : swf d (canonical d m) = true := by
  unfold canonical; split
  · assumption
  · clear * -
    induction m with
    | nil => rfl
    | cons e r ih => exact sset_wf ih

theorem canonical_of_wf {d : α} {m : SMap α} (h : swf d m = true) : canonical d m = m := by simp [canonical, h]

theorem sget_canonical (d : α) (m : SMap α) (k : Nat) : sget (canonical d m) d k = sget m d k := by
  unfold canonical; split
  · rfl
  · clear * -
    induction m with
    | nil => rfl
    | cons e r ih =>
      have hw : swf d (r.foldr (fun e a => sset a d e.1 e.2) []) = true := by
        clear * -
        induction r with
        | nil => rfl
        | cons e r ih => exact sset_wf ih
      simp only [List.foldr_cons, sget_sset hw, sget, ih]

/-- `tidy` changes no machine whose memory and metadata are in canonical form, and no byte and no block of any. -/
theorem tidy_of_wf {s : State} (hm : Memory.wf s.mem = true) (ht : swf 0 s.tags = true) : s.tidy = s := by
  have h1 : canonical initialByte s.mem = s.mem := canonical_of_wf hm
  have h2 : canonical 0 s.tags = s.tags := canonical_of_wf ht
  unfold State.tidy; rw [h1, h2]

theorem getByte_tidy (s : State) (k : Nat) : getByte s.tidy.mem k = getByte s.mem k := sget_canonical initialByte s.mem k
theorem mdata_tidy (s : State) (k : Nat) : s.tidy.mdata k = s.mdata k := sget_canonical 0 s.tags (k / 64)

/-- What a turn ends in: a next state with memory in canonical form, or the stop of the turn itself. -/
theorem endTurn_wf {s t : State} {rest : List Turn} {e : Ends} (h : endTurn s rest e = .next t) :
    Memory.wf t.mem = true ∧ swf 0 t.tags = true := by
  cases e with
  | next u =>
    cases hs : u.dev.stalled <;> simp only [endTurn, hs] at h <;> cases h <;>
      exact ⟨canonical_wf initialByte _, canonical_wf 0 _⟩
  | fault f => cases h
  | refused r => cases h

theorem reset_memory_wf : Memory.wf State.reset.mem = true := rfl

end Sys2Proof.Laws
end

