-- ==== Sys2Proof/Laws/PerInstr.lean ====
section
/-! SUPPORT. A statement about every instruction, one lemma per constructor: its syllable lies within its slot's width. -/

namespace Sys2Proof.Laws

open Sys2Proof.Safety

theorem fits_a {g op d a lo : Nat} (hg : g < 8) (hop : op < 128) (hd : d < 64) (ha : a < 64) (hl : lo < 1024) :
    fits (.a (packA g op d a lo)) = true := by
  unfold packA; exact decide_eq_true (by omega)

theorem fits_pair {g op d a lo w : Nat} (hg : g < 8) (hop : op < 128) (hd : d < 64) (ha : a < 64) (hl : lo < 1024)
    (hw : w < 4294967296) : fits (.pair (packA g op d a lo) w) = true := by
  unfold packA; exact Bool.and_eq_true_iff.mpr ⟨decide_eq_true (by omega), decide_eq_true (by omega)⟩

theorem fits_x {g op r disp : Nat} (hg : g < 8) (hop : op < 64) (hr : r < 64) (hd : disp < 4294967296) :
    fits (.x (packX g op r disp)) = true := by
  unfold packX; exact decide_eq_true (by omega)

theorem fits_l {g op dt b disp : Nat} (hg : g < 8) (hop : op < 128) (hd : dt < 4096) (hb : b < 64) (hl : disp < 4096) :
    fits (.l (packL g op dt b disp)) = true := by
  unfold packL; exact decide_eq_true (by omega)

theorem packLine_lt (l : Line) : packLine l < 2048 := by
  have := l.dir.isLt; have := l.m.isLt; have := l.line.isLt
  simp only [packLine]; omega

theorem fits_v {g op d a b s : Nat} (hg : g < 8) (hop : op < 256) (hd : d < 4096) (ha : a < 4096) (hb : b < 4096) (hs : s < 2) :
    fits (.v (packV g op d a b s)) = true := by
  unfold packV; exact decide_eq_true (by omega)

theorem fits_e {g eng op sa sb sc sw p r imm : Nat} (hg : g < 8) (he : eng < 8) (hop : op < 128) (hsa : sa < 4) (hsb : sb < 4)
    (hsc : sc < 4) (hsw : sw < 16) (hp : p < 64) (hr : r < 2) (hi : imm < 1024) :
    fits (.e (packE g eng op sa sb sc sw p r imm)) = true := by
  unfold packE; exact decide_eq_true (by omega)

namespace Fits

/-- The instruction's syllable, if it has one, lies within the width of its slot (02 R39). -/
def Statement (i : Instr) : Prop := ∀ sy, encode i = some sy → fits sy = true

theorem nop : Statement .nop := fun _ h => by cases h; rfl
theorem add (g : Fin 8) (d a b : Fin 64) : Statement (.add g d a b) :=
  fun _ h => by cases h; exact fits_a (by omega) (by omega) (by omega) (by omega) (by omega)
theorem sub (g : Fin 8) (d a b : Fin 64) : Statement (.sub g d a b) :=
  fun _ h => by cases h; exact fits_a (by omega) (by omega) (by omega) (by omega) (by omega)
theorem mul (g : Fin 8) (d a b : Fin 64) : Statement (.mul g d a b) :=
  fun _ h => by cases h; exact fits_a (by omega) (by omega) (by omega) (by omega) (by omega)
theorem mulh (g : Fin 8) (d a b : Fin 64) : Statement (.mulh g d a b) :=
  fun _ h => by cases h; exact fits_a (by omega) (by omega) (by omega) (by omega) (by omega)
theorem mulhn (g : Fin 8) (d a b : Fin 64) : Statement (.mulhn g d a b) :=
  fun _ h => by cases h; exact fits_a (by omega) (by omega) (by omega) (by omega) (by omega)
theorem div (g : Fin 8) (d a b : Fin 64) : Statement (.div g d a b) :=
  fun _ h => by cases h; exact fits_a (by omega) (by omega) (by omega) (by omega) (by omega)
theorem divn (g : Fin 8) (d a b : Fin 64) : Statement (.divn g d a b) :=
  fun _ h => by cases h; exact fits_a (by omega) (by omega) (by omega) (by omega) (by omega)
theorem rem (g : Fin 8) (d a b : Fin 64) : Statement (.rem g d a b) :=
  fun _ h => by cases h; exact fits_a (by omega) (by omega) (by omega) (by omega) (by omega)
theorem remn (g : Fin 8) (d a b : Fin 64) : Statement (.remn g d a b) :=
  fun _ h => by cases h; exact fits_a (by omega) (by omega) (by omega) (by omega) (by omega)
theorem andOp (g : Fin 8) (d a b : Fin 64) : Statement (.andOp g d a b) :=
  fun _ h => by cases h; exact fits_a (by omega) (by omega) (by omega) (by omega) (by omega)
theorem orOp (g : Fin 8) (d a b : Fin 64) : Statement (.orOp g d a b) :=
  fun _ h => by cases h; exact fits_a (by omega) (by omega) (by omega) (by omega) (by omega)
theorem xorOp (g : Fin 8) (d a b : Fin 64) : Statement (.xorOp g d a b) :=
  fun _ h => by cases h; exact fits_a (by omega) (by omega) (by omega) (by omega) (by omega)
theorem andn (g : Fin 8) (d a b : Fin 64) : Statement (.andn g d a b) :=
  fun _ h => by cases h; exact fits_a (by omega) (by omega) (by omega) (by omega) (by omega)
theorem sll (g : Fin 8) (d a b : Fin 64) : Statement (.sll g d a b) :=
  fun _ h => by cases h; exact fits_a (by omega) (by omega) (by omega) (by omega) (by omega)
theorem srl (g : Fin 8) (d a b : Fin 64) : Statement (.srl g d a b) :=
  fun _ h => by cases h; exact fits_a (by omega) (by omega) (by omega) (by omega) (by omega)
theorem sra (g : Fin 8) (d a b : Fin 64) : Statement (.sra g d a b) :=
  fun _ h => by cases h; exact fits_a (by omega) (by omega) (by omega) (by omega) (by omega)
theorem rol (g : Fin 8) (d a b : Fin 64) : Statement (.rol g d a b) :=
  fun _ h => by cases h; exact fits_a (by omega) (by omega) (by omega) (by omega) (by omega)
theorem minOp (g : Fin 8) (d a b : Fin 64) : Statement (.minOp g d a b) :=
  fun _ h => by cases h; exact fits_a (by omega) (by omega) (by omega) (by omega) (by omega)
theorem maxOp (g : Fin 8) (d a b : Fin 64) : Statement (.maxOp g d a b) :=
  fun _ h => by cases h; exact fits_a (by omega) (by omega) (by omega) (by omega) (by omega)
theorem minn (g : Fin 8) (d a b : Fin 64) : Statement (.minn g d a b) :=
  fun _ h => by cases h; exact fits_a (by omega) (by omega) (by omega) (by omega) (by omega)
theorem maxn (g : Fin 8) (d a b : Fin 64) : Statement (.maxn g d a b) :=
  fun _ h => by cases h; exact fits_a (by omega) (by omega) (by omega) (by omega) (by omega)
theorem absOp (g : Fin 8) (d a : Fin 64) : Statement (.absOp g d a) :=
  fun _ h => by cases h; exact fits_a (by omega) (by omega) (by omega) (by omega) (by omega)
theorem clz (g : Fin 8) (d a : Fin 64) : Statement (.clz g d a) :=
  fun _ h => by cases h; exact fits_a (by omega) (by omega) (by omega) (by omega) (by omega)
theorem ctz (g : Fin 8) (d a : Fin 64) : Statement (.ctz g d a) :=
  fun _ h => by cases h; exact fits_a (by omega) (by omega) (by omega) (by omega) (by omega)
theorem popc (g : Fin 8) (d a : Fin 64) : Statement (.popc g d a) :=
  fun _ h => by cases h; exact fits_a (by omega) (by omega) (by omega) (by omega) (by omega)
theorem sext (g : Fin 8) (d a : Fin 64) (w : Fin 3) : Statement (.sext g d a w) :=
  fun _ h => by cases h; exact fits_a (by omega) (by omega) (by omega) (by omega) (by omega)
theorem zext (g : Fin 8) (d a : Fin 64) (w : Fin 3) : Statement (.zext g d a w) :=
  fun _ h => by cases h; exact fits_a (by omega) (by omega) (by omega) (by omega) (by omega)
theorem bfx (g : Fin 8) (d a b : Fin 64) (s : Fin 2) : Statement (.bfx g d a b s) :=
  fun _ h => by cases h; exact fits_a (by omega) (by omega) (by omega) (by omega) (by omega)
theorem bfi (g : Fin 8) (d a b : Fin 64) : Statement (.bfi g d a b) :=
  fun _ h => by cases h; exact fits_a (by omega) (by omega) (by omega) (by omega) (by omega)
theorem sel (g : Fin 8) (d a b : Fin 64) (n : Fin 16) : Statement (.sel g d a b n) :=
  fun _ h => by cases h; exact fits_a (by omega) (by omega) (by omega) (by omega) (by omega)
theorem addi (g : Fin 8) (d a : Fin 64) (i : Fin 1024) : Statement (.addi g d a i) :=
  fun _ h => by cases h; exact fits_a (by omega) (by omega) (by omega) (by omega) (by omega)
theorem andi (g : Fin 8) (d a : Fin 64) (i : Fin 1024) : Statement (.andi g d a i) :=
  fun _ h => by cases h; exact fits_a (by omega) (by omega) (by omega) (by omega) (by omega)
theorem ori (g : Fin 8) (d a : Fin 64) (i : Fin 1024) : Statement (.ori g d a i) :=
  fun _ h => by cases h; exact fits_a (by omega) (by omega) (by omega) (by omega) (by omega)
theorem xori (g : Fin 8) (d a : Fin 64) (i : Fin 1024) : Statement (.xori g d a i) :=
  fun _ h => by cases h; exact fits_a (by omega) (by omega) (by omega) (by omega) (by omega)
theorem slli (g : Fin 8) (d a : Fin 64) (i : Fin 64) : Statement (.slli g d a i) :=
  fun _ h => by cases h; exact fits_a (by omega) (by omega) (by omega) (by omega) (by omega)
theorem srli (g : Fin 8) (d a : Fin 64) (i : Fin 64) : Statement (.srli g d a i) :=
  fun _ h => by cases h; exact fits_a (by omega) (by omega) (by omega) (by omega) (by omega)
theorem srai (g : Fin 8) (d a : Fin 64) (i : Fin 64) : Statement (.srai g d a i) :=
  fun _ h => by cases h; exact fits_a (by omega) (by omega) (by omega) (by omega) (by omega)
theorem muli (g : Fin 8) (d a : Fin 64) (i : Fin 1024) : Statement (.muli g d a i) :=
  fun _ h => by cases h; exact fits_a (by omega) (by omega) (by omega) (by omega) (by omega)
theorem limm (g : Fin 8) (d : Fin 64) (i : Fin 1024) : Statement (.limm g d i) :=
  fun _ h => by cases h; exact fits_a (by omega) (by omega) (by omega) (by omega) (by omega)
theorem limmPair (g : Fin 8) (d : Fin 64) (i : Fin 4398046511104) : Statement (.limmPair g d i) :=
  fun _ h => by cases h; exact fits_pair (by omega) (by omega) (by omega) (by omega) (by omega) (by omega)
theorem lihi (g : Fin 8) (d a : Fin 64) (i : Fin 1024) : Statement (.lihi g d a i) :=
  fun _ h => by cases h; exact fits_a (by omega) (by omega) (by omega) (by omega) (by omega)
theorem lihiPair (g : Fin 8) (d a : Fin 64) (i : Fin 4398046511104) : Statement (.lihiPair g d a i) :=
  fun _ h => by cases h; exact fits_pair (by omega) (by omega) (by omega) (by omega) (by omega) (by omega)
theorem pcadd (g : Fin 8) (d : Fin 64) (i : Fin 1024) : Statement (.pcadd g d i) :=
  fun _ h => by cases h; exact fits_a (by omega) (by omega) (by omega) (by omega) (by omega)
theorem cmpeq (g : Fin 8) (d : Fin 16) (a b : Fin 64) : Statement (.cmpeq g d a b) :=
  fun _ h => by cases h; exact fits_a (by omega) (by omega) (by omega) (by omega) (by omega)
theorem cmpne (g : Fin 8) (d : Fin 16) (a b : Fin 64) : Statement (.cmpne g d a b) :=
  fun _ h => by cases h; exact fits_a (by omega) (by omega) (by omega) (by omega) (by omega)
theorem cmplt (g : Fin 8) (d : Fin 16) (a b : Fin 64) : Statement (.cmplt g d a b) :=
  fun _ h => by cases h; exact fits_a (by omega) (by omega) (by omega) (by omega) (by omega)
theorem cmple (g : Fin 8) (d : Fin 16) (a b : Fin 64) : Statement (.cmple g d a b) :=
  fun _ h => by cases h; exact fits_a (by omega) (by omega) (by omega) (by omega) (by omega)
theorem cmpltn (g : Fin 8) (d : Fin 16) (a b : Fin 64) : Statement (.cmpltn g d a b) :=
  fun _ h => by cases h; exact fits_a (by omega) (by omega) (by omega) (by omega) (by omega)
theorem cmplen (g : Fin 8) (d : Fin 16) (a b : Fin 64) : Statement (.cmplen g d a b) :=
  fun _ h => by cases h; exact fits_a (by omega) (by omega) (by omega) (by omega) (by omega)
theorem cmpeqi (g : Fin 8) (d : Fin 16) (a : Fin 64) (i : Fin 1024) : Statement (.cmpeqi g d a i) :=
  fun _ h => by cases h; exact fits_a (by omega) (by omega) (by omega) (by omega) (by omega)
theorem cmplti (g : Fin 8) (d : Fin 16) (a : Fin 64) (i : Fin 1024) : Statement (.cmplti g d a i) :=
  fun _ h => by cases h; exact fits_a (by omega) (by omega) (by omega) (by omega) (by omega)
theorem cmpltni (g : Fin 8) (d : Fin 16) (a : Fin 64) (i : Fin 1024) : Statement (.cmpltni g d a i) :=
  fun _ h => by cases h; exact fits_a (by omega) (by omega) (by omega) (by omega) (by omega)
theorem pand (g : Fin 8) (d a b : Fin 16) : Statement (.pand g d a b) :=
  fun _ h => by cases h; exact fits_a (by omega) (by omega) (by omega) (by omega) (by omega)
theorem por (g : Fin 8) (d a b : Fin 16) : Statement (.por g d a b) :=
  fun _ h => by cases h; exact fits_a (by omega) (by omega) (by omega) (by omega) (by omega)
theorem pxor (g : Fin 8) (d a b : Fin 16) : Statement (.pxor g d a b) :=
  fun _ h => by cases h; exact fits_a (by omega) (by omega) (by omega) (by omega) (by omega)
theorem pandn (g : Fin 8) (d a b : Fin 16) : Statement (.pandn g d a b) :=
  fun _ h => by cases h; exact fits_a (by omega) (by omega) (by omega) (by omega) (by omega)
theorem tstbit (g : Fin 8) (d : Fin 16) (a n : Fin 64) : Statement (.tstbit g d a n) :=
  fun _ h => by cases h; exact fits_a (by omega) (by omega) (by omega) (by omega) (by omega)
theorem mfs (g : Fin 8) (d : Fin 64) (n : Fin 1024) : Statement (.mfs g d n) :=
  fun _ h => by cases h; exact fits_a (by omega) (by omega) (by omega) (by omega) (by omega)
theorem mts (g : Fin 8) (a : Fin 64) (n : Fin 1024) : Statement (.mts g a n) :=
  fun _ h => by cases h; exact fits_a (by omega) (by omega) (by omega) (by omega) (by omega)
theorem shw (g : Fin 8) (k : Fin 4) (a : Fin 64) (n : Fin 8) : Statement (.shw g k a n) :=
  fun _ h => by cases h; exact fits_a (by omega) (by omega) (by omega) (by omega) (by omega)
theorem btmovToBt (g : Fin 8) (k : Fin 8) (a : Fin 64) : Statement (.btmovToBt g k a) :=
  fun _ h => by cases h; exact fits_a (by omega) (by omega) (by omega) (by omega) (by omega)
theorem btmovFromBt (g : Fin 8) (d : Fin 64) (k : Fin 8) : Statement (.btmovFromBt g d k) :=
  fun _ h => by cases h; exact fits_a (by omega) (by omega) (by omega) (by omega) (by omega)
theorem btset (g : Fin 8) (k : Fin 8) (i : Fin 1024) : Statement (.btset g k i) :=
  fun _ h => by cases h; exact fits_a (by omega) (by omega) (by omega) (by omega) (by omega)
theorem agw (g : Fin 8) (k : Fin 8) (a : Fin 64) (n : Fin 16) : Statement (.agw g k a n) :=
  fun _ h => by cases h; exact fits_a (by omega) (by omega) (by omega) (by omega) (by omega)
theorem xpw (g : Fin 8) (k : Fin 4) (a : Fin 64) (n : Fin 16) : Statement (.xpw g k a n) :=
  fun _ h => by cases h; exact fits_a (by omega) (by omega) (by omega) (by omega) (by omega)
theorem chkerr (g : Fin 8) (d : Fin 64) (c : Fin 2) : Statement (.chkerr g d c) :=
  fun _ h => by cases h; exact fits_a (by omega) (by omega) (by omega) (by omega) (by omega)
theorem segset (g : Fin 8) (i : Fin 4398046511104) : Statement (.segset g i) :=
  fun _ h => by cases h; exact fits_pair (by omega) (by omega) (by omega) (by omega) (by omega) (by omega)
theorem cvtaOff (g : Fin 8) (d a : Fin 64) : Statement (.cvtaOff g d a) :=
  fun _ h => by cases h; exact fits_a (by omega) (by omega) (by omega) (by omega) (by omega)
theorem cvtaOwn (g : Fin 8) (d a : Fin 64) : Statement (.cvtaOwn g d a) :=
  fun _ h => by cases h; exact fits_a (by omega) (by omega) (by omega) (by omega) (by omega)
theorem cvtaCl (g : Fin 8) (d a b : Fin 64) : Statement (.cvtaCl g d a b) :=
  fun _ h => by cases h; exact fits_a (by omega) (by omega) (by omega) (by omega) (by omega)
theorem isap (g : Fin 8) (d : Fin 16) (a : Fin 64) (k : Fin 4) : Statement (.isap g d a k) :=
  fun _ h => by cases h; exact fits_a (by omega) (by omega) (by omega) (by omega) (by omega)
theorem rdpw (g : Fin 8) (d a : Fin 64) (s : Fin 4) (k : Fin 8) : Statement (.rdpw g d a s k) :=
  fun _ h => by cases h; exact fits_a (by omega) (by omega) (by omega) (by omega) (by omega)
theorem rdtime (g : Fin 8) (d : Fin 64) : Statement (.rdtime g d) :=
  fun _ h => by cases h; exact fits_a (by omega) (by omega) (by omega) (by omega) (by omega)
theorem ecnt (g : Fin 8) (d : Fin 64) (e : Fin 5) : Statement (.ecnt g d e) :=
  fun _ h => by cases h; exact fits_a (by omega) (by omega) (by omega) (by omega) (by omega)
theorem rdwin (g : Fin 8) (d : Fin 64) : Statement (.rdwin g d) :=
  fun _ h => by cases h; exact fits_a (by omega) (by omega) (by omega) (by omega) (by omega)
theorem tlbinvPage (g : Fin 8) (a : Fin 64) (s : Fin 4) : Statement (.tlbinvPage g a s) :=
  fun _ h => by cases h; exact fits_a (by omega) (by omega) (by omega) (by omega) (by omega)
theorem tlbinvAll (g : Fin 8) (s : Fin 4) : Statement (.tlbinvAll g s) :=
  fun _ h => by cases h; exact fits_a (by omega) (by omega) (by omega) (by omega) (by omega)
theorem cinvWbinv (g : Fin 8) : Statement (.cinvWbinv g) :=
  fun _ h => by cases h; exact fits_a (by omega) (by omega) (by omega) (by omega) (by omega)
theorem cinvInv (g : Fin 8) : Statement (.cinvInv g) :=
  fun _ h => by cases h; exact fits_a (by omega) (by omega) (by omega) (by omega) (by omega)
theorem cinvWbpage (g : Fin 8) (a : Fin 64) : Statement (.cinvWbpage g a) :=
  fun _ h => by cases h; exact fits_a (by omega) (by omega) (by omega) (by omega) (by omega)
theorem ctxsave (g : Fin 8) (a : Fin 64) : Statement (.ctxsave g a) :=
  fun _ h => by cases h; exact fits_a (by omega) (by omega) (by omega) (by omega) (by omega)
theorem ctxload (g : Fin 8) (a : Fin 64) : Statement (.ctxload g a) :=
  fun _ h => by cases h; exact fits_a (by omega) (by omega) (by omega) (by omega) (by omega)
theorem pswap (g : Fin 8) (a b : Fin 64) : Statement (.pswap g a b) :=
  fun _ h => by cases h; exact fits_a (by omega) (by omega) (by omega) (by omega) (by omega)
theorem quarantine (g : Fin 8) (a : Fin 64) : Statement (.quarantine g a) :=
  fun _ h => by cases h; exact fits_a (by omega) (by omega) (by omega) (by omega) (by omega)
theorem svc (g : Fin 8) (n : Fin 1024) : Statement (.svc g n) :=
  fun _ h => by cases h; exact fits_a (by omega) (by omega) (by omega) (by omega) (by omega)
theorem hackset (g : Fin 8) (a : Fin 64) (v : Fin 2) : Statement (.hackset g a v) :=
  fun _ h => by cases h; exact fits_a (by omega) (by omega) (by omega) (by omega) (by omega)
theorem dirtyclr (g : Fin 8) (a b : Fin 64) : Statement (.dirtyclr g a b) :=
  fun _ h => by cases h; exact fits_a (by omega) (by omega) (by omega) (by omega) (by omega)
theorem tree (shape : Fin 8) (t1 t2 t3 t4 : Fin 32) (l1 l2 l3 l4 l5 : Fin 8) : Statement (.tree shape t1 t2 t3 t4 l1 l2 l3 l4 l5) :=
  fun _ h => by cases h; unfold packTree; exact decide_eq_true (by omega)
theorem br (g : Fin 8) (disp : Fin 4294967296) : Statement (.br g disp) :=
  fun _ h => by cases h; exact fits_x (by omega) (by omega) (by omega) (by omega)
theorem bri (g : Fin 8) (a : Fin 64) : Statement (.bri g a) :=
  fun _ h => by cases h; exact fits_x (by omega) (by omega) (by omega) (by omega)
theorem call (g : Fin 8) (disp : Fin 4294967296) : Statement (.call g disp) :=
  fun _ h => by cases h; exact fits_x (by omega) (by omega) (by omega) (by omega)
theorem calli (g : Fin 8) (a : Fin 64) : Statement (.calli g a) :=
  fun _ h => by cases h; exact fits_x (by omega) (by omega) (by omega) (by omega)
theorem ret (g : Fin 8) (k : Fin 8) : Statement (.ret g k) :=
  fun _ h => by cases h; exact fits_x (by omega) (by omega) (by omega) (by omega)
theorem loopOp (g : Fin 8) (n : Fin 64) (k : Fin 4) (len : Fin 1073741824) : Statement (.loopOp g n k len) :=
  fun _ h => by cases h; exact fits_x (by omega) (by omega) (by omega) (by omega)
theorem yield (g : Fin 8) : Statement (.yield g) := fun _ h => by cases h; exact fits_x (by omega) (by omega) (by omega) (by omega)
theorem suspend (g : Fin 8) : Statement (.suspend g) := fun _ h => by cases h; exact fits_x (by omega) (by omega) (by omega) (by omega)
theorem fork (g : Fin 8) (a : Fin 64) (disp : Fin 4294967296) : Statement (.fork g a disp) :=
  fun _ h => by cases h; exact fits_x (by omega) (by omega) (by omega) (by omega)
theorem exitOp (g : Fin 8) : Statement (.exitOp g) := fun _ h => by cases h; exact fits_x (by omega) (by omega) (by omega) (by omega)
theorem trapOp (g : Fin 8) (disp : Fin 4294967296) : Statement (.trapOp g disp) :=
  fun _ h => by cases h; exact fits_x (by omega) (by omega) (by omega) (by omega)
theorem waitMem (g : Fin 8) (a b : Fin 64) : Statement (.waitMem g a b) :=
  fun _ h => by cases h; exact fits_x (by omega) (by omega) (by omega) (by omega)
theorem waitEng (g : Fin 8) (mask : Fin 32) : Statement (.waitEng g mask) :=
  fun _ h => by cases h; exact fits_x (by omega) (by omega) (by omega) (by omega)
theorem rftResume (g : Fin 8) : Statement (.rftResume g) := fun _ h => by cases h; exact fits_x (by omega) (by omega) (by omega) (by omega)
theorem rftYield (g : Fin 8) : Statement (.rftYield g) := fun _ h => by cases h; exact fits_x (by omega) (by omega) (by omega) (by omega)
theorem rftSuspend (g : Fin 8) : Statement (.rftSuspend g) :=
  fun _ h => by cases h; exact fits_x (by omega) (by omega) (by omega) (by omega)
theorem rftFault (g : Fin 8) : Statement (.rftFault g) := fun _ h => by cases h; exact fits_x (by omega) (by omega) (by omega) (by omega)
theorem rftHold (g : Fin 8) : Statement (.rftHold g) := fun _ h => by cases h; exact fits_x (by omega) (by omega) (by omega) (by omega)
theorem idle (g : Fin 8) : Statement (.idle g) := fun _ h => by cases h; exact fits_x (by omega) (by omega) (by omega) (by omega)
theorem ldB (g : Fin 8) (d b : Fin 64) (disp : Fin 4096) : Statement (.ldB g d b disp) :=
  fun _ h => by cases h; exact fits_l (by omega) (by omega) (by omega) (by omega) (by omega)
theorem ldH (g : Fin 8) (d b : Fin 64) (disp : Fin 4096) : Statement (.ldH g d b disp) :=
  fun _ h => by cases h; exact fits_l (by omega) (by omega) (by omega) (by omega) (by omega)
theorem ldW (g : Fin 8) (d b : Fin 64) (disp : Fin 4096) : Statement (.ldW g d b disp) :=
  fun _ h => by cases h; exact fits_l (by omega) (by omega) (by omega) (by omega) (by omega)
theorem ldD (g : Fin 8) (d b : Fin 64) (disp : Fin 4096) : Statement (.ldD g d b disp) :=
  fun _ h => by cases h; exact fits_l (by omega) (by omega) (by omega) (by omega) (by omega)
theorem ldnB (g : Fin 8) (d b : Fin 64) (disp : Fin 4096) : Statement (.ldnB g d b disp) :=
  fun _ h => by cases h; exact fits_l (by omega) (by omega) (by omega) (by omega) (by omega)
theorem ldnH (g : Fin 8) (d b : Fin 64) (disp : Fin 4096) : Statement (.ldnH g d b disp) :=
  fun _ h => by cases h; exact fits_l (by omega) (by omega) (by omega) (by omega) (by omega)
theorem ldnW (g : Fin 8) (d b : Fin 64) (disp : Fin 4096) : Statement (.ldnW g d b disp) :=
  fun _ h => by cases h; exact fits_l (by omega) (by omega) (by omega) (by omega) (by omega)
theorem ldtag (g : Fin 8) (d b : Fin 64) (disp : Fin 4096) : Statement (.ldtag g d b disp) :=
  fun _ h => by cases h; exact fits_l (by omega) (by omega) (by omega) (by omega) (by omega)
theorem stB (g : Fin 8) (d b : Fin 64) (disp : Fin 4096) : Statement (.stB g d b disp) :=
  fun _ h => by cases h; exact fits_l (by omega) (by omega) (by omega) (by omega) (by omega)
theorem stH (g : Fin 8) (d b : Fin 64) (disp : Fin 4096) : Statement (.stH g d b disp) :=
  fun _ h => by cases h; exact fits_l (by omega) (by omega) (by omega) (by omega) (by omega)
theorem stW (g : Fin 8) (d b : Fin 64) (disp : Fin 4096) : Statement (.stW g d b disp) :=
  fun _ h => by cases h; exact fits_l (by omega) (by omega) (by omega) (by omega) (by omega)
theorem stD (g : Fin 8) (d b : Fin 64) (disp : Fin 4096) : Statement (.stD g d b disp) :=
  fun _ h => by cases h; exact fits_l (by omega) (by omega) (by omega) (by omega) (by omega)
theorem sttag (g : Fin 8) (d b : Fin 64) (disp : Fin 4096) : Statement (.sttag g d b disp) :=
  fun _ h => by cases h; exact fits_l (by omega) (by omega) (by omega) (by omega) (by omega)
theorem ldv (g : Fin 8) (m : Line) (b : Fin 64) (disp : Fin 4096) : Statement (.ldv g m b disp) :=
  fun _ h => by cases h; exact fits_l (by omega) (by omega) (by have := packLine_lt m; omega) (by omega) (by omega)
theorem stv (g : Fin 8) (m : Line) (b : Fin 64) (disp : Fin 4096) : Statement (.stv g m b disp) :=
  fun _ h => by cases h; exact fits_l (by omega) (by omega) (by have := packLine_lt m; omega) (by omega) (by omega)
theorem ldvs (g : Fin 8) (m : Line) (b st : Fin 64) : Statement (.ldvs g m b st) :=
  fun _ h => by cases h; exact fits_l (by omega) (by omega) (by have := packLine_lt m; omega) (by omega) (by omega)
theorem stvs (g : Fin 8) (m : Line) (b st : Fin 64) : Statement (.stvs g m b st) :=
  fun _ h => by cases h; exact fits_l (by omega) (by omega) (by have := packLine_lt m; omega) (by omega) (by omega)
theorem ldg (g : Fin 8) (m : Line) (b : Fin 64) (ix : Line) : Statement (.ldg g m b ix) :=
  fun _ h => by cases h; exact fits_l (by omega) (by omega) (by have := packLine_lt m; omega) (by omega) (by have := packLine_lt ix; omega)
theorem stg (g : Fin 8) (m : Line) (b : Fin 64) (ix : Line) : Statement (.stg g m b ix) :=
  fun _ h => by cases h; exact fits_l (by omega) (by omega) (by have := packLine_lt m; omega) (by omega) (by have := packLine_lt ix; omega)
theorem ldx (g : Fin 8) (m : Line) (b : Fin 64) (k : Fin 4) : Statement (.ldx g m b k) :=
  fun _ h => by cases h; exact fits_l (by omega) (by omega) (by have := packLine_lt m; omega) (by omega) (by omega)
theorem aadd (g : Fin 8) (d b : Fin 64) (disp : Fin 4096) : Statement (.aadd g d b disp) :=
  fun _ h => by cases h; exact fits_l (by omega) (by omega) (by omega) (by omega) (by omega)
theorem aand (g : Fin 8) (d b : Fin 64) (disp : Fin 4096) : Statement (.aand g d b disp) :=
  fun _ h => by cases h; exact fits_l (by omega) (by omega) (by omega) (by omega) (by omega)
theorem aor (g : Fin 8) (d b : Fin 64) (disp : Fin 4096) : Statement (.aor g d b disp) :=
  fun _ h => by cases h; exact fits_l (by omega) (by omega) (by omega) (by omega) (by omega)
theorem axor (g : Fin 8) (d b : Fin 64) (disp : Fin 4096) : Statement (.axor g d b disp) :=
  fun _ h => by cases h; exact fits_l (by omega) (by omega) (by omega) (by omega) (by omega)
theorem amin (g : Fin 8) (d b : Fin 64) (disp : Fin 4096) : Statement (.amin g d b disp) :=
  fun _ h => by cases h; exact fits_l (by omega) (by omega) (by omega) (by omega) (by omega)
theorem amax (g : Fin 8) (d b : Fin 64) (disp : Fin 4096) : Statement (.amax g d b disp) :=
  fun _ h => by cases h; exact fits_l (by omega) (by omega) (by omega) (by omega) (by omega)
theorem aminn (g : Fin 8) (d b : Fin 64) (disp : Fin 4096) : Statement (.aminn g d b disp) :=
  fun _ h => by cases h; exact fits_l (by omega) (by omega) (by omega) (by omega) (by omega)
theorem amaxn (g : Fin 8) (d b : Fin 64) (disp : Fin 4096) : Statement (.amaxn g d b disp) :=
  fun _ h => by cases h; exact fits_l (by omega) (by omega) (by omega) (by omega) (by omega)
theorem axchg (g : Fin 8) (d b : Fin 64) (disp : Fin 4096) : Statement (.axchg g d b disp) :=
  fun _ h => by cases h; exact fits_l (by omega) (by omega) (by omega) (by omega) (by omega)
theorem acas (g : Fin 8) (d b : Fin 64) (disp : Fin 4096) : Statement (.acas g d b disp) :=
  fun _ h => by cases h; exact fits_l (by omega) (by omega) (by omega) (by omega) (by omega)
theorem afadd (g : Fin 8) (d b : Fin 64) (disp : Fin 4096) : Statement (.afadd g d b disp) :=
  fun _ h => by cases h; exact fits_l (by omega) (by omega) (by omega) (by omega) (by omega)
theorem fenceOp (g : Fin 8) (sc : Fin 5) : Statement (.fenceOp g sc) :=
  fun _ h => by cases h; exact fits_l (by omega) (by omega) (by omega) (by omega) (by omega)
theorem promote (g : Fin 8) (sc : Fin 4) (b : Fin 64) (disp : Fin 4096) : Statement (.promote g sc b disp) :=
  fun _ h => by cases h; exact fits_l (by omega) (by omega) (by omega) (by omega) (by omega)
theorem prefetch (g : Fin 8) (l2 : Fin 2) (b : Fin 64) (disp : Fin 4096) : Statement (.prefetch g l2 b disp) :=
  fun _ h => by cases h; exact fits_l (by omega) (by omega) (by omega) (by omega) (by omega)
theorem cflushWb (g : Fin 8) (b : Fin 64) (disp : Fin 4096) : Statement (.cflushWb g b disp) :=
  fun _ h => by cases h; exact fits_l (by omega) (by omega) (by omega) (by omega) (by omega)
theorem cflushInv (g : Fin 8) (b : Fin 64) (disp : Fin 4096) : Statement (.cflushInv g b disp) :=
  fun _ h => by cases h; exact fits_l (by omega) (by omega) (by omega) (by omega) (by omega)
theorem cflushMem (g : Fin 8) (b : Fin 64) (disp : Fin 4096) : Statement (.cflushMem g b disp) :=
  fun _ h => by cases h; exact fits_l (by omega) (by omega) (by omega) (by omega) (by omega)
theorem barinit (g : Fin 8) (d b : Fin 64) (disp : Fin 4096) : Statement (.barinit g d b disp) :=
  fun _ h => by cases h; exact fits_l (by omega) (by omega) (by omega) (by omega) (by omega)
theorem bararr (g : Fin 8) (d b : Fin 64) (disp : Fin 4096) : Statement (.bararr g d b disp) :=
  fun _ h => by cases h; exact fits_l (by omega) (by omega) (by omega) (by omega) (by omega)
theorem barwait (g : Fin 8) (d b : Fin 64) (disp : Fin 4096) : Statement (.barwait g d b disp) :=
  fun _ h => by cases h; exact fits_l (by omega) (by omega) (by omega) (by omega) (by omega)
theorem qpush (g : Fin 8) (q : Fin 8) (b : Fin 64) : Statement (.qpush g q b) :=
  fun _ h => by cases h; exact fits_l (by omega) (by omega) (by omega) (by omega) (by omega)
theorem qpop (g : Fin 8) (d : Fin 64) (q : Fin 8) (b : Fin 64) : Statement (.qpop g d q b) :=
  fun _ h => by cases h; exact fits_l (by omega) (by omega) (by omega) (by omega) (by omega)
theorem qtry (g : Fin 8) (d : Fin 64) (q : Fin 8) (b : Fin 64) : Statement (.qtry g d q b) :=
  fun _ h => by cases h; exact fits_l (by omega) (by omega) (by omega) (by omega) (by omega)
theorem rsend (g : Fin 8) (d : Fin 64) (k : Fin 4) (b : Fin 64) : Statement (.rsend g d k b) :=
  fun _ h => by cases h; exact fits_l (by omega) (by omega) (by omega) (by omega) (by omega)
theorem rrecv (g : Fin 8) (d : Fin 64) (k : Fin 4) (b : Fin 64) : Statement (.rrecv g d k b) :=
  fun _ h => by cases h; exact fits_l (by omega) (by omega) (by omega) (by omega) (by omega)
theorem ttdef (g : Fin 8) (d b : Fin 64) (disp : Fin 4096) : Statement (.ttdef g d b disp) :=
  fun _ h => by cases h; exact fits_l (by omega) (by omega) (by omega) (by omega) (by omega)
theorem ttsetReady (g : Fin 8) (b : Fin 64) (disp : Fin 4096) : Statement (.ttsetReady g b disp) :=
  fun _ h => by cases h; exact fits_l (by omega) (by omega) (by omega) (by omega) (by omega)
theorem ttsetEmpty (g : Fin 8) (b : Fin 64) (disp : Fin 4096) : Statement (.ttsetEmpty g b disp) :=
  fun _ h => by cases h; exact fits_l (by omega) (by omega) (by omega) (by omega) (by omega)
theorem ttrel (g : Fin 8) (b : Fin 64) (disp : Fin 4096) : Statement (.ttrel g b disp) :=
  fun _ h => by cases h; exact fits_l (by omega) (by omega) (by omega) (by omega) (by omega)
theorem ttstat (g : Fin 8) (d b : Fin 64) (disp : Fin 4096) : Statement (.ttstat g d b disp) :=
  fun _ h => by cases h; exact fits_l (by omega) (by omega) (by omega) (by omega) (by omega)
theorem txbegin (g : Fin 8) (k : Fin 8) (sc : Fin 4) : Statement (.txbegin g k sc) :=
  fun _ h => by cases h; exact fits_l (by omega) (by omega) (by omega) (by omega) (by omega)
theorem txend (g : Fin 8) : Statement (.txend g) :=
  fun _ h => by cases h; exact fits_l (by omega) (by omega) (by omega) (by omega) (by omega)
theorem txabort (g : Fin 8) (c : Fin 256) : Statement (.txabort g c) :=
  fun _ h => by cases h; exact fits_l (by omega) (by omega) (by omega) (by omega) (by omega)
theorem txstat (g : Fin 8) (d : Fin 64) : Statement (.txstat g d) :=
  fun _ h => by cases h; exact fits_l (by omega) (by omega) (by omega) (by omega) (by omega)
theorem fadd (g : Fin 8) (d a b : VOp) : Statement (.fadd g d a b) :=
  fun _ h => by cases h; exact fits_v (by omega) (by omega) (packVOp_lt _) (packVOp_lt _) (packVOp_lt _) (by omega)
theorem fsub (g : Fin 8) (d a b : VOp) : Statement (.fsub g d a b) :=
  fun _ h => by cases h; exact fits_v (by omega) (by omega) (packVOp_lt _) (packVOp_lt _) (packVOp_lt _) (by omega)
theorem fmul (g : Fin 8) (d a b : VOp) : Statement (.fmul g d a b) :=
  fun _ h => by cases h; exact fits_v (by omega) (by omega) (packVOp_lt _) (packVOp_lt _) (packVOp_lt _) (by omega)
theorem ffma (g : Fin 8) (d a b : VOp) : Statement (.ffma g d a b) :=
  fun _ h => by cases h; exact fits_v (by omega) (by omega) (packVOp_lt _) (packVOp_lt _) (packVOp_lt _) (by omega)
theorem ffms (g : Fin 8) (d a b : VOp) : Statement (.ffms g d a b) :=
  fun _ h => by cases h; exact fits_v (by omega) (by omega) (packVOp_lt _) (packVOp_lt _) (packVOp_lt _) (by omega)
theorem fmax (g : Fin 8) (d a b : VOp) : Statement (.fmax g d a b) :=
  fun _ h => by cases h; exact fits_v (by omega) (by omega) (packVOp_lt _) (packVOp_lt _) (packVOp_lt _) (by omega)
theorem fmin (g : Fin 8) (d a b : VOp) : Statement (.fmin g d a b) :=
  fun _ h => by cases h; exact fits_v (by omega) (by omega) (packVOp_lt _) (packVOp_lt _) (packVOp_lt _) (by omega)
theorem fabs (g : Fin 8) (d a : VOp) : Statement (.fabs g d a) :=
  fun _ h => by cases h; exact fits_v (by omega) (by omega) (packVOp_lt _) (packVOp_lt _) (by omega) (by omega)
theorem fneg (g : Fin 8) (d a : VOp) : Statement (.fneg g d a) :=
  fun _ h => by cases h; exact fits_v (by omega) (by omega) (packVOp_lt _) (packVOp_lt _) (by omega) (by omega)
theorem fcpys (g : Fin 8) (d a b : VOp) : Statement (.fcpys g d a b) :=
  fun _ h => by cases h; exact fits_v (by omega) (by omega) (packVOp_lt _) (packVOp_lt _) (packVOp_lt _) (by omega)
theorem frcp (g : Fin 8) (d a : VOp) : Statement (.frcp g d a) :=
  fun _ h => by cases h; exact fits_v (by omega) (by omega) (packVOp_lt _) (packVOp_lt _) (by omega) (by omega)
theorem frsq (g : Fin 8) (d a : VOp) : Statement (.frsq g d a) :=
  fun _ h => by cases h; exact fits_v (by omega) (by omega) (packVOp_lt _) (packVOp_lt _) (by omega) (by omega)
theorem fexp2 (g : Fin 8) (d a : VOp) : Statement (.fexp2 g d a) :=
  fun _ h => by cases h; exact fits_v (by omega) (by omega) (packVOp_lt _) (packVOp_lt _) (by omega) (by omega)
theorem flog2 (g : Fin 8) (d a : VOp) : Statement (.flog2 g d a) :=
  fun _ h => by cases h; exact fits_v (by omega) (by omega) (packVOp_lt _) (packVOp_lt _) (by omega) (by omega)
theorem frint (g : Fin 8) (d a : VOp) (s : Fin 2) : Statement (.frint g d a s) :=
  fun _ h => by cases h; exact fits_v (by omega) (by omega) (packVOp_lt _) (packVOp_lt _) (by omega) (by omega)
theorem fcmpeq (g : Fin 8) (d a b : VOp) : Statement (.fcmpeq g d a b) :=
  fun _ h => by cases h; exact fits_v (by omega) (by omega) (packVOp_lt _) (packVOp_lt _) (packVOp_lt _) (by omega)
theorem fcmplt (g : Fin 8) (d a b : VOp) : Statement (.fcmplt g d a b) :=
  fun _ h => by cases h; exact fits_v (by omega) (by omega) (packVOp_lt _) (packVOp_lt _) (packVOp_lt _) (by omega)
theorem fcmple (g : Fin 8) (d a b : VOp) : Statement (.fcmple g d a b) :=
  fun _ h => by cases h; exact fits_v (by omega) (by omega) (packVOp_lt _) (packVOp_lt _) (packVOp_lt _) (by omega)
theorem fcmpun (g : Fin 8) (d a b : VOp) : Statement (.fcmpun g d a b) :=
  fun _ h => by cases h; exact fits_v (by omega) (by omega) (packVOp_lt _) (packVOp_lt _) (packVOp_lt _) (by omega)
theorem hadd (g : Fin 8) (d a b : VOp) (s : Fin 2) : Statement (.hadd g d a b s) :=
  fun _ h => by cases h; exact fits_v (by omega) (by omega) (packVOp_lt _) (packVOp_lt _) (packVOp_lt _) (by omega)
theorem hmul (g : Fin 8) (d a b : VOp) (s : Fin 2) : Statement (.hmul g d a b s) :=
  fun _ h => by cases h; exact fits_v (by omega) (by omega) (packVOp_lt _) (packVOp_lt _) (packVOp_lt _) (by omega)
theorem hfma (g : Fin 8) (d a b : VOp) (s : Fin 2) : Statement (.hfma g d a b s) :=
  fun _ h => by cases h; exact fits_v (by omega) (by omega) (packVOp_lt _) (packVOp_lt _) (packVOp_lt _) (by omega)
theorem hmax (g : Fin 8) (d a b : VOp) (s : Fin 2) : Statement (.hmax g d a b s) :=
  fun _ h => by cases h; exact fits_v (by omega) (by omega) (packVOp_lt _) (packVOp_lt _) (packVOp_lt _) (by omega)
theorem iadd (g : Fin 8) (d a b : VOp) (s : Fin 2) : Statement (.iadd g d a b s) :=
  fun _ h => by cases h; exact fits_v (by omega) (by omega) (packVOp_lt _) (packVOp_lt _) (packVOp_lt _) (by omega)
theorem isub (g : Fin 8) (d a b : VOp) (s : Fin 2) : Statement (.isub g d a b s) :=
  fun _ h => by cases h; exact fits_v (by omega) (by omega) (packVOp_lt _) (packVOp_lt _) (packVOp_lt _) (by omega)
theorem imul (g : Fin 8) (d a b : VOp) (s : Fin 2) : Statement (.imul g d a b s) :=
  fun _ h => by cases h; exact fits_v (by omega) (by omega) (packVOp_lt _) (packVOp_lt _) (packVOp_lt _) (by omega)
theorem imulh (g : Fin 8) (d a b : VOp) (s : Fin 2) : Statement (.imulh g d a b s) :=
  fun _ h => by cases h; exact fits_v (by omega) (by omega) (packVOp_lt _) (packVOp_lt _) (packVOp_lt _) (by omega)
theorem imad (g : Fin 8) (d a b : VOp) (s : Fin 2) : Statement (.imad g d a b s) :=
  fun _ h => by cases h; exact fits_v (by omega) (by omega) (packVOp_lt _) (packVOp_lt _) (packVOp_lt _) (by omega)
theorem imax (g : Fin 8) (d a b : VOp) : Statement (.imax g d a b) :=
  fun _ h => by cases h; exact fits_v (by omega) (by omega) (packVOp_lt _) (packVOp_lt _) (packVOp_lt _) (by omega)
theorem imin (g : Fin 8) (d a b : VOp) : Statement (.imin g d a b) :=
  fun _ h => by cases h; exact fits_v (by omega) (by omega) (packVOp_lt _) (packVOp_lt _) (packVOp_lt _) (by omega)
theorem imaxn (g : Fin 8) (d a b : VOp) : Statement (.imaxn g d a b) :=
  fun _ h => by cases h; exact fits_v (by omega) (by omega) (packVOp_lt _) (packVOp_lt _) (packVOp_lt _) (by omega)
theorem iminn (g : Fin 8) (d a b : VOp) : Statement (.iminn g d a b) :=
  fun _ h => by cases h; exact fits_v (by omega) (by omega) (packVOp_lt _) (packVOp_lt _) (packVOp_lt _) (by omega)
theorem iand (g : Fin 8) (d a b : VOp) : Statement (.iand g d a b) :=
  fun _ h => by cases h; exact fits_v (by omega) (by omega) (packVOp_lt _) (packVOp_lt _) (packVOp_lt _) (by omega)
theorem ior (g : Fin 8) (d a b : VOp) : Statement (.ior g d a b) :=
  fun _ h => by cases h; exact fits_v (by omega) (by omega) (packVOp_lt _) (packVOp_lt _) (packVOp_lt _) (by omega)
theorem ixor (g : Fin 8) (d a b : VOp) : Statement (.ixor g d a b) :=
  fun _ h => by cases h; exact fits_v (by omega) (by omega) (packVOp_lt _) (packVOp_lt _) (packVOp_lt _) (by omega)
theorem ishl (g : Fin 8) (d a b : VOp) (s : Fin 2) : Statement (.ishl g d a b s) :=
  fun _ h => by cases h; exact fits_v (by omega) (by omega) (packVOp_lt _) (packVOp_lt _) (packVOp_lt _) (by omega)
theorem ishr (g : Fin 8) (d a b : VOp) : Statement (.ishr g d a b) :=
  fun _ h => by cases h; exact fits_v (by omega) (by omega) (packVOp_lt _) (packVOp_lt _) (packVOp_lt _) (by omega)
theorem isra (g : Fin 8) (d a b : VOp) : Statement (.isra g d a b) :=
  fun _ h => by cases h; exact fits_v (by omega) (by omega) (packVOp_lt _) (packVOp_lt _) (packVOp_lt _) (by omega)
theorem iabs (g : Fin 8) (d a : VOp) (s : Fin 2) : Statement (.iabs g d a s) :=
  fun _ h => by cases h; exact fits_v (by omega) (by omega) (packVOp_lt _) (packVOp_lt _) (by omega) (by omega)
theorem icmpeq (g : Fin 8) (d a b : VOp) : Statement (.icmpeq g d a b) :=
  fun _ h => by cases h; exact fits_v (by omega) (by omega) (packVOp_lt _) (packVOp_lt _) (packVOp_lt _) (by omega)
theorem icmplt (g : Fin 8) (d a b : VOp) : Statement (.icmplt g d a b) :=
  fun _ h => by cases h; exact fits_v (by omega) (by omega) (packVOp_lt _) (packVOp_lt _) (packVOp_lt _) (by omega)
theorem icmpltn (g : Fin 8) (d a b : VOp) : Statement (.icmpltn g d a b) :=
  fun _ h => by cases h; exact fits_v (by omega) (by omega) (packVOp_lt _) (packVOp_lt _) (packVOp_lt _) (by omega)
theorem cvt (g : Fin 8) (d a : VOp) (dst src : Fin 16) (s : Fin 2) : Statement (.cvt g d a dst src s) :=
  fun _ h => by cases h; exact fits_v (by omega) (by omega) (packVOp_lt _) (packVOp_lt _) (by omega) (by omega)
theorem qnt (g : Fin 8) (d a b : VOp) : Statement (.qnt g d a b) :=
  fun _ h => by cases h; exact fits_v (by omega) (by omega) (packVOp_lt _) (packVOp_lt _) (packVOp_lt _) (by omega)
theorem dqnt (g : Fin 8) (d a b : VOp) : Statement (.dqnt g d a b) :=
  fun _ h => by cases h; exact fits_v (by omega) (by omega) (packVOp_lt _) (packVOp_lt _) (packVOp_lt _) (by omega)
theorem bscale (g : Fin 8) (d a b : VOp) (s : Fin 2) : Statement (.bscale g d a b s) :=
  fun _ h => by cases h; exact fits_v (by omega) (by omega) (packVOp_lt _) (packVOp_lt _) (packVOp_lt _) (by omega)
theorem plpack (g : Fin 8) (d a : VOp) (f : Fin 256) : Statement (.plpack g d a f) :=
  fun _ h => by cases h; exact fits_v (by omega) (by omega) (packVOp_lt _) (packVOp_lt _) (by omega) (by omega)
theorem plunpk (g : Fin 8) (d a : VOp) (f : Fin 256) : Statement (.plunpk g d a f) :=
  fun _ h => by cases h; exact fits_v (by omega) (by omega) (packVOp_lt _) (packVOp_lt _) (by omega) (by omega)
theorem vmov (g : Fin 8) (d a : VOp) : Statement (.vmov g d a) :=
  fun _ h => by cases h; exact fits_v (by omega) (by omega) (packVOp_lt _) (packVOp_lt _) (by omega) (by omega)
theorem vbcast (g : Fin 8) (d a b : VOp) : Statement (.vbcast g d a b) :=
  fun _ h => by cases h; exact fits_v (by omega) (by omega) (packVOp_lt _) (packVOp_lt _) (packVOp_lt _) (by omega)
theorem vshuf (g : Fin 8) (d a b : VOp) : Statement (.vshuf g d a b) :=
  fun _ h => by cases h; exact fits_v (by omega) (by omega) (packVOp_lt _) (packVOp_lt _) (packVOp_lt _) (by omega)
theorem vrot (g : Fin 8) (d a b : VOp) : Statement (.vrot g d a b) :=
  fun _ h => by cases h; exact fits_v (by omega) (by omega) (packVOp_lt _) (packVOp_lt _) (packVOp_lt _) (by omega)
theorem vsel (g : Fin 8) (d a b : VOp) : Statement (.vsel g d a b) :=
  fun _ h => by cases h; exact fits_v (by omega) (by omega) (packVOp_lt _) (packVOp_lt _) (packVOp_lt _) (by omega)
theorem vred (g : Fin 8) (d a : VOp) (f : Fin 256) : Statement (.vred g d a f) :=
  fun _ h => by cases h; exact fits_v (by omega) (by omega) (packVOp_lt _) (packVOp_lt _) (by omega) (by omega)
theorem vscan (g : Fin 8) (d a : VOp) (f : Fin 256) (s : Fin 2) : Statement (.vscan g d a f s) :=
  fun _ h => by cases h; exact fits_v (by omega) (by omega) (packVOp_lt _) (packVOp_lt _) (by omega) (by omega)
theorem viota (g : Fin 8) (d a b : VOp) : Statement (.viota g d a b) :=
  fun _ h => by cases h; exact fits_v (by omega) (by omega) (packVOp_lt _) (packVOp_lt _) (packVOp_lt _) (by omega)
theorem vmask (g : Fin 8) (d a b : VOp) (s : Fin 2) : Statement (.vmask g d a b s) :=
  fun _ h => by cases h; exact fits_v (by omega) (by omega) (packVOp_lt _) (packVOp_lt _) (packVOp_lt _) (by omega)
theorem vpopc (g : Fin 8) (d a : VOp) : Statement (.vpopc g d a) :=
  fun _ h => by cases h; exact fits_v (by omega) (by omega) (packVOp_lt _) (packVOp_lt _) (by omega) (by omega)
theorem vext (g : Fin 8) (d a b : VOp) (s : Fin 2) : Statement (.vext g d a b s) :=
  fun _ h => by cases h; exact fits_v (by omega) (by omega) (packVOp_lt _) (packVOp_lt _) (packVOp_lt _) (by omega)
theorem mmr (g : Fin 8) (m : Fin 16) (a b : VOp) (s : Fin 2) : Statement (.mmr g m a b s) :=
  fun _ h => by cases h; exact fits_v (by omega) (by omega) (by omega) (packVOp_lt _) (packVOp_lt _) (by omega)
theorem mzero (g : Fin 8) (m : Fin 16) : Statement (.mzero g m) :=
  fun _ h => by cases h; exact fits_v (by omega) (by omega) (by omega) (by omega) (by omega) (by omega)
theorem mgate (g : Fin 8) (m : Fin 16) : Statement (.mgate g m) :=
  fun _ h => by cases h; exact fits_v (by omega) (by omega) (by omega) (by omega) (by omega) (by omega)
theorem mdrowsy (g : Fin 8) (m : Fin 16) : Statement (.mdrowsy g m) :=
  fun _ h => by cases h; exact fits_v (by omega) (by omega) (by omega) (by omega) (by omega) (by omega)
theorem mwake (g : Fin 8) (m : Fin 16) : Statement (.mwake g m) :=
  fun _ h => by cases h; exact fits_v (by omega) (by omega) (by omega) (by omega) (by omega) (by omega)
theorem minval (g : Fin 8) (m : Fin 16) : Statement (.minval g m) :=
  fun _ h => by cases h; exact fits_v (by omega) (by omega) (by omega) (by omega) (by omega) (by omega)
theorem mgemm (g : Fin 8) (sa sb sc : Fin 4) (sw : Fin 16) (p : Fin 64) (r : Fin 2) (acc : Fin 2) : Statement (.mgemm g sa sb sc sw p r acc) :=
  fun _ h => by cases h; exact fits_e (by omega) (by omega) (by omega) (by omega) (by omega) (by omega) (by omega) (by omega) (by omega) (by omega)
theorem mgemms (g : Fin 8) (sa sb sc : Fin 4) (sw : Fin 16) (p : Fin 64) (r : Fin 2) (acc : Fin 2) : Statement (.mgemms g sa sb sc sw p r acc) :=
  fun _ h => by cases h; exact fits_e (by omega) (by omega) (by omega) (by omega) (by omega) (by omega) (by omega) (by omega) (by omega) (by omega)
theorem mconv (g : Fin 8) (sa sb sc : Fin 4) (sw : Fin 16) (p : Fin 64) (r : Fin 2) (acc : Fin 2) : Statement (.mconv g sa sb sc sw p r acc) :=
  fun _ h => by cases h; exact fits_e (by omega) (by omega) (by omega) (by omega) (by omega) (by omega) (by omega) (by omega) (by omega) (by omega)
theorem mattn (g : Fin 8) (sa sb sc : Fin 4) (sw : Fin 16) (p : Fin 64) (r : Fin 2) (v : Fin 4) (fin : Fin 2) : Statement (.mattn g sa sb sc sw p r v fin) :=
  fun _ h => by cases h; exact fits_e (by omega) (by omega) (by omega) (by omega) (by omega) (by omega) (by omega) (by omega) (by omega) (by omega)
theorem scout (g : Fin 8) (sa sb : Fin 4) (sw : Fin 16) (p : Fin 64) (r : Fin 2) : Statement (.scout g sa sb sw p r) :=
  fun _ h => by cases h; exact fits_e (by omega) (by omega) (by omega) (by omega) (by omega) (by omega) (by omega) (by omega) (by omega) (by omega)
theorem swin (g : Fin 8) (sw : Fin 16) (p : Fin 64) (r : Fin 2) : Statement (.swin g sw p r) :=
  fun _ h => by cases h; exact fits_e (by omega) (by omega) (by omega) (by omega) (by omega) (by omega) (by omega) (by omega) (by omega) (by omega)
theorem smask (g : Fin 8) (sw : Fin 16) (p : Fin 64) (r : Fin 2) : Statement (.smask g sw p r) :=
  fun _ h => by cases h; exact fits_e (by omega) (by omega) (by omega) (by omega) (by omega) (by omega) (by omega) (by omega) (by omega) (by omega)
theorem sscore (g : Fin 8) (sa sb sc : Fin 4) (sw : Fin 16) (p : Fin 64) (r : Fin 2) : Statement (.sscore g sa sb sc sw p r) :=
  fun _ h => by cases h; exact fits_e (by omega) (by omega) (by omega) (by omega) (by omega) (by omega) (by omega) (by omega) (by omega) (by omega)
theorem ccopy (g : Fin 8) (sa sc : Fin 4) (sw : Fin 16) (p : Fin 64) (r : Fin 2) : Statement (.ccopy g sa sc sw p r) :=
  fun _ h => by cases h; exact fits_e (by omega) (by omega) (by omega) (by omega) (by omega) (by omega) (by omega) (by omega) (by omega) (by omega)
theorem cgather (g : Fin 8) (sa sb sc : Fin 4) (sw : Fin 16) (p : Fin 64) (r : Fin 2) : Statement (.cgather g sa sb sc sw p r) :=
  fun _ h => by cases h; exact fits_e (by omega) (by omega) (by omega) (by omega) (by omega) (by omega) (by omega) (by omega) (by omega) (by omega)
theorem cscatter (g : Fin 8) (sa sb sc : Fin 4) (sw : Fin 16) (p : Fin 64) (r : Fin 2) : Statement (.cscatter g sa sb sc sw p r) :=
  fun _ h => by cases h; exact fits_e (by omega) (by omega) (by omega) (by omega) (by omega) (by omega) (by omega) (by omega) (by omega) (by omega)
theorem cfill (g : Fin 8) (sc : Fin 4) (sw : Fin 16) (p : Fin 64) (r : Fin 2) : Statement (.cfill g sc sw p r) :=
  fun _ h => by cases h; exact fits_e (by omega) (by omega) (by omega) (by omega) (by omega) (by omega) (by omega) (by omega) (by omega) (by omega)
theorem ctrans (g : Fin 8) (sa sc : Fin 4) (sw : Fin 16) (p : Fin 64) (r : Fin 2) : Statement (.ctrans g sa sc sw p r) :=
  fun _ h => by cases h; exact fits_e (by omega) (by omega) (by omega) (by omega) (by omega) (by omega) (by omega) (by omega) (by omega) (by omega)
theorem cplane (g : Fin 8) (sa sc : Fin 4) (sw : Fin 16) (p : Fin 64) (r : Fin 2) : Statement (.cplane g sa sc sw p r) :=
  fun _ h => by cases h; exact fits_e (by omega) (by omega) (by omega) (by omega) (by omega) (by omega) (by omega) (by omega) (by omega) (by omega)
theorem cflat (g : Fin 8) (sa sc : Fin 4) (sw : Fin 16) (p : Fin 64) (r : Fin 2) : Statement (.cflat g sa sc sw p r) :=
  fun _ h => by cases h; exact fits_e (by omega) (by omega) (by omega) (by omega) (by omega) (by omega) (by omega) (by omega) (by omega) (by omega)
theorem cpagein (g : Fin 8) (sw : Fin 16) (p : Fin 64) (r : Fin 2) : Statement (.cpagein g sw p r) :=
  fun _ h => by cases h; exact fits_e (by omega) (by omega) (by omega) (by omega) (by omega) (by omega) (by omega) (by omega) (by omega) (by omega)
theorem cmigrate (g : Fin 8) (sw : Fin 16) (p : Fin 64) (r : Fin 2) : Statement (.cmigrate g sw p r) :=
  fun _ h => by cases h; exact fits_e (by omega) (by omega) (by omega) (by omega) (by omega) (by omega) (by omega) (by omega) (by omega) (by omega)
theorem ctags (g : Fin 8) (sw : Fin 16) (p : Fin 64) (r : Fin 2) : Statement (.ctags g sw p r) :=
  fun _ h => by cases h; exact fits_e (by omega) (by omega) (by omega) (by omega) (by omega) (by omega) (by omega) (by omega) (by omega) (by omega)
theorem vsort (g : Fin 8) (sa sb sc : Fin 4) (sw : Fin 16) (p : Fin 64) (r : Fin 2) : Statement (.vsort g sa sb sc sw p r) :=
  fun _ h => by cases h; exact fits_e (by omega) (by omega) (by omega) (by omega) (by omega) (by omega) (by omega) (by omega) (by omega) (by omega)
theorem vsoftmax (g : Fin 8) (sa sb sc : Fin 4) (sw : Fin 16) (p : Fin 64) (r : Fin 2) : Statement (.vsoftmax g sa sb sc sw p r) :=
  fun _ h => by cases h; exact fits_e (by omega) (by omega) (by omega) (by omega) (by omega) (by omega) (by omega) (by omega) (by omega) (by omega)
theorem vnorm (g : Fin 8) (sa sb sc : Fin 4) (sw : Fin 16) (p : Fin 64) (r : Fin 2) : Statement (.vnorm g sa sb sc sw p r) :=
  fun _ h => by cases h; exact fits_e (by omega) (by omega) (by omega) (by omega) (by omega) (by omega) (by omega) (by omega) (by omega) (by omega)
theorem vreduce (g : Fin 8) (sa sb sc : Fin 4) (sw : Fin 16) (p : Fin 64) (r : Fin 2) : Statement (.vreduce g sa sb sc sw p r) :=
  fun _ h => by cases h; exact fits_e (by omega) (by omega) (by omega) (by omega) (by omega) (by omega) (by omega) (by omega) (by omega) (by omega)
theorem allred (g : Fin 8) (sa sc : Fin 4) (sw : Fin 16) (p : Fin 64) (r : Fin 2) : Statement (.allred g sa sc sw p r) :=
  fun _ h => by cases h; exact fits_e (by omega) (by omega) (by omega) (by omega) (by omega) (by omega) (by omega) (by omega) (by omega) (by omega)
theorem allgath (g : Fin 8) (sa sc : Fin 4) (sw : Fin 16) (p : Fin 64) (r : Fin 2) : Statement (.allgath g sa sc sw p r) :=
  fun _ h => by cases h; exact fits_e (by omega) (by omega) (by omega) (by omega) (by omega) (by omega) (by omega) (by omega) (by omega) (by omega)
theorem redscat (g : Fin 8) (sa sc : Fin 4) (sw : Fin 16) (p : Fin 64) (r : Fin 2) : Statement (.redscat g sa sc sw p r) :=
  fun _ h => by cases h; exact fits_e (by omega) (by omega) (by omega) (by omega) (by omega) (by omega) (by omega) (by omega) (by omega) (by omega)
theorem xbcast (g : Fin 8) (sa sc : Fin 4) (sw : Fin 16) (p : Fin 64) (r : Fin 2) : Statement (.xbcast g sa sc sw p r) :=
  fun _ h => by cases h; exact fits_e (by omega) (by omega) (by omega) (by omega) (by omega) (by omega) (by omega) (by omega) (by omega) (by omega)
theorem alltoall (g : Fin 8) (sa sc : Fin 4) (sw : Fin 16) (p : Fin 64) (r : Fin 2) : Statement (.alltoall g sa sc sw p r) :=
  fun _ h => by cases h; exact fits_e (by omega) (by omega) (by omega) (by omega) (by omega) (by omega) (by omega) (by omega) (by omega) (by omega)
theorem xsend (g : Fin 8) (sa : Fin 4) (sw : Fin 16) (p : Fin 64) (r : Fin 2) : Statement (.xsend g sa sw p r) :=
  fun _ h => by cases h; exact fits_e (by omega) (by omega) (by omega) (by omega) (by omega) (by omega) (by omega) (by omega) (by omega) (by omega)
theorem xrecv (g : Fin 8) (sc : Fin 4) (sw : Fin 16) (p : Fin 64) (r : Fin 2) : Statement (.xrecv g sc sw p r) :=
  fun _ h => by cases h; exact fits_e (by omega) (by omega) (by omega) (by omega) (by omega) (by omega) (by omega) (by omega) (by omega) (by omega)
theorem logmark (g : Fin 8) (sw : Fin 16) (p : Fin 64) (code : Fin 256) (chk : Fin 2) : Statement (.logmark g sw p code chk) :=
  fun _ h => by cases h; exact fits_e (by omega) (by omega) (by omega) (by omega) (by omega) (by omega) (by omega) (by omega) (by omega) (by omega)
theorem logflush (g : Fin 8) (sw : Fin 16) (sc : Fin 5) : Statement (.logflush g sw sc) :=
  fun _ h => by cases h; exact fits_e (by omega) (by omega) (by omega) (by omega) (by omega) (by omega) (by omega) (by omega) (by omega) (by omega)
theorem qfence (g : Fin 8) (sw : Fin 16) (mask : Fin 32) : Statement (.qfence g sw mask) :=
  fun _ h => by cases h; exact fits_e (by omega) (by omega) (by omega) (by omega) (by omega) (by omega) (by omega) (by omega) (by omega) (by omega)
theorem etrel (g : Fin 8) (sw : Fin 16) (t : Fin 64) (e : Fin 5) : Statement (.etrel g sw t e) :=
  fun _ h => by cases h; exact fits_e (by omega) (by omega) (by omega) (by omega) (by omega) (by omega) (by omega) (by omega) (by omega) (by omega)
theorem ecancel (g : Fin 8) (sw : Fin 16) (mask : Fin 32) : Statement (.ecancel g sw mask) :=
  fun _ h => by cases h; exact fits_e (by omega) (by omega) (by omega) (by omega) (by omega) (by omega) (by omega) (by omega) (by omega) (by omega)
theorem esignal (g : Fin 8) (sw : Fin 16) (p : Fin 64) (mask : Fin 32) (sc : Fin 5) : Statement (.esignal g sw p mask sc) :=
  fun _ h => by cases h; exact fits_e (by omega) (by omega) (by omega) (by omega) (by omega) (by omega) (by omega) (by omega) (by omega) (by omega)
theorem esignalAdd (g : Fin 8) (sw : Fin 16) (p : Fin 64) (mask : Fin 32) (sc : Fin 5) : Statement (.esignalAdd g sw p mask sc) :=
  fun _ h => by cases h; exact fits_e (by omega) (by omega) (by omega) (by omega) (by omega) (by omega) (by omega) (by omega) (by omega) (by omega)
theorem resultLanding : Statement .resultLanding := fun _ h => by cases h
theorem interlockedResultArrival (k : Nat) : Statement (.interlockedResultArrival k) := fun _ h => by cases h
theorem windowClose : Statement .windowClose := fun _ h => by cases h
theorem forcedQuiescentPoint : Statement .forcedQuiescentPoint := fun _ h => by cases h
theorem loopEndStep : Statement .loopEndStep := fun _ h => by cases h
theorem watchdog : Statement .watchdog := fun _ h => by cases h
theorem timer : Statement .timer := fun _ h => by cases h
theorem waitConversion : Statement .waitConversion := fun _ h => by cases h
theorem waitSatisfied : Statement .waitSatisfied := fun _ h => by cases h
theorem commandStart (q : Fin 6) : Statement (.commandStart q) := fun _ h => by cases h
theorem commandComplete (q : Fin 6) : Statement (.commandComplete q) := fun _ h => by cases h
theorem engineStop (q : Fin 6) : Statement (.engineStop q) := fun _ h => by cases h
theorem etrelAtHead (q : Fin 6) : Statement (.etrelAtHead q) := fun _ h => by cases h
theorem qfenceRelease (k : Nat) : Statement (.qfenceRelease k) := fun _ h => by cases h
theorem esignalPerform (k : Nat) : Statement (.esignalPerform k) := fun _ h => by cases h
theorem copyChunk (ue : Option ReadError) : Statement (.copyChunk ue) := fun _ h => by cases h
theorem cmigratePage : Statement .cmigratePage := fun _ h => by cases h
theorem phaseFetch (q : Fin 6) : Statement (.phaseFetch q) := fun _ h => by cases h
theorem phaseFetchDone (q : Fin 6) (ue : Option ReadError) : Statement (.phaseFetchDone q ue) := fun _ h => by cases h
theorem matrixTileStep (ue : Option Nat) : Statement (.matrixTileStep ue) := fun _ h => by cases h
theorem matrixRetirement : Statement .matrixRetirement := fun _ h => by cases h
theorem mattnKeyTileVisit : Statement .mattnKeyTileVisit := fun _ h => by cases h
theorem scoutSweep1Tile (ue : Option Nat) : Statement (.scoutSweep1Tile ue) := fun _ h => by cases h
theorem scoutSweep2 (ue : Bool) : Statement (.scoutSweep2 ue) := fun _ h => by cases h
theorem sscoreTile (ue : Option Nat) : Statement (.sscoreTile ue) := fun _ h => by cases h
theorem maskRow : Statement .maskRow := fun _ h => by cases h
theorem vsortRunSegment (ue : Option Nat) : Statement (.vsortRunSegment ue) := fun _ h => by cases h
theorem rowOperation (ue : Option Nat) : Statement (.rowOperation ue) := fun _ h => by cases h
theorem exchangeStep (ue : Option ReadError) : Statement (.exchangeStep ue) := fun _ h => by cases h
theorem startMsg (m : Message) : Statement (.startMsg m) := fun _ h => by cases h
theorem dataMsg (m : Message) : Statement (.dataMsg m) := fun _ h => by cases h
theorem ackMsg (m : Message) : Statement (.ackMsg m) := fun _ h => by cases h
theorem pausedMsg (m : Message) : Statement (.pausedMsg m) := fun _ h => by cases h
theorem exchangeTimeout (peer : Nat) : Statement (.exchangeTimeout peer) := fun _ h => by cases h
theorem linkRetryRequest (port : Fin 18) (seq : Fin 4096) : Statement (.linkRetryRequest port seq) := fun _ h => by cases h
theorem linkAcknowledgement (port : Fin 18) (seq : FlitAck) : Statement (.linkAcknowledgement port seq) := fun _ h => by cases h
theorem linkUe (port : Fin 18) : Statement (.linkUe port) := fun _ h => by cases h
theorem linkTrainingStart (port : Fin 18) : Statement (.linkTrainingStart port) := fun _ h => by cases h
theorem linkTrainingComplete (port : Fin 18) : Statement (.linkTrainingComplete port) := fun _ h => by cases h
theorem linkTrainingTimeout (port : Fin 18) : Statement (.linkTrainingTimeout port) := fun _ h => by cases h
theorem faultReplyPoll (w : Waiter) : Statement (.faultReplyPoll w) := fun _ h => by cases h
theorem tfringPostRetry (w : Waiter) : Statement (.tfringPostRetry w) := fun _ h => by cases h
theorem tlbShootdownComplete : Statement .tlbShootdownComplete := fun _ h => by cases h
theorem writeBlockRetry : Statement .writeBlockRetry := fun _ h => by cases h
theorem tierNotify (die : Fin 4) (idx : Fin 4096) : Statement (.tierNotify die idx) := fun _ h => by cases h
theorem dirtyRingResume : Statement .dirtyRingResume := fun _ h => by cases h
theorem configAreaWalkRetry (part : Fin 8) (area : Fin 6) : Statement (.configAreaWalkRetry part area) := fun _ h => by cases h
theorem dispatchDecision : Statement .dispatchDecision := fun _ h => by cases h
theorem blockedReevaluation (part : Fin 8) (pipe : Nat) : Statement (.blockedReevaluation part pipe) := fun _ h => by cases h
theorem suspendedPoll (part : Fin 8) (pipe : Nat) : Statement (.suspendedPoll part pipe) := fun _ h => by cases h
theorem remontoireRefill (part : Fin 8) (pipe q : Nat) : Statement (.remontoireRefill part pipe q) := fun _ h => by cases h
theorem packetLine0Poll (part : Fin 8) (k : Fin 64) : Statement (.packetLine0Poll part k) := fun _ h => by cases h
theorem packetNop (part : Fin 8) (k : Fin 64) : Statement (.packetNop part k) := fun _ h => by cases h
theorem launch (part : Fin 8) (k : Fin 64) : Statement (.launch part k) := fun _ h => by cases h
theorem launchComplete (part : Fin 8) (pipe : Nat) : Statement (.launchComplete part pipe) := fun _ h => by cases h
theorem waitv (part : Fin 8) (k : Fin 64) : Statement (.waitv part k) := fun _ h => by cases h
theorem waitvSatisfied (part : Fin 8) (k : Fin 64) : Statement (.waitvSatisfied part k) := fun _ h => by cases h
theorem signalPacket (part : Fin 8) (k : Fin 64) : Statement (.signalPacket part k) := fun _ h => by cases h
theorem ibcall (part : Fin 8) (k : Fin 64) : Statement (.ibcall part k) := fun _ h => by cases h
theorem ibjump (part : Fin 8) (k : Fin 64) : Statement (.ibjump part k) := fun _ h => by cases h
theorem ibSpinWatchdog (part : Fin 8) (k : Fin 64) : Statement (.ibSpinWatchdog part k) := fun _ h => by cases h
theorem packetFence (part : Fin 8) (k : Fin 64) : Statement (.packetFence part k) := fun _ h => by cases h
theorem capstart (part : Fin 8) (k : Fin 64) : Statement (.capstart part k) := fun _ h => by cases h
theorem capstop (part : Fin 8) (k : Fin 64) : Statement (.capstop part k) := fun _ h => by cases h
theorem zeroPacket (part : Fin 8) (k : Fin 64) : Statement (.zeroPacket part k) := fun _ h => by cases h
theorem pswitch (part : Fin 8) (k : Fin 64) : Statement (.pswitch part k) := fun _ h => by cases h
theorem pswitchActivate (part : Fin 8) (pipe : Nat) : Statement (.pswitchActivate part pipe) := fun _ h => by cases h
theorem ckpt (part : Fin 8) (k : Fin 64) : Statement (.ckpt part k) := fun _ h => by cases h
theorem db (part : Fin 8) (k : Fin 64) (v : BitVec 64) : Statement (.db part k v) := fun _ h => by cases h
theorem dbgdb (part : Fin 8) (v : BitVec 64) : Statement (.dbgdb part v) := fun _ h => by cases h
theorem hreq (part : Fin 8) (n : Nat) (v : BitVec 64) : Statement (.hreq part n v) := fun _ h => by cases h
theorem cfgreq (v : BitVec 64) : Statement (.cfgreq v) := fun _ h => by cases h
theorem deviceRegisterWrite (off : HostReg) (v : BitVec 64) : Statement (.deviceRegisterWrite off v) := fun _ h => by cases h
theorem partitionConfiguration : Statement .partitionConfiguration := fun _ h => by cases h
theorem pswapScratchpadRestore : Statement .pswapScratchpadRestore := fun _ h => by cases h
theorem hostCxlMemRead (hpa : Nat) : Statement (.hostCxlMemRead hpa) := fun _ h => by cases h
theorem hostCxlMemWrite (hpa : Nat) (bytes : List (BitVec 8)) : Statement (.hostCxlMemWrite hpa bytes) := fun _ h => by cases h
theorem hostSnoop (hpa : Nat) (bytes : List (BitVec 8)) : Statement (.hostSnoop hpa bytes) := fun _ h => by cases h
theorem fwEventWake : Statement .fwEventWake := fun _ h => by cases h
theorem svcresWrite (v : BitVec 64) : Statement (.svcresWrite v) := fun _ h => by cases h
theorem hackmWrite (k : Fin 2) (v : BitVec 64) : Statement (.hackmWrite k v) := fun _ h => by cases h
theorem feliWrite : Statement .feliWrite := fun _ h => by cases h
theorem logRingWrite (k : Fin 2) (v : BitVec 64) : Statement (.logRingWrite k v) := fun _ h => by cases h
theorem logtailWrite (v : BitVec 64) : Statement (.logtailWrite v) := fun _ h => by cases h
theorem trootWrite (v : BitVec 64) : Statement (.trootWrite v) := fun _ h => by cases h
theorem traceSample : Statement .traceSample := fun _ h => by cases h
theorem txAbort (reason : Fin 8) : Statement (.txAbort reason) := fun _ h => by cases h
theorem dbgStop (part : Fin 8) : Statement (.dbgStop part) := fun _ h => by cases h
theorem dbgRstep (part : Fin 8) : Statement (.dbgRstep part) := fun _ h => by cases h
theorem dbgRunback (part : Fin 8) : Statement (.dbgRunback part) := fun _ h => by cases h
theorem dbgReplay (part : Fin 8) : Statement (.dbgReplay part) := fun _ h => by cases h
theorem dbgRead (part : Fin 8) : Statement (.dbgRead part) := fun _ h => by cases h
theorem dbgWrite (part : Fin 8) : Statement (.dbgWrite part) := fun _ h => by cases h
theorem dbgResume (part : Fin 8) : Statement (.dbgResume part) := fun _ h => by cases h
theorem ceRate (die : Fin 4) (unit : Fin 65536) : Statement (.ceRate die unit) := fun _ h => by cases h
theorem thermalTrip (die : Fin 4) : Statement (.thermalTrip die) := fun _ h => by cases h
theorem powerGoodBoot : Statement .powerGoodBoot := fun _ h => by cases h
theorem deviceReady : Statement .deviceReady := fun _ h => by cases h
theorem mctpControlMessage (die : Fin 4) (bytes : List (BitVec 8)) : Statement (.mctpControlMessage die bytes) := fun _ h => by cases h
theorem pldmMonitoring (die : Fin 4) (bytes : List (BitVec 8)) : Statement (.pldmMonitoring die bytes) := fun _ h => by cases h
theorem pldmFirmwareUpdate (die : Fin 4) (image : List (BitVec 8)) : Statement (.pldmFirmwareUpdate die image) := fun _ h => by cases h
theorem attestationRequest (nonce : List (BitVec 8)) : Statement (.attestationRequest nonce) := fun _ h => by cases h
theorem ueRegister : Statement .ueRegister := fun _ h => by cases h
theorem granuleZeroingComplete (gran : Nat) : Statement (.granuleZeroingComplete gran) := fun _ h => by cases h
theorem drowsyWakeComplete (m : Fin 16) : Statement (.drowsyWakeComplete m) := fun _ h => by cases h
theorem flitCrcError (port : Fin 18) (seq : List (BitVec 8)) : Statement (.flitCrcError port seq) := fun _ h => by cases h
theorem thermalTripResume (die : Fin 4) : Statement (.thermalTripResume die) := fun _ h => by cases h
theorem mainPowerRemoved : Statement .mainPowerRemoved := fun _ h => by cases h
theorem deviceReset : Statement .deviceReset := fun _ h => by cases h

end Fits

end Sys2Proof.Laws
end

