-- ==== Sys2Proof/Laws/Slot.lean ====
section
/-! SUPPORT. What the checks around a slot come to. -/

namespace Sys2Proof.Laws

open Sys2Proof.Machine Sys2Proof.Safety

/-- A slot that passes its checks does its own effect on the state after its reads. -/
theorem slotOp_passes {i : Instr} {s : State} (h : slotPasses i s = true) (body : State → Ends) :
    slotOp i s body = body (staleReads s i) := by
  simp only [slotPasses, guarded, Bool.and_eq_true, Bool.not_eq_true', decide_eq_true_eq] at h
  obtain ⟨⟨⟨⟨⟨⟨⟨⟨⟨⟨hc, hr⟩, hf⟩, hg⟩, ht⟩, hm⟩, hx⟩, hp⟩, hb⟩, ho⟩, hw⟩ := h
  have hb' : badRead s i = none := by simpa using hb
  unfold slotOp
  simp [hc, hr, hf.1, hf.2, hg, ht, hx, hp, hb', ho, hw, Nat.not_lt.mpr hm]

/-- A slot whose guard is false does nothing. -/
theorem slotOp_guard_false {i : Instr} {s : State} (hc : (s.core.closing && s.core.post == some i) = false)
    (hr : i.reservedOk = true) (hf : (i.formOk && modeFormOk i s) = true)
    (hg : ((s.guardReads (guardOf i)).any fun r => !s.core.valid r) = false) (ht : s.guardTrue (guardOf i) = false)
    (body : State → Ends) : slotOp i s body = .next s := by
  unfold slotOp
  simp only [Bool.and_eq_true] at hf
  simp [hc, hr, hf.1, hf.2, hg, ht]

/-- What holds of both branches holds of the choice. -/
theorem ite_both {α : Type} {c : Prop} [Decidable c] {Q : α → Prop} {x y : α} (hx : Q x) (hy : Q y) : Q (if c then x else y) := by
  by_cases h : c
  · rw [if_pos h]; exact hx
  · rw [if_neg h]; exact hy

/-- Everything a slot can do around its body: the body, on the state or on the state after its reads; nothing, where the guard
is false; a trap; an abort that is due; a stall, or a stall that wakes registers. -/
def SlotEnds (i : Instr) (s : State) (body : State → Ends) (e : Ends) : Prop :=
  e = body s ∨ e = body (staleReads s i) ∨ e = .next s ∨ (∃ rank cause, e = trapOut rank cause 0 0 s) ∨
  e = .next (s.txDue 4 0 0) ∨ e = stallOut s ∨ e = stallOut (startWake (wakes s.core i) s)

theorem slotOp_cases (i : Instr) (s : State) (body : State → Ends) : SlotEnds i s body (slotOp i s body) := by
  have trap : ∀ r c, SlotEnds i s body (trapOut r c 0 0 s) := fun r c => .inr (.inr (.inr (.inl ⟨r, c, rfl⟩)))
  unfold slotOp
  refine ite_both (.inl rfl) (ite_both (trap _ _) (ite_both (trap _ _) (ite_both (trap _ _) (ite_both (.inr (.inr (.inl rfl)))
    (ite_both (.inr (.inr (.inr (.inr (.inl rfl))))) (ite_both (trap _ _) (ite_both (.inr (.inr (.inr (.inr (.inr (.inl rfl)))))) ?_)))))))
  cases badRead s i with
  | some c => exact trap _ _
  | none => exact ite_both (trap _ _) (ite_both (.inr (.inr (.inr (.inr (.inr (.inr rfl)))))) (.inr (.inl rfl)))

/-- A slot whose body always answers a next state answers one. -/
theorem slotOp_next {i : Instr} {s : State} {body : State → Ends} (h : ∀ t, ∃ u, body t = .next u) :
    ∃ u, slotOp i s body = .next u := by
  rcases slotOp_cases i s body with e | e | e | ⟨_, _, e⟩ | e | e | e <;> rw [e]
  · exact h s
  · exact h _
  all_goals exact ⟨_, rfl⟩

/-- A trap answers a next state. -/
theorem trapOut_next (rank : Nat) (cause : BitVec 8) (addr arg : Word) (s : State) : ∃ u, trapOut rank cause addr arg s = .next u :=
  ⟨_, rfl⟩

/-- An access that goes on in a body that always answers a next state answers one. -/
theorem actOut_next {α : Type} {kind : AKind} {a : Act α} {f : α → State → Ends} (h : ∀ v t, ∃ u, f v t = .next u) :
    ∃ u, a.out kind f = .next u := by
  cases a with
  | ok v s => exact h v s
  | trap c v s => exact ⟨_, rfl⟩
  | fault c v s =>
    simp only [Act.out]
    split <;> exact ⟨_, rfl⟩
  | wait s => exact ⟨_, rfl⟩

/-- An instruction that acts after its bundle answers a next state. -/
theorem postOp_next (i : Instr) (ready : State → Bool) (effect : State → State) (s : State) :
    ∃ u, postOp i ready effect s = .next u := by
  simp only [postOp]
  generalize (if s.core.closing = true then s else (bundleEnd s).1) = t
  split
  · exact ⟨_, rfl⟩
  · split
    · exact ⟨_, rfl⟩
    · exact ⟨_, rfl⟩
    · exact ⟨_, rfl⟩
    · split <;> exact ⟨_, rfl⟩

theorem stopOp_next (i : Instr) (effect : State → State) (s : State) : ∃ u, stopOp i effect s = .next u := by
  unfold stopOp
  split
  · exact ⟨_, rfl⟩
  · exact postOp_next _ _ _ _

end Sys2Proof.Laws
end

