-- ==== Sys2Proof/Laws/State.lean ====
section
/-! SUPPORT. The fields of State after each update. -/

namespace Sys2Proof.Laws

open Sys2Proof.Machine

variable (s : State)

@[simp] theorem result_core (l : Option Nat) (w : Write) (es : List LogEvent) : (s.result l w es).core = { s.core with
  land := s.core.land ++ [⟨l.map (s.core.beat + ·), s.core.seq, s.core.iss.slot, s.core.iss.pc, w, es ++ s.core.iss.stale⟩],
  seq := s.core.seq + 1, iss := { s.core.iss with stale := [] } } := rfl
@[simp] theorem result_others (l : Option Nat) (w : Write) (es : List LogEvent) : (s.result l w es).others = s.others := rfl
@[simp] theorem result_dev (l : Option Nat) (w : Write) (es : List LogEvent) : (s.result l w es).dev = s.dev := rfl
@[simp] theorem result_mem (l : Option Nat) (w : Write) (es : List LogEvent) : (s.result l w es).mem = s.mem := rfl
@[simp] theorem result_tags (l : Option Nat) (w : Write) (es : List LogEvent) : (s.result l w es).tags = s.tags := rfl
@[simp] theorem result_agenda (l : Option Nat) (w : Write) (es : List LogEvent) : (s.result l w es).agenda = s.agenda := rfl
@[simp] theorem result_clock (l : Option Nat) (w : Write) (es : List LogEvent) : (s.result l w es).clock = s.clock := rfl
@[simp] theorem result_free (l : Option Nat) (w : Write) (es : List LogEvent) : (s.result l w es).free = s.free := rfl

@[simp] theorem modWin_core (f : Window → Window) : (s.modWin f).core = { s.core with win := f s.core.win } := rfl
@[simp] theorem modWin_others (f : Window → Window) : (s.modWin f).others = s.others := rfl
@[simp] theorem modWin_dev (f : Window → Window) : (s.modWin f).dev = s.dev := rfl
@[simp] theorem modWin_mem (f : Window → Window) : (s.modWin f).mem = s.mem := rfl
@[simp] theorem modWin_tags (f : Window → Window) : (s.modWin f).tags = s.tags := rfl
@[simp] theorem modWin_agenda (f : Window → Window) : (s.modWin f).agenda = s.agenda := rfl
@[simp] theorem modWin_clock (f : Window → Window) : (s.modWin f).clock = s.clock := rfl
@[simp] theorem modWin_free (f : Window → Window) : (s.modWin f).free = s.free := rfl

@[simp] theorem modR_core (f : Regs → Regs) : (s.modR f).core = { s.core with r := f s.core.r } := rfl
@[simp] theorem modR_others (f : Regs → Regs) : (s.modR f).others = s.others := rfl
@[simp] theorem modR_dev (f : Regs → Regs) : (s.modR f).dev = s.dev := rfl
@[simp] theorem modR_mem (f : Regs → Regs) : (s.modR f).mem = s.mem := rfl
@[simp] theorem modR_tags (f : Regs → Regs) : (s.modR f).tags = s.tags := rfl
@[simp] theorem modR_agenda (f : Regs → Regs) : (s.modR f).agenda = s.agenda := rfl
@[simp] theorem modR_clock (f : Regs → Regs) : (s.modR f).clock = s.clock := rfl
@[simp] theorem modR_free (f : Regs → Regs) : (s.modR f).free = s.free := rfl

@[simp] theorem modSr_core (f : StrandRegs → StrandRegs) : (s.modSr f).core = { s.core with r := { s.core.r with sr := f s.core.r.sr } } := rfl
@[simp] theorem modSr_others (f : StrandRegs → StrandRegs) : (s.modSr f).others = s.others := rfl
@[simp] theorem modSr_dev (f : StrandRegs → StrandRegs) : (s.modSr f).dev = s.dev := rfl
@[simp] theorem modSr_mem (f : StrandRegs → StrandRegs) : (s.modSr f).mem = s.mem := rfl
@[simp] theorem modSr_tags (f : StrandRegs → StrandRegs) : (s.modSr f).tags = s.tags := rfl
@[simp] theorem modSr_agenda (f : StrandRegs → StrandRegs) : (s.modSr f).agenda = s.agenda := rfl
@[simp] theorem modSr_clock (f : StrandRegs → StrandRegs) : (s.modSr f).clock = s.clock := rfl
@[simp] theorem modSr_free (f : StrandRegs → StrandRegs) : (s.modSr f).free = s.free := rfl

@[simp] theorem modSup_core (f : SupRegs → SupRegs) : (s.modSup f).core = { s.core with sup := f s.core.sup } := rfl
@[simp] theorem modSup_others (f : SupRegs → SupRegs) : (s.modSup f).others = s.others := rfl
@[simp] theorem modSup_dev (f : SupRegs → SupRegs) : (s.modSup f).dev = s.dev := rfl
@[simp] theorem modSup_mem (f : SupRegs → SupRegs) : (s.modSup f).mem = s.mem := rfl
@[simp] theorem modSup_tags (f : SupRegs → SupRegs) : (s.modSup f).tags = s.tags := rfl
@[simp] theorem modSup_agenda (f : SupRegs → SupRegs) : (s.modSup f).agenda = s.agenda := rfl
@[simp] theorem modSup_clock (f : SupRegs → SupRegs) : (s.modSup f).clock = s.clock := rfl
@[simp] theorem modSup_free (f : SupRegs → SupRegs) : (s.modSup f).free = s.free := rfl

@[simp] theorem modLog_core (f : LogRegs → LogRegs) : (s.modLog f).core = { s.core with log := f s.core.log } := rfl
@[simp] theorem modLog_others (f : LogRegs → LogRegs) : (s.modLog f).others = s.others := rfl
@[simp] theorem modLog_dev (f : LogRegs → LogRegs) : (s.modLog f).dev = s.dev := rfl
@[simp] theorem modLog_mem (f : LogRegs → LogRegs) : (s.modLog f).mem = s.mem := rfl
@[simp] theorem modLog_tags (f : LogRegs → LogRegs) : (s.modLog f).tags = s.tags := rfl
@[simp] theorem modLog_agenda (f : LogRegs → LogRegs) : (s.modLog f).agenda = s.agenda := rfl
@[simp] theorem modLog_clock (f : LogRegs → LogRegs) : (s.modLog f).clock = s.clock := rfl
@[simp] theorem modLog_free (f : LogRegs → LogRegs) : (s.modLog f).free = s.free := rfl

@[simp] theorem modEng_core (f : Engines → Engines) : (s.modEng f).core = { s.core with eng := f s.core.eng } := rfl
@[simp] theorem modEng_others (f : Engines → Engines) : (s.modEng f).others = s.others := rfl
@[simp] theorem modEng_dev (f : Engines → Engines) : (s.modEng f).dev = s.dev := rfl
@[simp] theorem modEng_mem (f : Engines → Engines) : (s.modEng f).mem = s.mem := rfl
@[simp] theorem modEng_tags (f : Engines → Engines) : (s.modEng f).tags = s.tags := rfl
@[simp] theorem modEng_agenda (f : Engines → Engines) : (s.modEng f).agenda = s.agenda := rfl
@[simp] theorem modEng_clock (f : Engines → Engines) : (s.modEng f).clock = s.clock := rfl
@[simp] theorem modEng_free (f : Engines → Engines) : (s.modEng f).free = s.free := rfl

@[simp] theorem poke_core (k : Nat) (bs : List Byte) : (s.poke k bs).core = s.core := rfl
@[simp] theorem poke_others (k : Nat) (bs : List Byte) : (s.poke k bs).others = s.others := rfl
@[simp] theorem poke_dev (k : Nat) (bs : List Byte) : (s.poke k bs).dev = s.dev := rfl
@[simp] theorem poke_mem (k : Nat) (bs : List Byte) : (s.poke k bs).mem = setBytes s.mem k bs := rfl
@[simp] theorem poke_tags (k : Nat) (bs : List Byte) : (s.poke k bs).tags = s.tags := rfl
@[simp] theorem poke_agenda (k : Nat) (bs : List Byte) : (s.poke k bs).agenda = s.agenda := rfl
@[simp] theorem poke_clock (k : Nat) (bs : List Byte) : (s.poke k bs).clock = s.clock := rfl
@[simp] theorem poke_free (k : Nat) (bs : List Byte) : (s.poke k bs).free = s.free := rfl

@[simp] theorem setMdata_core (k : Nat) (v : BitVec 25) : (s.setMdata k v).core = s.core := rfl
@[simp] theorem setMdata_others (k : Nat) (v : BitVec 25) : (s.setMdata k v).others = s.others := rfl
@[simp] theorem setMdata_dev (k : Nat) (v : BitVec 25) : (s.setMdata k v).dev = s.dev := rfl
@[simp] theorem setMdata_mem (k : Nat) (v : BitVec 25) : (s.setMdata k v).mem = s.mem := rfl
@[simp] theorem setMdata_tags (k : Nat) (v : BitVec 25) : (s.setMdata k v).tags = sset s.tags 0 (k / 64) v := rfl
@[simp] theorem setMdata_agenda (k : Nat) (v : BitVec 25) : (s.setMdata k v).agenda = s.agenda := rfl
@[simp] theorem setMdata_clock (k : Nat) (v : BitVec 25) : (s.setMdata k v).clock = s.clock := rfl
@[simp] theorem setMdata_free (k : Nat) (v : BitVec 25) : (s.setMdata k v).free = s.free := rfl

@[simp] theorem modDie_core (d : Nat) (f : Die → Die) : (s.modDie d f).core = s.core := rfl
@[simp] theorem modDie_others (d : Nat) (f : Die → Die) : (s.modDie d f).others = s.others := rfl
@[simp] theorem modDie_dev (d : Nat) (f : Die → Die) : (s.modDie d f).dev = { s.dev with dies := s.dev.dies.mapFinIdx fun i v _ => if i = d then f v else v } := rfl
@[simp] theorem modDie_mem (d : Nat) (f : Die → Die) : (s.modDie d f).mem = s.mem := rfl
@[simp] theorem modDie_tags (d : Nat) (f : Die → Die) : (s.modDie d f).tags = s.tags := rfl
@[simp] theorem modDie_agenda (d : Nat) (f : Die → Die) : (s.modDie d f).agenda = s.agenda := rfl
@[simp] theorem modDie_clock (d : Nat) (f : Die → Die) : (s.modDie d f).clock = s.clock := rfl
@[simp] theorem modDie_free (d : Nat) (f : Die → Die) : (s.modDie d f).free = s.free := rfl

@[simp] theorem modPart_core (p : Nat) (f : Partition → Partition) : (s.modPart p f).core = s.core := rfl
@[simp] theorem modPart_others (p : Nat) (f : Partition → Partition) : (s.modPart p f).others = s.others := rfl
@[simp] theorem modPart_dev (p : Nat) (f : Partition → Partition) : (s.modPart p f).dev = { s.dev with parts := s.dev.parts.mapFinIdx fun i v _ => if i = p then f v else v } := rfl
@[simp] theorem modPart_mem (p : Nat) (f : Partition → Partition) : (s.modPart p f).mem = s.mem := rfl
@[simp] theorem modPart_tags (p : Nat) (f : Partition → Partition) : (s.modPart p f).tags = s.tags := rfl
@[simp] theorem modPart_agenda (p : Nat) (f : Partition → Partition) : (s.modPart p f).agenda = s.agenda := rfl
@[simp] theorem modPart_clock (p : Nat) (f : Partition → Partition) : (s.modPart p f).clock = s.clock := rfl
@[simp] theorem modPart_free (p : Nat) (f : Partition → Partition) : (s.modPart p f).free = s.free := rfl

@[simp] theorem modPort_core (k : Nat) (f : Port → Port) : (s.modPort k f).core = s.core := rfl
@[simp] theorem modPort_others (k : Nat) (f : Port → Port) : (s.modPort k f).others = s.others := rfl
@[simp] theorem modPort_dev (k : Nat) (f : Port → Port) : (s.modPort k f).dev = { s.dev with ports := s.dev.ports.mapFinIdx fun i v _ => if i = k then f v else v } := rfl
@[simp] theorem modPort_mem (k : Nat) (f : Port → Port) : (s.modPort k f).mem = s.mem := rfl
@[simp] theorem modPort_tags (k : Nat) (f : Port → Port) : (s.modPort k f).tags = s.tags := rfl
@[simp] theorem modPort_agenda (k : Nat) (f : Port → Port) : (s.modPort k f).agenda = s.agenda := rfl
@[simp] theorem modPort_clock (k : Nat) (f : Port → Port) : (s.modPort k f).clock = s.clock := rfl
@[simp] theorem modPort_free (k : Nat) (f : Port → Port) : (s.modPort k f).free = s.free := rfl

@[simp] theorem setBarrier_core (k : Nat) (b : Barrier) : (s.setBarrier k b).core = s.core := rfl
@[simp] theorem setBarrier_others (k : Nat) (b : Barrier) : (s.setBarrier k b).others = s.others := rfl
@[simp] theorem setBarrier_dev (k : Nat) (b : Barrier) : (s.setBarrier k b).dev = { s.dev with barriers := sset s.dev.barriers zeroBarrier k b } := rfl
@[simp] theorem setBarrier_mem (k : Nat) (b : Barrier) : (s.setBarrier k b).mem = s.mem := rfl
@[simp] theorem setBarrier_tags (k : Nat) (b : Barrier) : (s.setBarrier k b).tags = s.tags := rfl
@[simp] theorem setBarrier_agenda (k : Nat) (b : Barrier) : (s.setBarrier k b).agenda = s.agenda := rfl
@[simp] theorem setBarrier_clock (k : Nat) (b : Barrier) : (s.setBarrier k b).clock = s.clock := rfl
@[simp] theorem setBarrier_free (k : Nat) (b : Barrier) : (s.setBarrier k b).free = s.free := rfl

@[simp] theorem tidy_core : (s.tidy).core = s.core := rfl
@[simp] theorem tidy_others : (s.tidy).others = s.others := rfl
@[simp] theorem tidy_dev : (s.tidy).dev = s.dev := rfl
@[simp] theorem tidy_mem : (s.tidy).mem = canonical initialByte s.mem := rfl
@[simp] theorem tidy_tags : (s.tidy).tags = canonical 0 s.tags := rfl
@[simp] theorem tidy_agenda : (s.tidy).agenda = s.agenda := rfl
@[simp] theorem tidy_clock : (s.tidy).clock = s.clock := rfl
@[simp] theorem tidy_free : (s.tidy).free = s.free := rfl

@[simp] theorem fresh_snd : (s.fresh).2 = { s with free := s.free + 1 } := rfl
@[simp] theorem freshNat_snd : (s.freshNat).2 = { s with free := s.free + 1 } := rfl

/-- The focused core by its own number. -/
@[simp] theorem coreAt_self : s.coreAt s.core.id = s.core := by simp [State.coreAt]

/-- Focusing the focused core changes nothing. -/
@[simp] theorem focus_self : s.focus s.core.id = s := by simp [State.focus]

end Sys2Proof.Laws
end

