-- ==== Sys2Proof/Tests/Slice0.lean ====
section
/-! SUPPORT. Tests: words written out from the encodings, ill-formed terms, states that meet the hypotheses of the statements,
and single steps with results worked out by hand from the rules. -/

namespace Sys2Proof.Tests

open Sys2Proof Sys2Proof.Machine Sys2Proof.Safety

noncomputable section

set_option Elab.async false

/-! Well-formedness: one ill-formed term for each check (02 R42 R49). -/

theorem test_wf_tree_test : (Instr.tree 1 0 3 0 0 1 2 0 0 0).reservedOk = false := by decide
theorem test_wf_tree_leaf : (Instr.tree 0 0 0 0 0 1 2 0 0 0).reservedOk = false := by decide
theorem test_wf_cvt_sz : (Instr.cvt 0 (.line ⟨0, 0, 0⟩) (.xreg 1) 0 1 1).reservedOk = false := by decide
theorem test_wf_vmask_b : (Instr.vmask 0 (.mask 1) (.line ⟨0, 0, 0⟩) (.mask 1) 0).reservedOk = false := by decide
theorem test_wf_segset : (Instr.segset 0 1024).formOk = false := by decide
theorem test_wf_loop : (Instr.loopOp 0 4 1 0).formOk = false := by decide
theorem test_wf_fadd : (Instr.fadd 0 (.imm 1) (.xreg 1) (.xreg 2)).formOk = false := by decide

/-! Decoding: words laid out bit by bit from the tables of 02 and the entries (02 R53 R55 to R60). -/

/-- g 1, op 0x01, d 4, a 5, b 6, func 0. -/
theorem test_decode_add : decodeA 0x20441460 = .ok (.add 1 4 5 6) := by decide
/-- g 2, op 0x20, d 4, a 4, imm 0x3FE. -/
theorem test_decode_addi : decodeA 0x480413FE = .ok (.addi 2 4 4 0x3FE) := by decide
/-- An A syllable with a zero op and another bit set is reserved (02 R42). -/
theorem test_decode_a_reserved : decodeA 0x00010000 = .error .bundleReserved := by decide
/-- An op that names no instruction (02 R42). -/
theorem test_decode_a_undef : decodeA 0x1FC00000 = .error .opcodeUndef := by decide
/-- The example of 05 R182. -/
theorem test_decode_loop : decodeX 0x8C0440000003 = .ok (.loopOp 0 4 1 3) := by decide
/-- The word of 14 R425. -/
theorem test_decode_rft : decodeX 0x9A0000000000 = .ok (.rftResume 0) := by decide
theorem test_decode_tree : decodeX 0x21D400210000 = .ok (.tree 2 3 0x15 0 0 1 0 2 0 0) := by decide
/-- The all-zero X syllable is the X NOP (02 R50). -/
theorem test_decode_x_nop : decodeX 0 = .ok (.tree 0 0 0 0 0 0 0 0 0 0) := by decide
theorem test_decode_load : decodeL 0x00C01C9002 = .ok (.ldW 0 7 9 2) := by decide
theorem test_decode_acas : decodeL 0x0A40189002 = .ok (.acas 0 6 9 2) := by decide
theorem test_decode_txabort : decodeL 0x5080040000 = .ok (.txabort 2 1) := by decide
theorem test_decode_fadd : decodeV 0x0020800824C8 = .ok (.fadd 0 (.line ⟨0, 2, 0⟩) (.line ⟨0, 2, 1⟩) (.line ⟨1, 3, 4⟩)) := by decide
theorem test_decode_iadd : decodeV 0x041003001402 = .ok (.iadd 0 (.port 1) (.port 0) (.imm 1) 0) := by decide
theorem test_decode_mattn : decodeE 0x0020DEA006 = .ok (.mattn 0 0 1 2 15 20 0 3 0) := by decide
theorem test_decode_allred : decodeE 0x1008609400 = .ok (.allred 0 0 3 0 18 1) := by decide
theorem test_decode_esignal_add : decodeE 0x1820002944 = .ok (.esignalAdd 0 0 5 4 2) := by decide
/-- A header with H[6] set is reserved (02 R40 R42). -/
theorem test_decode_header : (match decodeBundle 0x40 with | .error .bundleReserved => true | _ => false) = true := by decide
theorem test_encode_add : encode (.add 1 4 5 6) = some (.a 0x20441460) := by decide
theorem test_decode_table_word : decodeTableWord 32 0x20441460 = some (.add 1 4 5 6) := by decide

/-! Small states. -/

/-- A strand in a mode with every register valid, x6 at byte 64 of the own scratchpad, x7 = 3. -/
def ready (m : Mode) : State :=
  let x := ((Vector.replicate 64 0).set 6 0xF000000000000040).set 7 3
  let r := { zeroRegs with
    x := x, xv := BitVec.allOnes 64, pv := BitVec.allOnes 16, btv := BitVec.allOnes 8,
    m := Vector.replicate 16 ⟨[], true, .on⟩ }
  { State.reset with core := { State.reset.core with run := .strand, mode := m, r := r } }

def withX (r : Fin 64) (v : Word) (s : State) : State := s.modR fun g => { g with x := g.x.set r v }

/-- An access that goes on, and what then holds. -/
def okAnd {α : Type} (a : Act α) (f : α → State → Bool) : Bool :=
  match a with
  | .ok v s => f v s
  | _ => false

/-- A next state for which a condition holds. -/
def nextAnd (e : Ends) (f : State → Bool) : Bool :=
  match e with
  | .next s => f s
  | _ => false

/-! Witnesses of the statements about the slots. -/

theorem witness_ScalarResults : slotPasses (.add 0 5 6 7) (ready .strand) = true ∧
    scalarResult (.add 0 5 6 7) (ready .strand) = some (some 1, .x 5 0xF000000000000043, []) := by decide +kernel
theorem witness_PredicateResults : slotPasses (.cmplt 0 5 6 7) (ready .strand) = true ∧
    predResult (.cmplt 0 5 6 7) (ready .strand) = some (5, true) := by decide +kernel
theorem witness_RegisterWrites : slotPasses (.btset 0 3 1) (ready .strand) = true ∧
    writeResult (.btset 0 3 1) (ready .strand) = some (.bt 3 32) := by decide +kernel
theorem witness_ScalarLoads : slotPasses (.ldD 0 5 6 1) (ready .strand) = true ∧
    loadForm (.ldD 0 5 6 1) = some (8, BitVec.ofNat 64, 5, 6, 1) ∧ isOwn 0xF000000000000048 = true ∧
    (loadMeets 0xF000000000000048 (loadPieces none 8 [(0xF000000000000048, 8)]) (ready .strand)).isSome = true :=
  ⟨by decide +kernel, rfl, by decide +kernel, by decide +kernel⟩
theorem witness_ScalarStores : slotPasses (.stW 0 7 6 0) (ready .strand) = true ∧
    okAnd (storePieces none 4 4 [(0xF000000000000040, [3, 0, 0, 0])] (ready .strand)) (fun _ _ => true) = true := by decide +kernel
theorem witness_TagAccesses : slotPasses (.ldtag 0 5 6 0) (ready .strand) = true ∧
    (loadMeets 0xF000000000000040 (readTag 0xF000000000000040) (ready .strand)).isSome = true ∧
    slotPasses (.sttag 0 7 6 0) (ready .strand) = true ∧
    okAnd (tagPlace 0xF000000000000040 (ready .strand)) (fun l _ => l.isSome) = true := by decide +kernel
theorem witness_LineLoads : slotPasses (.ldv 0 ⟨0, 1, 2⟩ 6 0) (ready .strand) = true ∧
    (lineForm (.ldv 0 ⟨0, 1, 2⟩ 6 0) (ready .strand)).isSome = true ∧
    (loadMeets 0xF000000000000040 (loadPieces (some 0xF000000000000040) 4 (linePieces 0xF000000000000040 4))
      (ready .strand)).isSome = true := by decide +kernel
theorem witness_LineStores : slotPasses (.stv 0 ⟨0, 1, 2⟩ 6 0) (ready .strand) = true ∧
    okAnd (storePieces (some 0xF000000000000040) 4 128 ((linePieces 0xF000000000000040 4).map fun p => (p.1, toBytes 4 0))
      (ready .strand)) (fun _ _ => true) = true := by decide +kernel
/-- Pattern 0 of all zeros: one field of one bit for each lane (06 R195). -/
theorem witness_ExtractionLoads : slotPasses (.ldx 0 ⟨0, 1, 2⟩ 6 0) (ready .strand) = true ∧
    patternOk (ready .strand).core.r 0 = true ∧
    (loadMeets 0xF000000000000040 (loadPieces (some 0xF000000000000040) 1 (extractPieces 0xF000000000000040
      (extractLanes (ready .strand).core.r 0))) (ready .strand)).isSome = true := by decide +kernel
theorem witness_Atomics : slotPasses (.aadd 0 7 6 0) (ready .strand) = true ∧
    atomicForm (.aadd 0 7 6 0) = some (8, 7, 6, 0) ∧
    okAnd (atomicPlace 0xF000000000000040 8 (ready .strand)) (fun l u => u.core.tx.isNone && u.core.replay.isNone &&
      (match atomicValue (.aadd 0 7 6 0) u (ofBytes (u.viewBytes l.key 8)) with
        | some (some n, _) => n == 3 && (performRun u.agent (some u.core.id) l.key (toBytes 8 n) u).1
        | _ => false)) = true := by decide +kernel
theorem witness_Atomics_acas : okAnd (atomicPlace 0xF000000000000040 8 (ready .strand)) (fun l u =>
      (match atomicValue (.acas 0 7 6 0) u (ofBytes (u.viewBytes l.key 8)) with
        | some (none, _) => true
        | _ => false)) = true := by decide +kernel
theorem witness_FencesAndCaches : slotPasses (.fenceOp 0 4) (ready .strand) = true ∧
    slotPasses (.cflushWb 0 6 0) (ready .strand) = true ∧
    okAnd (locatePieces (ready .strand).agent .read false none 64 [(0xF000000000000040, 64)] (ready .strand))
      (fun l _ => !l.isEmpty) = true := by decide +kernel
theorem witness_Barriers : slotPasses (.barinit 0 7 0 31) (ready .strand) = true ∧ (ready .strand).index 0 31 ≤ 31 ∧
    ((ready .strand).x 7).toNat = 3 ∧ ((ready .strand).barrier (barrierKey 0x20 31)).arrived = 0 ∧
    slotPasses (.bararr 0 5 0 31) (ready .strand) = true ∧
    (((ready .strand).setBarrier (barrierKey 0x20 31) ⟨3, 2, 0⟩).barrier (barrierKey 0x20 31)).expect = 3 ∧
    slotPasses (.barwait 0 5 0 0) (withX 5 (BitVec.allOnes 64) (ready .strand)) = true := by decide +kernel

/-- A pipeline with one stage whose input port 0 is queue 0 and whose output port 4 is queue 1. -/
def squeue (es : List QEntry) : SQueue :=
  { esize := 16, cap := 8, high := 6, low := 2, ring := 0, ringcap := 0, quota := 0, chip := es, ringHead := 0, ringCount := 0,
    nextSeq := 3, resvChip := 0, resvRing := 0, latched := false, closed := false }
def withPipe (s : State) : State :=
  let q : QEntry := ⟨2, toBytes 16 5, [0], none⟩
  let p : Pipeline :=
    { pipe := 0, framepool := 0, nframes := 1, recpool := 0, nrecpool := 1, spillpool := 0, spilln := 0,
      stages := [⟨0, [], 1, 0, false, 1, [0], [1], 0, 0⟩], queues := [squeue [q], squeue []], queueK := 0, packet := 0, l1n := 1, cmask := 0, rectab := 0,
      sptab := [], recs := [], nextGid := 0, switch := none, cause := none, causePc := 0, unit := none, poison := false,
      misses := [], reserve := [], migrating := false, slots := 0 }
  s.modPart 0 fun v => { v with pipes := [(0, p)] }
theorem witness_StageQueues : slotPasses (.qpush 0 4 6) (withPipe (ready .strand)) = true ∧
    (match portOf 4 true (withPipe (ready .strand)) with
      | some (id, v) => id == 1 && !v.closed && v.reserve.isSome &&
        okAnd (readEntry 0xF000000000000040 v.esize (withPipe (ready .strand))) fun _ u => u.core.replay.isNone
      | none => false) = true ∧
    slotPasses (.qpop 0 5 0 6) (withPipe (ready .strand)) = true ∧
    (match portOf 0 false (withPipe (ready .strand)) with
      | some (id, v) => id == 0 && (pieceFault none 16 0xF000000000000040 v.esize).isNone && (match v.oldest with
        | some e => okAnd (storeAt ((withPipe (ready .strand)).queueScope 0 0) none 16 v.esize [(0xF000000000000040, e.bytes)]
            (withPipe (ready .strand))) fun _ _ => true
        | none => false)
      | none => false) = true := by decide +kernel

/-- A pop of an empty queue: closed, where both answer, and open, where QTRY does (06 R209). -/
theorem witness_StageQueues_empty :
    let p := fun (b : Bool) => (withPipe (ready .strand)).modQueue 0 0 0 fun v => { v with chip := [], closed := b }
    slotPasses (.qpop 0 5 0 6) (p true) = true ∧ slotPasses (.qtry 0 5 0 6) (p false) = true ∧
    ([true, false].all fun b => match portOf 0 false (p b) with
      | some (id, v) => id == 0 && (pieceFault none 16 0xF000000000000040 v.esize).isNone && v.oldest.isNone && v.ringCount == 0 && v.closed == b
      | none => false) = true := by decide +kernel

/-- Tile 60 of the core is a message ring of 16 entries with one message; the core has credits for itself. -/
def withRing (s : State) : State :=
  { s with core := { s.core with
      tiles := s.core.tiles.set 60 ⟨0, 16, .empty, false, 7, 0⟩
      tilesOpen := s.core.tilesOpen.set 60 ⟨0, 16, .empty, false, 7, 0⟩
      rings := s.core.rings.set 0 ⟨0, 1, 0, [0x20]⟩
      credits := [(1, 2)] } }.modDie 0 fun d => { d with qmask := BitVec.allOnes 72 }
theorem witness_Messages :
    let s := withRing (withX 5 1 (ready .strand))
    slotPasses (.rsend 0 5 0 6) s = true ∧ s.reachable s.core.id 1 = true ∧ coreNumber (clusterId s.core.id) 1 = s.core.id ∧
    pieceFault none 64 0xF000000000000040 64 = none ∧ ringSize s.core s.core.tileView 0 = some 16 ∧
    okAnd (readMessage 0xF000000000000040 s) (fun _ u => decide (0 < sget u.core.credits 0 1)) = true ∧
    slotPasses (.rrecv 0 7 0 6) s = true ∧ (s.core.rings.get 0).claimed < (s.core.rings.get 0).tail - (s.core.rings.get 0).head ∧
    okAnd (storeMessage 0xF000000000000040 (s.peek (scratchKey s.core.id 0) 64) (s.mdata (scratchKey s.core.id 0)) s)
      (fun _ _ => true) = true := by decide +kernel

theorem witness_TileInstructions :
    slotPasses (.ttdef 0 7 0 9) (ready .strand) = true ∧ ((ready .strand).core.tileView.get 9).state = .empty ∧
    (Tile.ofWord ((ready .strand).x 7)).owner ≠ 5 ∧ (ready .strand).index 0 9 = (9 : Fin 64).val := by decide +kernel
theorem witness_TileInstructions_release :
    let s := { ready .strand with core := { (ready .strand).core with tiles := (Vector.replicate 64 zeroTile).set 9 ⟨0, 4, .ready, false, 5, 0⟩ } }
    slotPasses (.ttrel 0 0 9) s = true ∧ (s.core.tileView.get 9).size ≠ 0 ∧ 5 ≤ (s.core.tileView.get 9).owner.toNat ∧
    (s.core.tileView.get 9).state = .ready := by decide +kernel

def inTx (s : State) : State :=
  { s with core := { s.core with tx := some ⟨s.core.r, [], [], [], [], [], [], 0, false, none⟩ } }
/-- An atomic of an open transaction: to the own scratchpad, and to that of site 1 (12 R384 R386). -/
theorem witness_Atomics_tx :
    let s := inTx (ready .strand)
    let u := withX 6 0xF100000000200040 s
    (slotPasses (.aadd 0 7 6 0) s = true ∧ s.txAperture none 8 [(0xF000000000000040, 8)] = false ∧
      okAnd (atomicPlace 0xF000000000000040 8 s) (fun l v => v.core.tx.isSome && v.core.replay.isNone &&
        (match atomicValue (.aadd 0 7 6 0) v (ofBytes (v.viewBytes l.key 8)) with
          | some (some n, _) => n == 3
          | _ => false)) = true) ∧
    (slotPasses (.aadd 0 7 6 0) u = true ∧ u.txAperture none 8 [(0xF100000000200040, 8)] = true) := by decide +kernel
theorem witness_Transactions : slotPasses (.txbegin 0 1 1) (ready .strand) = true ∧ (ready .strand).core.tx = none ∧
    slotPasses (.txend 0) (inTx (ready .strand)) = true ∧ slotPasses (.txabort 0 3) (inTx (ready .strand)) = true ∧
    ((inTx (ready .strand)).txDue 3 3 0).txDueNow = some (3, 3, 0) := by decide +kernel

theorem witness_Transfers : slotPasses (.br 0 4) (ready .strand) = true ∧ ((ready .strand).relTarget 4).toNat % 32 = 0 ∧
    slotPasses (.loopOp 0 7 0 2) (ready .strand) = true ∧ activeLoops (ready .strand).core.r.sr.lact = [] ∧
    (ready .strand).x 7 ≠ 0 ∧ slotPasses (.tree 2 3 1 0 0 1 0 2 0 0) (ready .strand) = true ∧
    (ready .strand).core.r.btv.getLsbD 1 = true ∧ (ready .strand).leafOf 2 3 1 0 0 ≤ 5 := by decide +kernel

theorem witness_AfterTheBundle : slotPasses (.svc 0 5) (ready .strand) = true ∧ (ready .strand).core.closing = false ∧
    (match afterBundle (.svc 0 5) (ready .strand) with
      | some (ready, _) => (match closeWindow (drain (bundleEnd (Sys2Proof.Tests.ready .strand)).1) with
        | .done u => ready u
        | _ => false)
      | none => false) = true ∧ (bundleEnd (ready .strand)).1.core.iss.gone = false := by decide +kernel

/-- The other rows: TRAP, YIELD, SUSPEND, EXIT, IDLE, FORK without a free record, RFT with TDISP 0 and 1, and CTXSAVE. -/
theorem witness_AfterTheBundle_others :
    let rows : List (Instr × State) := [(.trapOp 0 5, ready .strand), (.yield 0, ready .strand), (.suspend 0, ready .strand),
      (.exitOp 0, ready .strand), (.idle 0, ready .service), (.rftResume 0, ready .supervisor),
      (.rftYield 0, (ready .supervisor).modSup fun t => { t with tstatus := 0x11 }), (.ctxsave 0 8, withX 8 0x20000 (ready .supervisor))]
    (rows.all fun x => slotPasses x.1 x.2 && !x.2.core.closing && !(bundleEnd (kept x.1 (staleReads x.2 x.1))).1.core.iss.gone &&
      match afterBundle x.1 (staleReads x.2 x.1) with
      | some (go, _) => (match closeWindow (drain (bundleEnd (kept x.1 (staleReads x.2 x.1))).1) with
        | .done u => go u
        | _ => false)
      | none => false) = true := by decide +kernel

theorem witness_Waits : slotPasses (.waitMem 0 6 5) (ready .strand) = true ∧
    (match loadMeets 0xF000000000000040 (loadPieces none 4 [(0xF000000000000040, 4)]) (ready .strand) with
      | some (bs, u) => decide (0 ≤ ((BitVec.ofNat 32 (ofBytes bs) : W32) - (u.x 5).setWidth 32).toInt)
      | none => false) = true ∧
    slotPasses (.waitEng 0 31) (ready .strand) = true ∧ (ready .strand).core.eng.queue 0 = [] := by decide +kernel
/-- The word is below the awaited value; a queue that the mask names holds a command. -/
theorem witness_Waits_stall :
    let s := withX 5 7 (ready .strand)
    let u := s.modEng fun g => { g with nextSeq := 1, queues := g.queues.set 2 [newCmd (.cfill 0 2 0 5 0) s] }
    slotPasses (.waitMem 0 6 5) s = true ∧
    (match loadMeets 0xF000000000000040 (loadPieces none 4 [(0xF000000000000040, 4)]) s with
      | some (bs, v) => decide (((BitVec.ofNat 32 (ofBytes bs) : W32) - (v.x 5).setWidth 32).toInt < 0)
      | none => false) = true ∧
    slotPasses (.waitEng 0 4) u = true ∧ (u.core.eng.queue 2).any (fun c => !isEtrel c.instr) = true := by decide +kernel

/-- A configuration whose cluster list is cluster 0 of die 0. -/
def someCfg : PartCfg :=
  { at_ := 0, flags := 0, shpart := 0, clusters := [0], granules := [0, 1], linkmask := 0, troot := 0, wdlimit := 0, qmax := 0, maxred := 0,
    tvec := 0x4000, tcmp := 0, areas := [0, 0, 0, 0x100000, 0, 0], swap := 0, pstate := 0, log2s := [0, 0, 0, 0, 0, 0], descs := [] }
def withCfg (s : State) : State := s.modPart 0 fun v => { v with cfg := some someCfg }
theorem witness_PrivilegedEffects : slotPasses (.tlbinvPage 0 6 3) (ready .supervisor) = true ∧
    slotPasses (.tlbinvAll 0 3) (ready .supervisor) = true ∧ slotPasses (.cinvWbinv 0) (ready .supervisor) = true ∧
    slotPasses (.cinvInv 0) (ready .supervisor) = true ∧ slotPasses (.cinvWbpage 0 6) (ready .supervisor) = true ∧
    okAnd (locate (strandAgent (ready .supervisor) 0) .read false 0xF000000000000040 (ready .supervisor)) (fun _ _ => true) = true := by
  decide +kernel
theorem witness_PrivilegedEffects_units :
    let s := withCfg (withX 8 1 (withX 5 0x20 (ready .service)))
    slotPasses (.hackset 0 5 1) s = true ∧ isSite (bits (s.x 5) 0 9) = true ∧ someCfg.hasCore (bits (s.x 5) 0 9) = true ∧
    slotPasses (.dirtyclr 0 8 8) s = true ∧ (s.x 8).toNat + (s.x 8).toNat ≤ someCfg.granules.length * 16384 ∧
    slotPasses (.quarantine 0 5) s = true ∧ bits (s.x 5) 9 7 < 8 := by decide +kernel

/-- Partitions 0 and 1 share cluster 0 of die 0; partition 0 is resident, and no core of the cluster runs. -/
theorem witness_PrivilegedEffects_swap :
    let c := { someCfg with flags := 8, shpart := 1 }
    let z := ((withX 8 0 (withX 9 1 (ready .service))).modPart 0 fun v => { v with cfg := some c, resident := true }).modPart 1 fun v =>
      { v with cfg := some { someCfg with flags := 8, shpart := 0 } }
    let s : State := { z with core := { z.core with id := 3 }, others := [] }
    slotPasses (.pswap 0 8 9) s = true ∧ (s.x 8).toNat = 0 ∧ (s.x 9).toNat = 1 ∧ s.cfg 0 = some c ∧
    s.cfg 1 = some { someCfg with flags := 8, shpart := 0 } ∧ swapPartners c { someCfg with flags := 8, shpart := 0 } 0 1 = true ∧
    (s.part 0).resident = true ∧ ((swapCores c).all fun x => swapReady (s.coreAt x.1)) = true := by decide +kernel

theorem witness_CoreReads : slotPasses .nop (ready .strand) = true ∧ slotPasses (.chkerr 0 5 1) (ready .strand) = true ∧
    slotPasses (.rdpw 0 5 7 3 0)
      { ready .strand with core := { (ready .strand).core with pwsize := Vector.replicate 8 0x8000000000000008 } } = true ∧
    slotPasses (.rdtime 0 5) (ready .strand) = true := by decide +kernel

/-- Line (0, 1, 2) of a matrix register holds 2 in each element. -/
def withLine (s : State) : State :=
  s.modR fun g => { g with m := g.m.set 0 ⟨(List.range 1024).map fun k => (k, 2), true, .on⟩, xv := BitVec.allOnes 64 }
theorem witness_LaneResults :
    let i := Instr.iadd 0 (.line ⟨0, 1, 2⟩) (.xreg 7) (.imm 1) 0
    slotPasses i (ready .strand) = true ∧
    (match laneOp i (ready .strand) with
      | some (l, ty, d, src, _) => l == 2 && d == .line ⟨0, 1, 2⟩ && destOk d (ready .strand) && (laneSources ty src (ready .strand)).isSome
      | none => false) = true := by decide +kernel
theorem witness_OtherVectorResults :
    slotPasses (.vext 0 (.xdest 5) (.line ⟨0, 1, 2⟩) (.imm 1) 1) (ready .strand) = true ∧
    okAnd (vsource .int (.line ⟨0, 1, 2⟩) (ready .strand)) (fun _ u => okAnd (vsource .int (.imm 1) u) fun _ _ => true) = true ∧
    slotPasses (.vsel 0 (.line ⟨0, 1, 2⟩) (.xreg 7) (.imm 1)) (ready .strand) = true ∧
    slotPasses (.viota 0 (.line ⟨0, 1, 2⟩) (.xreg 7) (.imm 1)) (ready .strand) = true ∧
    slotPasses (.vred 0 (.xdest 5) (.line ⟨0, 1, 2⟩) 0) (ready .strand) = true ∧
    slotPasses (.bscale 0 (.xdest 5) (.line ⟨0, 1, 2⟩) (.xreg 7) 0) (ready .strand) = true := by decide +kernel
theorem witness_MaskAndMatrixResults :
    slotPasses (.vmask 0 (.mask 1) (.mask 2) (.mask 3) 0) (ready .strand) = true ∧
    slotPasses (.vpopc 0 (.xdest 5) (.mask 2)) (ready .strand) = true ∧
    slotPasses (.mmr 0 3 (.line ⟨0, 1, 2⟩) (.line ⟨0, 1, 3⟩) 1) (ready .strand) = true ∧
    okAnd (vsource .int (.line ⟨0, 1, 2⟩) (ready .strand)) (fun _ u => okAnd (vsource .int (.line ⟨0, 1, 3⟩) u) fun _ _ => true) = true ∧
    slotPasses (.mwake 0 3) (ready .strand) = true ∧ ((ready .strand).core.r.m.get 3).power = .on := by decide +kernel
/-- Port 1 is a destination of 32-bit elements in the own scratchpad: B, then valid and written in word 1, one loop of 32 positions of 4 bytes. -/
def porting (s : State) : State :=
  s.modR fun g => { g with ag := vset (vset (vset g.ag 16 0xF000000000000000) 17 0xC0) 18 0x400000020 }
theorem witness_OtherVectorResults_forms :
    let s := porting (ready .strand)
    let l : VOp := .line ⟨0, 1, 2⟩
    destOk (.port 1) s = true ∧
    ([Instr.vsel 0 (.port 1) (.xreg 7) (.imm 1), .viota 0 (.port 1) (.xreg 7) (.imm 1), .vred 0 (.port 1) l 0, .vred 0 l l 0,
      .bscale 0 (.port 1) l (.xreg 7) 0, .bscale 0 l l (.xreg 7) 0, .bscale 0 l l (.xreg 7) 1, .bscale 0 (.xdest 5) l (.xreg 7) 1].all
        fun i => slotPasses i s) = true ∧
    okAnd (vsource .int l s) (fun _ u => destOk (.port 1) u && okAnd (vsource .int (.xreg 7) u) fun _ v => destOk (.port 1) v) = true := by
  decide +kernel
theorem witness_MaskAndMatrixResults_forms :
    let s := porting (ready .strand)
    let l : VOp := .line ⟨0, 1, 2⟩
    ([Instr.vmask 0 (.mask 1) (.xreg 7) VOp.unused 0, .vmask 0 (.xdest 5) (.mask 2) VOp.unused 0, .vmask 0 (.mask 1) l VOp.unused 0,
      .vmask 0 l (.mask 2) VOp.unused 0, .vmask 0 (.port 1) (.mask 2) VOp.unused 0, .vpopc 0 l l, .vpopc 0 (.port 1) l].all
        fun i => slotPasses i s) = true ∧
    okAnd (vsource .int (.mask 2) s) (fun _ u => destOk (.port 1) u && destOk l u) = true ∧
    okAnd (vsource .int l s) (fun _ u => destOk (.port 1) u && destOk l u) = true := by decide +kernel
/-- MWAKE of a register that is DROWSY, and of one that is GATED. -/
theorem witness_MaskAndMatrixResults_wake :
    let s := fun (p : Power) => (ready .strand).modR fun g => { g with m := g.m.set 3 ⟨[], false, p⟩ }
    slotPasses (.mwake 0 3) (s .drowsy) = true ∧ ((s .drowsy).core.r.m.get 3).power = .drowsy ∧
    slotPasses (.mwake 0 3) (s .gated) = true ∧ ((s .gated).core.r.m.get 3).power = .gated := by decide +kernel
theorem witness_CommandsEnter : slotPasses (.mattn 0 0 1 2 15 20 0 3 0) (withX 20 0 (ready .strand)) = true ∧
    engineCode (.mattn 0 0 1 2 15 20 0 3 0) < 7 ∧ noPlace (.mattn 0 0 1 2 15 20 0 3 0) (ready .strand) = false := by decide +kernel

/-! Witnesses of the statements about events of the core and its engines. -/

/-- The word ADDI x5, x6, 1 where the next step fetches. -/
def placed : State := (ready .strand).withFetchWord 32 0x08051801
theorem witness_IssueEvents : (ready .strand).core.post = none ∧
    (match openNext { placed with core := { placed.core with win := { emptyWindow with bundles := 4096 } } } with
      | some (b, t) => forcedDue t b
      | none => false) = true ∧
    (ready .strand).core.wdcnt ≠ (ready .strand).core.sup.wdlimit ∧
    timerDue { resetCore 32 with sup := { resetSup with tcmp := 5 } } 5 = true ∧ enginesAtStop (ready .strand) = true := by decide +kernel
/-- The two bounds of loop 0 and LACT with loop 0 alone: the bundle at pc 64 ends it. -/
def looping : State :=
  let s := (ready .strand).modSr fun r => { r with lact := lactOf [0], lstart := r.lstart.set 0 32, lend := r.lend.set 0 64 }
  { s.modR fun g => { g with lc := g.lc.set 0 3 } with core :=
      { (s.modR fun g => { g with lc := g.lc.set 0 3 }).core with iss := { noIssue with active := true, pc := 64 } } }
/-- WAIT.MEM of the word at x6, a global address, has stalled for 256 clocks. -/
theorem witness_IssueEvents_wait :
    let z := withX 6 0x20000 (((ready .strand).withFetchWord 32 0).poke 0 (toBytes 32 (packX 0 12 6 5 * 2 ^ 16)))
    let s : State := { z with core := { z.core with waitClocks := 256, record := [1] } }
    (pendingWait s).isSome = true ∧ enginesAtStop s = true := by decide +kernel
theorem witness_IssueEvents_loop : looping.core.iss.active = true ∧ looping.core.iss.target = none ∧
    (stepLoops looping.core.iss.pc (activeLoops looping.core.r.sr.lact) looping).1 = some 32 := by decide +kernel

theorem witness_UnitEvents :
    let s := (withCfg (ready .service)).modPart 0 fun v => { v with restoring := [(0x20, 0)] }
    (List.finRange 8).find? (fun p => !(s.part p.val).restoring.isEmpty) = some 0 ∧ (s.cfg 0).isSome = true ∧
    ((swapCores someCfg).find? fun x => x.1 == 0x20).isSome = true := by decide +kernel

/-- A core that holds a load of a global page waits with the shootdown of that page, and not with that of another (04 R122). -/
theorem witness_UnitEvents_shoot :
    let s := (ready .supervisor).modWin fun w => { w with held := [.load 0x20000 0x20000 [0] 0] }
    shootWaits s.core.partOf 3 (some 0x20000) s = true ∧ shootWaits s.core.partOf 3 (some 0x30000) s = false := by decide +kernel

/-- A record whose fields stand at (offset, bytes, value). -/
def recordOf (n : Nat) (fs : List (Nat × Nat × Nat)) : List Byte :=
  (List.range n).map fun i =>
    (fs.findSome? fun f => if f.1 ≤ i ∧ i < f.1 + f.2.1 then some (BitVec.ofNat 8 (f.2.2 / 256 ^ (i - f.1))) else none).getD 0
/-- A shape of two dimensions in the own scratchpad, elements of 2^e bytes. -/
def plane (base rows cols e : Nat) : Shape :=
  ⟨#v[0xF000000000000000 + BitVec.ofNat 64 base, BitVec.ofNat 64 (cols + 2 ^ (32 + e)), BitVec.ofNat 64 (rows + cols * 2 ^ (32 + e)), 0, 0, 0, 0,
    BitVec.ofNat 64 (e + 8)]⟩
/-- A command that holds its queue's head. -/
def cmdOf (i : Instr) (running : Bool) (hs : List Shape) : Cmd :=
  { instr := i, seq := 0, win := 0, mode := .strand, pc := 0, preg := 0, shapes := hs, boxes := [], tiles := [], committed := true,
    running := running, started := running, resume := false, faulted := false, mismatch := false, errors := 0 }
/-- Queue `q` holds one command; its engine's record and marks. -/
def engaged (q : Fin 6) (c : Cmd) (prm : List Byte) (marks : List Nat) : State :=
  ((ready .strand).modEng fun g => { g with queues := g.queues.set q [c] }).modWork q.val fun w => { w with prm := prm, marks := marks }
/-- The elements' places are found and their writes can be performed at once. -/
def elemsLand (ag : Agent) (es : List EElem) (s : State) : Bool :=
  okAnd (locateElems ag es s) fun ds u =>
    (dirtyAll ag (ds.map fun x => writeElems .inherit x.1 x.2 u) u).1 &&
    (dirtyAll ag (ds.map fun x => writeElems .inherit x.1 x.2 u) u).2.core.replay.isNone &&
    !(dirtyAll ag (ds.map fun x => writeElems .inherit x.1 x.2 u) u).2.logFull
theorem writesElems_of_land (q : Nat) (c : Cmd) (ag : Agent) (es : List EElem) (adv : State → State) (s : State)
    (h : elemsLand ag es s = true) : ∃ t, writesElems q c ag es adv s t := by
  unfold elemsLand okAnd at h
  split at h
  · rename_i ds u hd
    simp only [Bool.and_eq_true, Option.isNone_iff_eq_none] at h
    exact ⟨_, ds, u, hd, _, Prod.ext h.1.1 rfl, h.1.2, .inl ⟨by simpa using fun hf => absurd hf (by simpa using h.2), rfl⟩⟩
  · cases h

def fillCmd (running : Bool) : Cmd := cmdOf (.cfill 0 2 0 5 0) running [plane 0 2 4 2]
/-- ESIGNAL of no engine, its record in the own scratchpad: address 64 of the scratchpad, value 7. -/
def signalState : State :=
  let c : Cmd := { cmdOf (.esignal 0 0 5 0 4) false [] with preg := 0xF000000000000000 }
  (((ready .strand).modEng fun g => { g with signals := [c] }).poke (scratchKey 0x20 0) (b8 0xF000000000000040 ++ b8 7))
theorem witness_CommandEvents :
    let s := engaged 2 (fillCmd true) [] []
    s.engineReady 2 = some (fillCmd true) ∧ cmdDone 2 (fillCmd true) s = true ∧ (s.work 2).mid = false ∧ (s.runningCmd 2).isSome = true ∧
    startable 2 (fillCmd false) (engaged 2 (fillCmd false) [] []) = true ∧
    (refreshBoxes (engaged 2 (fillCmd false) [] [])).core.hold 2 = 0 := by decide +kernel
/-- CFILL with nothing before it, its record at the start of the own scratchpad, starts. -/
theorem witness_CommandEvents_start :
    let c : Cmd := { cmdOf (.cfill 0 2 0 5 0) false [plane 64 2 4 2, plane 64 2 4 2, plane 64 2 4 2] with preg := 0xF000000000000000 }
    let u := refreshBoxes ((engaged 2 c [] []).poke (scratchKey 0x20 0) (recordOf 64 [(0, 1, 2)]))
    (match u.head 2 with
      | some d => !u.core.eng.hazard d && !u.core.eng.fenced 2 d && (tileFault u d).isNone && u.core.hold 2 == 0 &&
        !(describeCmd 2 d u).core.eng.disabled.getLsbD 3 && okAnd (startCmd 2 d (describeCmd 2 d u)) fun _ _ => true
      | none => false) = true := by decide +kernel
theorem witness_CommandEvents_stop :
    let s := (engaged 2 (fillCmd true) [] []).modWork 2 fun w => { w with stopReq := 1 }
    (s.runningCmd 2).isSome = true ∧ (s.work 2).stopReq ≠ 0 ∧ (s.work 2).open_ = false := by decide +kernel
theorem witness_CommandEvents_signals :
    let s := (ready .strand).modEng fun g => { g with signals := [cmdOf (.qfence 0 0 4) false []] }
    earlierDone (cmdOf (.qfence 0 0 4) false []) s = true ∧ isQfence (cmdOf (.qfence 0 0 4) false []).instr = true ∧
    (match signalState.core.eng.signals with
      | [c] => earlierDone c signalState && (signalForm c.instr == some (false, 4)) && okAnd (readDirect (engineAgent signalState 2 false) c.preg 16 signalState)
          fun r u => okAnd (locate (engineAgent signalState 2 false) .write true (fw (bytesOf r) 0) u) fun l w =>
            (performRun (engineAgent signalState 2 false) none l.key (b8 (fw (bytesOf r) 8)) w).1 && (fw (bytesOf r) 0).toNat % 8 == 0
      | _ => false) = true := by decide +kernel

/-- The first blocks of the own scratchpad are tagged with a 16-bit format. -/
def tagged (n : Nat) (s : State) : State :=
  (List.range n).foldl (fun s k => s.setMdata (scratchKey 0x20 (64 * k)) ((mkTag 4 1 0 0 false).setWidth 25)) s
/-- MGEMM with A 1 by 32, B 1 by 32 and C 1 by 1, one batch. -/
def gemmCmd : Cmd := cmdOf (.mgemm 0 0 1 2 0 5 0 0) true [plane 0 1 32 1, plane 128 1 32 1, plane 256 1 1 2]
def gemming (marks : List Nat) (ps : List Phase) (mid : Bool) : State :=
  (engaged 0 gemmCmd (recordOf 128 [(2, 1, 1), (3, 1, 2), (8, 4, 1)]) marks).modWork 0 fun w => { w with phases := ps, mid := mid }
theorem witness_PhaseEvents :
    let s := gemming [] [] false
    s.engineReady 0 = some gemmCmd ∧ (s.work 0).phases = [] ∧ isGemm gemmCmd.instr = true ∧
    (dimsOf gemmCmd (s.work 0).prm).unit (posAt s) < (dimsOf gemmCmd (s.work 0).prm).total ∧
    field (s.work 0).prm 2 1 = 1 ∧ (s.core.tiles.get 1).state = .empty := by decide +kernel
/-- The other sequencers: MATTN with a candidate, SCOUT in sweep 1, VSORT's first run. -/
theorem witness_PhaseEvents_others :
    let a := (engaged 0 (cmdOf (.mattn 0 0 1 2 0 5 0 3 0) true [plane 0 1 32 1, plane 128 1 32 1, plane 256 1 32 2, plane 384 1 32 1])
      (recordOf 192 [(24, 4, 1), (28, 4, 1)]) [0, 0, 0, 0, 1]).modWork 0 fun v => { v with rows := [(5000, 1)] }
    let x := cmdOf (.mattn 0 0 1 2 0 5 0 3 0) true [plane 0 1 32 1, plane 128 1 32 1, plane 256 1 32 2, plane 384 1 32 1]
    let c := cmdOf (.scout 0 0 1 0 5 0) true [plane 0 1 32 1, plane 128 1 32 1]
    let b := recordOf 128 [(16, 4, 1), (92, 4, 1)]
    let u := ((engaged 1 c b [0, 0, 0, 0, 1]).modWork 1 fun v => { v with rows := [(5000, 1)] }).setProgs 1 [(4, word2 1 0)]
    let y := cmdOf (.vsort 0 0 1 2 0 5 0) true [plane 0 1 2 2, plane 128 1 2 2, plane 256 1 2 2]
    let v := engaged 3 y (recordOf 128 [(8, 8, 2), (16, 8, 0xF000000000000400)]) []
    (a.engineReady 0 = some x ∧ a.mark 0 0 < (attnOf x (a.work 0).prm).nb ∧ a.mark 0 4 ≠ 0 ∧ (a.work 0).stopReq = 0 ∧
      candidates x (attnOf x (a.work 0).prm) (a.mark 0 2) a ≠ [] ∧ (a.core.tiles.get 0).state = .empty) ∧
    (u.engineReady 1 = some c ∧ scoutOver c b (scoutPos u) = false ∧ (u.work 1).stopReq = 0 ∧ (u.work 1).deferred = none ∧
      u.mark 1 4 ≠ 0 ∧ (scoutPos u).sweep ≠ 2 ∧ needed c (scoutPos u).t u ≠ []) ∧
    (vmacroReady v = some y ∧ (v.work 3).phases = [] ∧ isSort y.instr = true) := by decide +kernel
theorem witness_PhaseEvents_done :
    let s := tagged 2 (gemming [] [⟨0, 1, 0, false, false, []⟩] false)
    (match s.fetching 0 with
      | some ph => okAnd (phaseRead 0 gemmCmd ph s) fun _ _ => true
      | none => false) = true := by decide +kernel

theorem witness_MatrixEvents :
    let s := gemming [] [⟨0, 1, 0, true, false, []⟩, ⟨1, 1, 0, true, false, []⟩] false
    let d := dimsOf gemmCmd (s.work 0).prm
    (posAt s).b < d.nb ∧ (posAt s).ks < d.kt ∧ (s.phaseOf 0 0 (d.unit (posAt s))).isSome = true ∧
    (s.phaseOf 0 1 (d.unit (posAt s))).isSome = true ∧
    okAnd (loadBank gemmCmd (s.work 0).prm d (posAt s) s) (fun _ _ => true) = true := by decide +kernel
/-- The last k-step is past: the tile retires. -/
theorem witness_MatrixEvents_retire :
    let s := gemming [0, 0, 0, 1] [] true
    let d := dimsOf gemmCmd (s.work 0).prm
    (s.work 0).mid = true ∧ d.kt ≤ (posAt s).ks ∧
    elemsLand (matrixAgent s (s.work 0).prm) (bankElems (s.work 0) (outVa gemmCmd (s.work 0).prm d (posAt s)) (d.elems (posAt s))) s = true := by
  decide +kernel
/-- MATTN over one query and one key. -/
def attnCmd : Cmd := cmdOf (.mattn 0 0 1 2 0 5 0 3 0) true [plane 0 1 32 1, plane 128 1 32 1, plane 256 1 32 2, plane 384 1 32 1]
def attending (marks : List Nat) (ps : List Phase) (w : Nat) : State :=
  (engaged 0 attnCmd (recordOf 192 [(24, 4, 1), (28, 4, 1)]) marks).modWork 0 fun v => { v with phases := ps, rows := [(5000, BitVec.ofNat 64 w)] }
theorem witness_MatrixEvents_attention :
    let s := attending [0, 0, 0, 0, 1] [⟨0, 1, 0, true, false, []⟩, ⟨1, 1, 0, true, false, []⟩, ⟨2, 1, 0, true, false, []⟩] 1
    let a := attnOf attnCmd (s.work 0).prm
    s.engineReady 0 = some attnCmd ∧ isGemm attnCmd.instr = false ∧ s.mark 0 4 ≠ 0 ∧ candidates attnCmd a (s.mark 0 2) s = [0] ∧
    (s.phaseOf 0 0 (attnUnit a 0 0 0)).isSome = true ∧ (s.phaseOf 0 1 (attnUnit a 0 0 0)).isSome = true ∧
    (s.phaseOf 0 2 (attnUnit a 0 0 0)).isSome = true := by decide +kernel

theorem witness_MatrixEvents_query :
    let s := attending [0, 0, 0, 0, 1] [] 0
    let a := attnOf attnCmd (s.work 0).prm
    s.mark 0 0 < a.nb ∧ candidates attnCmd a (s.mark 0 2) s = [] ∧
    elemsLand (attnAgent s (s.work 0).prm 0) (attnOut attnCmd (s.work 0).prm a 0 0 s ++ (missElems (s.work 0).prm 0 0 a.tk s).1) s = true := by
  decide +kernel

/-- A stop at a checkpoint between two chunks, with its area at byte 1024: of a tile, and of a query (09 R287 R295). -/
theorem witness_MatrixEvents_chunk :
    let c := cmdOf (.mgemm 0 0 1 2 0 5 0 0) true [plane 0 1 256 1, plane 128 1 256 1, plane 256 1 1 2]
    let b := recordOf 128 [(2, 1, 1), (3, 1, 2), (8, 4, 1), (16, 8, 0xF000000000000400)]
    let z := (engaged 0 c b [0, 0, 0, 1]).modWork 0 fun w => { w with mid := true, stopReq := 1 }
    let s := { z with core := { z.core with sup := { z.core.sup with maxred := 1 } } }
    let d := dimsOf c b
    (posAt s).ks < d.kt ∧ atChunk s b (posAt s).ks = true ∧
    elemsLand (matrixAgent s b) (bankElems (s.work 0) (areaVa b) (d.elems (posAt s))) s = true := by decide +kernel
theorem witness_MatrixEvents_attention_chunk :
    let c := cmdOf (.mattn 0 0 1 2 0 5 0 3 0) true [plane 0 1 32 1, plane 128 256 32 1, plane 256 1 32 2, plane 384 256 32 1]
    let b := recordOf 192 [(16, 8, 0xF000000000000400), (24, 4, 1), (28, 4, 256)]
    let z := (engaged 0 c b [0, 0, 1, 1, 1]).modWork 0 fun v => { v with rows := [(5000, 3)], stopReq := 1, mid := true }
    let s := { z with core := { z.core with sup := { z.core.sup with maxred := 2 } } }
    let a := attnOf c b
    s.mark 0 0 < a.nb ∧ candidates c a (s.mark 0 2) s ≠ [] ∧ attnAtChunk a s = true ∧
    elemsLand (attnAgent s b 0) (attnArea b a 0 s ++ (missElems b 0 0 1 s).1) s = true := by decide +kernel

/-- SWIN over one query row and one key element, its mask at byte 512 of the own scratchpad. -/
def winCmd : Cmd := cmdOf (.swin 0 0 5 0) true []
def winRecord : List Byte := recordOf 128 [(16, 4, 1), (24, 4, 1), (28, 4, 1), (48, 8, 0xF000000000000200)]
theorem witness_ScoutEvents :
    let s := engaged 1 winCmd winRecord []
    scoutReady s = some winCmd ∧ scoutOp winCmd.instr = .swin ∧
    elemsLand (scoutAgent s winRecord false)
      (maskElems 0xF000000000000200 0 (scoutTk winCmd winRecord) (bitsWords (scoutTk winCmd winRecord) ((scoutExcl winCmd winRecord).anyPair 0)) [])
      s = true := by decide +kernel
/-- SMASK of the masks at bytes 520 and 528. -/
theorem witness_ScoutEvents_mask :
    let c := cmdOf (.smask 0 0 5 0) true []
    let b := winRecord.take 56 ++ b8 0xF000000000000208 ++ b8 0xF000000000000210 ++ List.replicate 56 0
    let s := engaged 1 c b []
    scoutReady s = some c ∧ okAnd (readMask (scoutAgent s b false) 2 (fw b 56) 0 1 s) (fun _ u =>
      okAnd (readMask (scoutAgent s b false) 2 (fw b 64) 0 1 u) fun _ _ => true) = true := by decide +kernel
/-- SCOUT over one query and one key tile: sweep 1 has a tile to visit, with both phases there, or none. -/
def scoutCmd : Cmd := cmdOf (.scout 0 0 1 0 5 0) true [plane 0 1 32 1, plane 128 1 32 1]
def scouting (op : Cmd) (w : Nat) : State :=
  let b := recordOf 128 [(16, 4, 1), (48, 8, 0xF000000000000200), (72, 8, 0xF000000000000400), (92, 4, 1)]
  ((engaged 1 op b [0, 0, 0, 0, 1]).modWork 1 fun v =>
    { v with phases := [⟨0, 1, 0, true, false, []⟩, ⟨1, 1, 0, true, false, []⟩], rows := [(5000, BitVec.ofNat 64 w)] }).setProgs 1
      [(4, word2 (if w = 1 ∧ scoutOp op.instr = .scout then 1 else 0) 0)]
theorem witness_ScoutEvents_tile :
    let s := scouting scoutCmd 1
    scoutReady s = some scoutCmd ∧ (scoutPos s).sweep = 1 ∧ s.mark 1 4 ≠ 0 ∧ needed scoutCmd 0 s = [0] ∧
    (s.phaseOf 1 0 (scoutUnit scoutCmd (s.work 1).prm (scoutPos s) 0)).isSome = true ∧
    (s.phaseOf 1 1 (scoutUnit scoutCmd (s.work 1).prm (scoutPos s) 0)).isSome = true := by decide +kernel

/-- Sweep 1 stores its row states where a stop waits for it and at its end; sweep 2 decides; an error in the workspace of a resumed pass. -/
theorem witness_ScoutEvents_rows :
    let s := scouting scoutCmd 1
    let b := (s.work 1).prm
    let u := s.modWork 1 fun w => { w with mid := true, stopReq := 1 }
    let v := s.modWork 1 fun w => { w with rows := [], phases := [] }
    let w := (scouting scoutCmd 0).setProgs 1 [(4, word2 2 0)]
    let z := setScoutPos ⟨0, 0, 1, 1⟩ (s.setMark 1 4 0)
    scoutReady u = some scoutCmd ∧ ((u.work 1).mid = true ∧ (u.work 1).stopReq ≠ 0) ∧
    elemsLand (scoutAgent u b false) (rowElems scoutCmd b (scoutPos u) u) u = true ∧
    scoutReady v = some scoutCmd ∧ (v.work 1).mid = false ∧ needed scoutCmd (scoutPos v).t v = [] ∧ v.filling 1 0 = false ∧
    elemsLand (scoutAgent v b false) (rowElems scoutCmd b (scoutPos v) v) v = true ∧
    scoutReady w = some scoutCmd ∧ (scoutPos w).sweep = 2 ∧ w.mark 1 4 ≠ 0 ∧
    okAnd (readBlocks (scoutAgent w b false) 2 scoutCmd.pc (fun _ => 0) ((List.range (wsBytes 1 / 64)).map fun k => fw b 72 + BitVec.ofNat 64 (64 * k)) w)
      (fun _ u => elemsLand (scoutAgent u b false) (maskElems (fw b 48) 0 1 [1] []) u) = true ∧
    scoutReady z = some scoutCmd ∧ (scoutPos z).sweep = 1 ∧ z.mark 1 4 = 0 ∧ (scoutPos z).t ≠ 0 := by decide +kernel

/-- VSORT of two elements without payload; VSOFTMAX of one row. -/
def sortCmd : Cmd := cmdOf (.vsort 0 0 1 2 0 5 0) true [plane 0 1 2 2, plane 128 1 2 2, plane 256 1 2 2]
def sorting (bad : Bool) : State :=
  (engaged 3 sortCmd (recordOf 128 [(8, 8, 2), (16, 8, 0xF000000000000400)]) []).modWork 3 fun w =>
    { w with phases := [⟨0, 1, 0, true, false, if bad then [(0, ⟨0, false, [], 0, true⟩)] else []⟩] }
theorem witness_VmacroEvents :
    vmacroReady (sorting false) = some sortCmd ∧ isSort sortCmd.instr = true ∧ ((sorting false).phaseOf 3 0 0).isSome = true ∧
    (match (sorting false).phaseOf 3 0 0 with
      | some ph => !sortPoisoned ph [] (sorting false) &&
        elemsLand (vmacroAgent (sorting false) ((sorting false).work 3).prm) (sortOut sortCmd ph (sorting false)).1 (sorting false)
      | none => false) = true ∧
    (match (sorting true).phaseOf 3 0 0 with
      | some ph => sortPoisoned ph [] (sorting true)
      | none => false) = true := by decide +kernel
def softCmd : Cmd := cmdOf (.vsoftmax 0 0 1 2 0 5 0) true [plane 0 1 2 2, plane 128 1 2 2, plane 256 1 2 2]
def rowing : State :=
  ((engaged 3 softCmd (recordOf 128 []) []).setProgs 3 [(8, 1)]).modWork 3 fun w => { w with phases := [⟨0, 1, 0, true, false, []⟩] }
theorem witness_VmacroEvents_row :
    vmacroReady rowing = some softCmd ∧ isSort softCmd.instr = false ∧
    (match rowing.phaseOf 3 0 (rowing.prog 3 3).toNat with
      | some ph => elemsLand (vmacroAgent rowing (rowing.work 3).prm) (rowOut softCmd ph rowing).1 rowing
      | none => false) = true := by decide +kernel

/-- The same in FULL logging: the entries of the commit find room (12 R361). -/
def elemsLandFull (q : Nat) (c : Cmd) (ag : Agent) (es : List EElem) (adv : State → State) (s : State) : Bool :=
  okAnd (locateElems ag es s) fun ds u =>
    let ws := ds.map fun x => writeElems .inherit x.1 x.2 u
    let d := dirtyAll ag ws u
    d.1 && d.2.core.replay.isNone && d.2.logFull && !(tileEnts q c ws adv d.2).isEmpty && (logReady (tileEnts q c ws adv d.2) d.2).1.isNone
theorem writesElems_of_landFull (q : Nat) (c : Cmd) (ag : Agent) (es : List EElem) (adv : State → State) (s : State)
    (h : elemsLandFull q c ag es adv s = true) : ∃ t, writesElems q c ag es adv s t := by
  unfold elemsLandFull okAnd at h
  split at h
  · rename_i ds u hd
    simp only [Bool.and_eq_true, Option.isNone_iff_eq_none, Bool.not_eq_true'] at h
    obtain ⟨v, hv⟩ : ∃ v, logReady (tileEnts q c (ds.map fun x => writeElems .inherit x.1 x.2 u) adv
        (dirtyAll ag (ds.map fun x => writeElems .inherit x.1 x.2 u) u).2)
        (dirtyAll ag (ds.map fun x => writeElems .inherit x.1 x.2 u) u).2 = (none, v) := ⟨_, Prod.ext h.2 rfl⟩
    exact ⟨_, ds, u, hd, _, Prod.ext h.1.1.1.1 rfl, h.1.1.1.2, .inr ⟨by rw [if_pos h.1.1.2]; intro he; simp [he] at h,
      v, by rw [if_pos h.1.1.2]; exact hv, rfl⟩⟩
  · cases h

/-- A row of VSOFTMAX in FULL logging, with its log in the mapped partition. -/
theorem witness_VmacroEvents_logged :
    let s := (rowing.poke 0x10000 (b8 0x12001)).poke 0x12000 (b8 0x58F)
    let s := ((s.modPart 0 fun v => { v with cfg := some { someCfg with flags := 1, troot := 0x10000 } }).modSup fun t =>
      { t with troot := 0x10000 }).modLog fun l => { l with mode := 2, base := 0x80000, size := 12 }
    (match s.phaseOf 3 0 (s.prog 3 3).toNat with
      | some ph => elemsLandFull 3 softCmd (vmacroAgent s (s.work 3).prm) (rowOut softCmd ph s).1 (rowOut softCmd ph s).2 s
      | none => false) = true := by decide +kernel

/-- A chunk's places are found, its data is in order and its writes can be performed at once. -/
def chunkLands (c : Cmd) (ag : Agent) (far : Word → BitVec 24) (srcs dsts : List Word)
    (build : SMap EBlock → SMap (Word × Loc) → State → Except (BitVec 8 × Word) ChunkOut) (s : State) : Bool :=
  okAnd (locateBlocks ag .read (oneEach (srcs.map blockOf)) s) fun ls u =>
    okAnd (locateBlocks ag .write ((sortOn (fun a : Word => a.toNat) (dsts.map blockOf)).dedup) u) fun ds v =>
      match build (takeSources 3 ag c far none ls v).1 (ds.foldl (fun m d => sput m d.1.toNat d) []) (takeSources 3 ag c far none ls v).2 with
      | .ok o => let d := dirtyAll ag o.writes (takeSources 3 ag c far none ls v).2
        d.1 && d.2.core.replay.isNone && !d.2.logFull
      | .error _ => false
def moveLands (c : Cmd) (b : List Byte) (s : State) : Bool :=
  match chunkElems c b 0 with
  | some xs => chunkLands c (cmdAgent s (scopeCode (field b 0 1)) (tierOf b)) (fun _ => (c.shape 0).farTag 0) (xs.filterMap MoveElem.src)
      (xs.map MoveElem.dst) (moveBuild c b (c.shape 2).ebytes xs) s
  | none => false
/-- A copy command about to perform its only chunk. -/
def copying (i : Instr) (b : List Byte) : State :=
  (engaged 2 (cmdOf i true [plane 0 1 16 2, plane 64 1 16 2, plane 128 1 16 2]) b []).setProgs 2 [(5, 1)]
def copyCmd (i : Instr) : Cmd := cmdOf i true [plane 0 1 16 2, plane 64 1 16 2, plane 128 1 16 2]
theorem witness_CopyChunks :
    copyReady (copying (.ccopy 0 0 1 0 5 0) (recordOf 64 [])) = some (copyCmd (.ccopy 0 0 1 0 5 0), 0) ∧
    moveLands (copyCmd (.ccopy 0 0 1 0 5 0)) (recordOf 64 []) (copying (.ccopy 0 0 1 0 5 0) (recordOf 64 [])) = true ∧
    moveLands (copyCmd (.ctrans 0 0 1 0 5 0)) (recordOf 64 []) (copying (.ctrans 0 0 1 0 5 0) (recordOf 64 [])) = true ∧
    moveLands (copyCmd (.cfill 0 1 0 5 0)) (recordOf 64 [(8, 4, 5)]) (copying (.cfill 0 1 0 5 0) (recordOf 64 [(8, 4, 5)])) = true := by
  decide +kernel

/-- CGATHER of one row with index 0, CFLAT to one plane and back, CTAGS of one block in both directions. -/
theorem witness_CopyChunks_forms :
    let g := copying (.cgather 0 0 1 2 0 5 0) (recordOf 64 [])
    let c := copyCmd (.cgather 0 0 1 2 0 5 0)
    let ag := cmdAgent g (scopeCode 0) 0
    let fl := fun (d : Nat) => recordOf 64 [(8, 1, d), (9, 1, 1), (10, 1, 1)]
    let el := plane 0 16 32 0
    let pl := plane 1024 16 32 1
    let f := cmdOf (.cflat 0 0 0 2 5 0) true [el, pl, pl]
    let s := (engaged 2 f (fl 0) []).setProgs 2 [(5, 1)]
    let tg := fun (d : Nat) => recordOf 64 [(8, 1, d), (16, 8, 0xF000000000000000), (24, 8, 1), (32, 8, 0xF000000000000400)]
    let v := engaged 2 (cmdOf (.ctags 0 0 5 0) true []) (tg 1) []
    (okAnd (readIndices c (recordOf 64 []) (c.shape 0).outer none [0] g) fun ix u =>
      let xs := indexedMoves c false ix (chunkRange 0 16 4)
      chunkLands c (cmdAgent u (scopeCode 0) 0) (fun _ => (c.shape 0).farTag 0) (xs.filterMap MoveElem.src) (xs.map MoveElem.dst)
        (moveBuild c (recordOf 64 []) 4 xs) u) = true ∧ ag.part = 0 ∧
    chunkLands f (cmdAgent s (scopeCode 0) 0) (fun _ => el.farTag 0) ((subRange el pl 0).flatMap (subAddrs el))
      ((subRange el pl 0).map fun t => planeAddr pl.base 1 (subTiles pl.rows pl.cols) t 0) (planeBuild f (fl 0) (subRange el pl 0)) s = true ∧
    okAnd (readSide (cmdAgent v (scopeCode 0) 0) (cmdOf (.ctags 0 0 5 0) true []) none [0xF000000000000400] v) (fun es u =>
      (es.mapM fun e => sideEntry e.1).isSome &&
      okAnd (locateBlocks (cmdAgent v (scopeCode 0) 0) .write [0xF000000000000000] u) fun rs w =>
        (rs.find? fun r => r.2.far).isNone && (dirtyAll (cmdAgent v (scopeCode 0) 0) [] w).1) = true ∧
    okAnd (locateBlocks (cmdAgent v (scopeCode 0) 0) .read [0xF000000000000000] v) (fun _ u =>
      elemsLand (cmdAgent v (scopeCode 0) 0) [⟨0xF000000000000400, [0, 0, 0, 0], none, false⟩] u) = true := by decide +kernel

/-- ALLGATH of 16 elements of 4 bytes among one rank. -/
def gathCmd : Cmd := cmdOf (.allgath 0 0 1 0 5 0) true [plane 0 1 16 2, plane 64 1 16 2, plane 128 1 16 2]
def gathRecord : List Byte := recordOf 192 [(1, 1, 3), (72, 2, 1), (76, 4, 64), (80, 4, 1), (84, 1, 1), (88, 8, 0xF000000000000400)]
def gathering : State := engaged 4 gathCmd gathRecord []
def ackOf : Message := { (default : Message) with src := 0, dst := 0 }
theorem witness_ExchangeEvents :
    xReady gathering = some gathCmd ∧
    (match (collOf gathCmd gathRecord).next gathCmd gathRecord gathering with
      | some (.alone 0) => true
      | _ => false) = true ∧
    (ready .strand).exchangeOf ackOf = none ∧ gathering.exchangeOf ackOf = some 0x20 := by decide +kernel
/-- A staged message that is due, to a rank that has started. -/
theorem witness_ExchangeEvents_send :
    let s := gathering.modExch fun x => { x with staged := [⟨0, true, ackOf⟩], started := [ackOf] }
    (match (collOf gathCmd gathRecord).next gathCmd gathRecord s with
      | some (.send st) => st.slot == 0
      | _ => false) = true := by decide +kernel

/-- A message to a running command, to one that is complete, and one that the bridge fabric can lose. -/
theorem witness_ExchangeEvents_messages :
    let m : Message := { ackOf with comm := 9 }
    let b := recordOf 192 [(64, 8, 9)]
    let s := (ready .strand)
    let u : State := { s with dev := { s.dev with xended := [(0x20, 0x20, b)], fabric := [m] } }
    (gathering.runningCmd 4).isSome = true ∧ gathering.core.replay = none ∧ gathering.xDone 0 = false ∧ gathering.logFull = false ∧
    u.exchangeOf m = none ∧ (u.exchangeEnded m).isSome = true ∧ u.exchangeEnded ackOf = none ∧ m.lost = false ∧
    u.dev.fabric.contains m = true ∧ s.dev.fabric.contains m = false := by decide +kernel

/-- ALLGATH among two ranks: rank 0 receives chunk 0 of rank 1 in one step. -/
theorem witness_ExchangeEvents_data :
    let c := cmdOf (.allgath 0 0 1 0 5 0) true [plane 0 1 16 2, plane 64 1 16 2, plane 128 1 32 2]
    let b := recordOf 192 [(1, 1, 3), (72, 2, 2), (76, 4, 64), (80, 4, 1), (84, 1, 1), (88, 8, 0xF000000000000400)]
    let v := engaged 4 c b []
    v.exchangeOf { ackOf with src := 1 } = some 0x20 ∧ v.runningCmd 4 = some c ∧ v.core.replay = none ∧ v.logFull = false ∧
    ((List.range 4).any fun ch => (List.range 4).any fun st => ((collOf c b).receives b ch).contains st && !v.xDone ch) = true := by
  decide +kernel

/-! Witnesses of the statements about the device. -/

/-- Port 3 is in a state, with one flit in its replay buffer. -/
def linked (st : Fin 3) : State := (ready .strand).modPort 3 fun _ => ⟨st, [], [[7]], 8, 0, []⟩
/-- A flit of type 1 with sequence number 7 and 64 bytes of payload is good; it stands in the replay buffer of port 3. -/
theorem witness_LinkEvents_flit :
    let f := flit 1 7 0 (List.replicate 64 5)
    let s := (ready .strand).modPort 3 fun _ => ⟨2, [], [f], 8, 0, []⟩
    flitGood f = true ∧ flitGood (f.set 4 6) = false ∧ ((s.port 3).replay.any fun x => flitSeq x == 7) = true ∧
    (s.port 3).acked 7 = [f] ∧ State.reset.firmwareRuns (portDie 3) = false ∧
    (State.reset.modDie (portDie 3) fun d => { d with up := true }).firmwareRuns (portDie 3) = true := by decide +kernel
theorem witness_LinkEvents : ((linked 2).port 3).state = 2 ∧ ((linked 2).port 3).replay.contains [7] = true ∧
    ((linked 0).port 3).state = 0 ∧ ((linked 1).port 3).state = 1 := by decide +kernel

/-- Partition 0's first 64 GiB are mapped to themselves by one leaf (04 R115 R116), readable, writable and executable. -/
def mappedCfg : PartCfg := { someCfg with flags := 1, troot := 0x10000, areas := [0x60000, 0x60000, 0x60000, 0x60000, 0x60000, 0x50000],
                                          log2s := [12, 12, 12, 12, 12, 12], qmax := 4096 }
def mapped : State :=
  let s := ((ready .supervisor).modPart 0 fun v => { v with cfg := some mappedCfg }).modCoreAt 0x20 fun c => { c with sup := { c.sup with troot := 0x10000 } }
  ((s.poke 0x10000 (b8 0x12001)).poke 0x12000 (b8 0x58F))
theorem witness_TranslationFrame : Memory.wf mapped.mem = true ∧
    okAnd (translate (areaAgent 0 mappedCfg) .write 0x20000 mapped) (fun l _ => l.key == 0x20000) = true := by decide +kernel

/-- The page at 0x20000 through a level-0 leaf, and CMIGRATE of it at each step (08 R260). -/
def paged : State := ((mapped.poke 0x12000 (b8 0x14001)).poke 0x14000 (b8 0x16001)).poke 0x16010 (b8 0x2058F)
def migrating (n : Nat) (leaf : Word) : State :=
  let c := cmdOf (.cmigrate 0 2 5 0) true []
  (((((paged.modEng fun g => { g with queues := g.queues.set 2 [c] }).modWork 2 fun w => { w with
    prm := recordOf 64 [(16, 8, 0x20000), (24, 5, 3)], marks := [n], rows := [(0, 0x2058F), (1, 0x16010)], mid := n != 0 }).setProgs 2 [(5, 1)])).poke
      0x16010 (b8 leaf))
theorem witness_CopyChunks_migrate :
    let ag := cmdAgent (migrating 0 0x2058F) 3 0
    (copyReady (migrating 0 0x2058F)).isSome = true ∧
    okAnd (migrateLeaf ag 0x20000 (migrating 0 0x2058F)) (fun l u => !leafWB l.1 && u.ownsKey 0 0x30000 &&
      (performRun ag none l.2 (toBytes 8 (setBits l.1 5 1 1).toNat) u).1) = true ∧
    (copyReady (migrating 2 0x205AF)).isSome = true ∧ shootWaits 0 3 (some 0x20000) (migrating 2 0x205AF) = false ∧
    sameLeaf 0x2058F 0x205AF = true ∧ sameLeaf 0x2058F 0x3058F = false ∧
    (performRun ag none 0x16010 (toBytes 8 (migratedLeaf 0x205AF 3 false).toNat) (migrating 2 0x205AF)).1 = true ∧
    (performRun ag none 0x16010 (toBytes 8 (setBits (0x305AF : Word) 5 1 0).toNat) (migrating 3 0x305AF)).1 = true ∧
    shootWaits 0 3 (some 0x20000) ((migrating 3 0x305AF).modWin fun w => { w with held := [.load 0x20000 0x20000 [0] 0] }) = true := by
  decide +kernel

def someFault (ring : Option Nat) : PendingFault := ⟨0x20000, Cause.pageNotPresent, 0, 64, 2, ring⟩
theorem witness_FaultEvents :
    let s := { (mapped.poke (0x60000 + 64 + 12) [1]) with core := { mapped.core with fault := some (someFault (some 0)) } }
    waiterPending .strand s = some (someFault (some 0)) ∧ (replyOf 0 0 s).1 = 1 ∧ 2 ≤ (replyOf 0 0 (s.poke (0x60000 + 64 + 12) [2])).1 := by
  decide +kernel
theorem witness_FaultEvents_post :
    let s := { mapped with core := { mapped.core with fault := some (someFault none) } }
    (match postRing s s.core.partOf 1 false (tfEntry s (someFault none) 2) with
      | (.done i, _) => i == 0
      | _ => false) = true := by decide +kernel
/-- The fault of a pickup, posted and not. -/
theorem witness_FaultEvents_pickup :
    let s := (withPipe mapped).modPipe 0 0 fun z => { z with misses := [(0x80000, 0x20, someFault none)] }
    let u := ((withPipe mapped).modPipe 0 0 fun z => { z with misses := [(0x80000, 0x20, someFault (some 0))] }).poke (0x60000 + 64 + 12) [1]
    (s.pipeline 0 0).any (fun z => (z.misses.find? fun m => m.1 == 0x80000) == some (0x80000, 0x20, someFault none)) = true ∧
    (match postRing s 0 1 false (unitEntry (unitId 0x20 0) (someFault none) s.clock) with
      | (.done i, _) => i == 0
      | _ => false) = true ∧
    waiterPending (.pickup 0 0 0x80000) u = some (someFault (some 0)) ∧ (replyOf (waiterPart (.pickup 0 0 0x80000) u) 0 u).1 = 1 := by
  decide +kernel
theorem witness_FaultEvents_monitor :
    let s := (ready .strand).modDie 0 fun d => { d with monitor := [(5, ⟨0x30000, 0, 9, false, true⟩)] }
    sfind (s.die 0).monitor 5 = some ⟨0x30000, 0, 9, false, true⟩ := by decide +kernel

/-- Queue 0 of the mapped partition, with a packet of type `ty` at its head that may start. -/
def queueOf (packets : List Packet) : CmdQueue :=
  { ring := 0x20000, log2 := 12, prio := 0, enable := true, reqcrc := false, fdie := 0, ridxa := 0, widx := 1, ridx := 0, ibs := [],
    packets := packets, tears := 0, spins := 0, capture := none, fault := none, out := [] }
def packetOf (ty : Nat) (fs : List (Nat × Nat × Nat)) : Packet := ⟨0, recordOf 64 ((0, 1, ty) :: (1, 1, 1) :: fs), 0, true, false, false⟩
def queued (ty : Nat) (fs : List (Nat × Nat × Nat)) : State := mapped.modPart 0 fun v => { v with queues := [(0, queueOf [packetOf ty fs])] }
def startsAs (ty : Nat) (s : State) : Bool := (canStart (enterHead 0 0 s) 0 0 ty).isSome
theorem witness_PacketEvents : startsAs 0 (queued 0 []) = true ∧ startsAs 4 (queued 4 []) = true ∧ startsAs 6 (queued 6 []) = true ∧
    startsAs 7 (queued 7 []) = true ∧
    (startsAs 2 (queued 2 [(32, 8, 0x20100)]) &&
      okAnd (fetchRead (fetchAgent mapped 0 (queueOf [])) 0x20100 8 (enterHead 0 0 (queued 2 [(32, 8, 0x20100)]))) fun _ _ => true) = true ∧
    (startsAs 3 (queued 3 [(32, 8, 0x20100), (40, 8, 7)]) &&
      okAnd (fetchWrite (fetchAgent mapped 0 (queueOf [])) 0x20100 (b8 7) (enterHead 0 0 (queued 3 []))) fun _ _ => true) = true := by decide +kernel
theorem witness_PacketEvents_line0 :
    let s := mapped.modPart 0 fun v => { v with queues := [(0, queueOf [])] }
    ((flush 0 0 (s.modCq 0 0 CmdQueue.popped)).cq 0 0).any (fun q => q == queueOf []) = true ∧ s.serves 0 = true ∧ (queueOf []).head = none ∧ (queueOf []).avail = 1 ∧
    okAnd (fetchRead (fetchAgent s 0 (queueOf [])) (queueOf []).next.1 64 s) (fun _ _ => true) = true := by decide +kernel

/-- IBCALL at depth 4, IBJUMP out of an indirect buffer, CAPSTOP of an open capture, ZERO of one page, and the spin watchdog. -/
theorem witness_PacketEvents_others :
    let on := fun (ty : Nat) (fs : List (Nat × Nat × Nat)) (f : CmdQueue → CmdQueue) =>
      mapped.modPart 0 fun v => { v with queues := [(0, f (queueOf [packetOf ty fs]))] }
    let ib : List (Word × Nat × Nat) := List.replicate 4 (0x20000, 4, 1)
    let cap : Capture := ⟨0, List.replicate 5 0, 0, 0, false⟩
    startsAs 4 (on 4 [] fun q => { q with ibs := ib }) = true ∧ startsAs 5 (on 5 [] fun q => { q with ibs := ib.take 1 }) = true ∧
    (startsAs 8 (on 8 [(32, 8, 0x20100)] fun q => { q with capture := some cap }) &&
      okAnd (fetchWrite (fetchAgent mapped 0 (queueOf [])) 0x20100 (cap.bytes false 0) mapped) fun _ _ => true) = true ∧
    (startsAs 9 (on 9 [(32, 8, 0x20000), (40, 8, 0x10000)] id) &&
      okAnd (locate (fetchAgent mapped 0 (queueOf [])) .write false 0x20000 mapped) fun l s => (markDirty s 0 [l.key]).1) = true ∧
    ((on 0 [] fun q => { q with spins := 2 ^ 20 }).cq 0 0).any (fun q => decide (2 ^ 20 ≤ q.spins)) = true := by decide +kernel

/-- A checkpoint image at 0x30000 of a pipeline image at 0x40000 with one stage and no queue (13 R402 R407). -/
def imageHead : List Byte :=
  let h := recordOf 128 [(0, 4, 0x4B435451), (4, 2, 1), (8, 4, 16), (12, 1, 1), (16, 8, 0x40000), (24, 8, 0x48000)]
  h.take 124 ++ toBytes 4 (crc32c (h.take 124))
def pipeBytes : List Byte :=
  let h := recordOf 64 [(0, 4, 0x50495051), (4, 2, 1), (6, 1, 1), (8, 2, 3), (16, 8, 0x80000), (24, 4, 1), (32, 8, 0x90000)]
  let r := recordOf 64 [(0, 8, 0x1000), (8, 8, 0x50000), (16, 1, 1), (18, 2, 1), (20, 4, 0xFFFFFFFF), (24, 4, 0xFFFFFFFF)]
  h.take 60 ++ toBytes 4 (crc32c (splice h 60 [0, 0, 0, 0] ++ r)) ++ r
theorem witness_LaunchEvents :
    let s := ((queued 1 [(32, 8, 0x30000)]).poke 0x30000 imageHead).poke 0x40000 pipeBytes
    startsAs 1 s = true ∧ (s.part 0).pipes.length < 8 ∧
    okAnd (readImage (fetchAgent s 0 (queueOf [])) mappedCfg 0x30000 [] s) (fun im _ => im.pipe.pipe == 3 && im.nrec == 0) = true := by
  decide +kernel
theorem witness_LaunchEvents_end :
    let z := withPipe mapped
    (z.strandsOf 0 0).isEmpty = true ∧ startsAs 11 (queued 11 []) = true ∧
    (match (withPipe mapped).pipeline 0 0 with
      | some p => pipelineEnded mapped 0 { p with queues := [] }
      | none => false) = true := by decide +kernel

/-- PSWITCH to the pipeline image at 0x40000, without and with KEEPQ, and the activation of a switch. -/
theorem witness_LaunchEvents_switch :
    let on := fun (keep : Nat) (sw : Option Switch) =>
      let s := ((queued 10 [(32, 8, 0x40000), (40, 2, 3), (42, 1, keep)]).poke 0x40000 pipeBytes)
      match (withPipe s).pipeline 0 0 with
      | some p => s.modPart 0 fun v => { v with pipes := [(3, { p with pipe := 3, queues := [], switch := sw })] }
      | none => s
    ([0, 1].all fun k => startsAs 10 (on k none) &&
      okAnd (readPipe (fetchAgent (on k none) 0 (queueOf [])) 0x40000 (spadOf 1) (on k none)) fun im _ =>
        im.pipe == 3 && switchOk (k == 1) [] im.queues) = true ∧
    ([false, true].all fun k => match (on 0 none).pipeline 0 3 with
      | some p =>
        let s := on 0 (some ⟨0, 0, k, p.toPipeImage⟩)
        (s.strandsOf 0 3).isEmpty && ((s.pipeline 0 3).any fun z => z.cause.isNone && z.switch.isSome)
      | none => false) = true := by decide +kernel

theorem witness_RegulatorEvents : ((withPipe mapped).pipeline 0 0).isSome = true := by decide +kernel

/-- Partition 0's service record is valid; host address 0 is device address 0; the device is ready. -/
def hosted : State :=
  let s := mapped.modDie 0 fun d => { d with pcfg := d.pcfg.set 0 1 }
  { s with dev := { s.dev with ready := true, cfgreq := 1, zeroing := [(5, 2)] } }
theorem witness_HostEvents : hosted.blockValid 0 = true ∧ (hosted.part 0).areaDown.getLsbD 5 = false ∧
    hosted.hostBlock 0x20040 = some 0x20040 ∧ hosted.hostWaits 0x20040 = false ∧ hosted.hdmAddr 0x20040 = some 0x20040 ∧
    hosted.ownerOf 0x20040 = some 0 ∧ (markDirty hosted 0 [0x20040]).1 = true ∧ bitAt hosted.dev.cfgreq 0 = true ∧
    (hosted.dev.zeroing.find? fun z => z.1 == 5) = some (5, 2) ∧ isSpare (coreNumber (mappedCfg.clusters.getD 0 0) 1) = false := by
  decide +kernel

/-- A core that still holds an access to the granule: its zeroing waits. -/
theorem witness_HostEvents_held :
    let s := hosted.modWin fun w => { w with held := [.load 0x20000 (5 * 2 ^ 30) [0] 0] }
    (s.dev.zeroing.find? fun z => z.1 == 5) = some (5, 2) ∧ granuleInUse 5 s = true ∧ granuleInUse 5 hosted = false := by decide +kernel
/-- 15 R446, 00 R10: CFGREQ is RW and reads as it stands, 8 bytes at a time. -/
theorem test_read_device : hosted.readDevice 0x10 8 = some 1 ∧ hosted.readDevice 0x10 4 = none := by decide +kernel

theorem witness_PlatformEvents : (State.reset.dev.dies.toList.any fun d => d.up) = false ∧ State.reset.dev.power = true ∧
    ((State.reset.modDie 0 fun d => { d with up := true }).dev.dies.toList.any fun d => d.up) = true ∧ State.reset.dev.ready = false ∧
    ((State.reset.focus 0).core.id = 0 ∧ isFirmware 0 = true) ∧ (State.reset.die 0).hot = false ∧
    isFirmware (ready .strand).core.id = false ∧ (ready .strand).core.holdsStrand = true := by decide +kernel

/-- Doorbells within the ring and beyond it; a die that came up with its bridges trained; a firmware core that waits and has an event. -/
theorem witness_HostEvents_doorbell :
    let s := { hosted with dev := { hosted.dev with parts := ((queued 0 []).modDie 0 fun d => d).dev.parts } }
    s.blockValid 0 = true ∧ (s.cq 0 0).any (fun q => q.enable && decide (2 ^ (q.log2 - 6) < ((100 : BitVec 32) - q.ridx).toNat)) = true ∧
    (s.cq 0 0).any (fun q => q.enable && decide (((1 : BitVec 32) - q.ridx).toNat ≤ 2 ^ (q.log2 - 6))) = true := by decide +kernel
theorem witness_PlatformEvents_up :
    let s := { State.reset with core := { State.reset.core with run := .fwWait } }.modDie 0 fun d =>
      { d with up := true, bridged := true, fwen := 2, fwpend := 2 }
    ((trainBridges s).dev.dies.toList.all fun d => !d.up || d.bridged) = true ∧ s.firmwareRuns 0 = true ∧ s.firmwareRuns 1 = false ∧
    s.core.run = .fwWait ∧ fwAwake s = true ∧ hosted.dev.ready = true := by decide +kernel

/-- Site 0x20 of die 0 waits for an answer to a service call; the log's window holds one entry of 32 bytes. -/
def serving : State :=
  { (ready .service).modDie 0 fun d => { d with svcSite := some 0x20 } with
    core := { (ready .service).core with id := 0, svc := none } }
def logging : State :=
  (mapped.modLog fun l => { l with mode := 1, base := 0x80000, size := 12, head := 32, cur := 32, tail := 0 }).poke 0x80002 [2]
theorem witness_RegisterEvents :
    serving.core.mode = .service ∧ (serving.die (dieOf serving.core.id)).svcSite = some 0x20 ∧
    (ready .service).core.mode = .service ∧ ((ready .service).die 0).svcSite = none ∧ (ready .supervisor).core.mode ≠ .strand ∧
    (12 ≤ bits (12 : Word) 0 6 ∧ bits (40 : Word) 0 6 ≤ 40) ∧ (bits (11 : Word) 0 6 < 12 ∧ 40 < bits (41 : Word) 0 6) ∧
    logStart logging 32 3 0 = true ∧ logStart logging 16 3 0 = false ∧ logging.core.mode ≠ .strand := by decide +kernel
/-- A sample is due at beat 256 with PERIOD 1: the ring of one place has room, or is full; before that beat none is. -/
theorem witness_RegisterEvents_sample :
    let z := (ready .strand).modLog fun l => { l with trctl := 0x10000 }
    let s : State := { z with core := { z.core with beat := 256, samples := 0 } }
    let u := s.modLog fun l => { l with trctl := 0x100010000 }
    (256 * bits s.core.log.trctl 16 16 = 256 ∧ s.core.run = .strand ∧ s.core.samples + 256 ≤ s.core.beat) ∧
    (bits s.core.log.trctl 32 32 + 2 ^ 32 - bits s.core.log.trcons 0 32) % 2 ^ 32 ≠ 2 ^ bits s.core.log.trctl 8 5 ∧
    (bits u.core.log.trctl 32 32 + 2 ^ 32 - bits u.core.log.trcons 0 32) % 2 ^ 32 = 2 ^ bits u.core.log.trctl 8 5 ∧
    (ready .strand).core.beat - (ready .strand).core.samples < 256 := by decide +kernel

/-- An operation in the debug queue of the mapped partition, on a held strand: its record is at 0x70000, its frame at 0x71000. -/
def debugging (op : Nat) (fs : List (Nat × Nat × Nat)) : State :=
  let s := mapped.modPart 0 fun v => { v with dbgW := 1 }
  ((s.poke 0x50000 (recordOf 64 ([(0, 1, op), (8, 8, 0x70000)] ++ fs))).poke 0x70000 (recordOf 64 [(8, 8, 0x71000)])).poke 0x71000
    (recordOf 64 [(0, 4, 0x46524D51), (4, 2, 1), (6, 1, 1)])
theorem witness_DebugEvents :
    (match dbgHead 0 (debugging 1 []) with
      | (some b, u) => !dbgBad b && field b 0 1 == 1 && isHeld 0 b u
      | _ => false) = true ∧
    (match dbgHead 0 (debugging 5 [(16, 8, 0x20000), (24, 8, 8)]) with
      | (some b, u) => !dbgBad b && isHeld 0 b u && field b 24 8 == 8 && (selectorOf u (fw b 16)).isSome
      | _ => false) = true := by decide +kernel

/-- An operation on a held strand whose frame, at 0x7D780, says FULL, with LOGHEAD 32 and LOGCUR 0. Of the frame, the part up to state register
0x204 and a little beyond is mapped; the rest reads as 0 (log 15). -/
def debuggingFull (op : Nat) (fs : List (Nat × Nat × Nat)) : State :=
  let s := (((paged.poke 0x16028 (b8 0x5058F)).poke 0x16038 (b8 0x7058F)).modPart 0 fun v => { v with dbgW := 1 }).poke 0x50000
    (recordOf 64 ([(0, 1, op), (8, 8, 0x7D700)] ++ fs))
  (((s.poke 0x7D700 (recordOf 64 [(8, 8, 0x7D780)])).poke 0x7D780 (recordOf 64 [(0, 4, 0x46524D51), (4, 2, 1), (6, 1, 1)])).poke
    (0x7D780 + 0x1800 + 8 * 0x204) [2]).poke (0x7D780 + 0x1800 + 8 * 0x202) [32]
def opensHeld (s : State) (f : List Byte → State → Bool) : Bool :=
  match dbgHead 0 s with
  | (some b, u) => !dbgBad b && isHeld 0 b u && f b u
  | _ => false
/-- The log registers that the debugger finds. -/
def heldLog (b : List Byte) (u : State) : LogRegs := (dbgOpen 0 b u).2.2.core.log
/-- They are those of the frame, which has no spill area. -/
def frameLogIs (f : LogRegs → Bool) (b : List Byte) (u : State) : Bool :=
  let l := (dbgOpen 0 b u).1.low
  field l 6 1 / 4 % 2 == 0 && f (frameLog l)
theorem heldLog_of_frame {f : LogRegs → Bool} {b : List Byte} {u : State} (h : frameLogIs f b u = true) : f (heldLog b u) = true := by
  simp only [frameLogIs, Bool.and_eq_true, beq_iff_eq] at h
  rw [heldLog, Laws.dbgOpen_log 0 b u (by omega)]
  exact h.2
theorem opensHeld_mono {f g : List Byte → State → Bool} {s : State} (hfg : ∀ b u, f b u = true → g b u = true)
    (h : opensHeld s f = true) : opensHeld s g = true := by
  unfold opensHeld at h ⊢
  split <;> simp_all
theorem opensHeld_log {s : State} {f : List Byte → State → Bool} {l : LogRegs → Bool}
    (h : opensHeld s (fun b u => f b u && frameLogIs l b u) = true) : opensHeld s (fun b u => f b u && l (heldLog b u)) = true :=
  opensHeld_mono (fun b u hb => by simp only [Bool.and_eq_true] at hb ⊢; exact ⟨hb.1, heldLog_of_frame hb.2⟩) h
def isFull (l : LogRegs) : Bool := bits l.mode 0 2 == 2
def isAhead (l : LogRegs) : Bool := isFull l && decide (l.tail ≤ l.cur) && decide (l.cur < l.head)
theorem witness_DebugEvents_rstep :
    opensHeld (debuggingFull 2 [(16, 8, 1)]) (fun b u => (field b 0 1 == 2 && field b 16 8 == 1) && isFull (heldLog b u)) = true :=
  opensHeld_log (by decide +kernel)
theorem witness_DebugEvents_runback :
    opensHeld (debuggingFull 3 [(16, 8, 1)]) (fun b u => field b 0 1 == 3 && isFull (heldLog b u)) = true := opensHeld_log (by decide +kernel)
theorem witness_DebugEvents_replay :
    opensHeld (debuggingFull 4 []) (fun b u => (field b 0 1 == 4 && fw b 16 == 0 && !((u.part 0).replays.any fun e => e.1 == fw b 8)) &&
      isAhead (heldLog b u)) = true := opensHeld_log (by decide +kernel)
theorem witness_DebugEvents_write :
    opensHeld (debugging 6 [(16, 8, 0x4000000000000005), (24, 8, 8)]) (fun b t => field b 0 1 == 6 && (selectorOf t (fw b 16)).isSome &&
      field b 24 8 == 8) = true ∧ opensHeld (debugging 7 []) (fun b _ => field b 0 1 == 7) = true := by decide +kernel
/-- A replay that has diverged, at a boundary with no command running. -/
theorem witness_DebugEvents_diverged :
    let rp : Replay := ⟨0, 0, 1, 0, some (0, 0, 0, 0), []⟩
    let s : State := { ready .strand with core := { (ready .strand).core with replay := some rp } }
    s.core.run = .strand ∧ heldUp s = false ∧ s.core.fault = none ∧ rp.diverged.isSome = true ∧ s.core.openTx = none ∧
    enginesAtStop (rollback s) = true ∧ replayOver s = true := by decide +kernel

/-! Witnesses of the statements about words, steps and the machine. -/

theorem witness_EncodeThenDecode : (Instr.add 1 4 5 6).wf = true ∧ encode (.add 1 4 5 6) = some (.a 0x20441460) := by decide +kernel
theorem witness_DecodeThenEncode : fits (.a 0x20441460) = true ∧ decodeSyllable (.a 0x20441460) = .ok (.add 1 4 5 6) := by decide +kernel
theorem witness_StepRuns :
    placed.agenda = [] ∧ waiting placed = false ∧ placed.core.run = .strand ∧ heldUp placed = false ∧ placed.core.fault = none ∧
    replayOver placed = false ∧ placed.core.closing = false ∧ stopWaits placed = false ∧ deliverable placed = false ∧
    placed.txDueNow = none ∧ placed.core.wake = [] ∧
    (match fetch (beginIssue placed) with
      | .bytes bs t => (match checkBundle t bs with
        | .ok b =>
          let o := openBundle b bs (landUpTo t.core.beat t)
          !forcedDue o b && !(isSerial o b && !atBoundary o) && !interlockWait o b && !logStalls o b && (firstTrap o b).isNone &&
          (firstStop o b).isNone && (match actAll (inOrder (countFetch o) b).1 (countFetch o) with | .next _ => true | _ => false)
        | .error _ => false)
      | .ended _ => false) = true := by decide +kernel
theorem witness_StepsNeverStop : agendaOk State.reset := by
  intro t h; cases h
theorem witness_StepsNeverStop_turns : agendaOk { State.reset with agenda := [.issue 0x21, .event 0 .deviceReady] } := by
  intro t h
  simp only [List.mem_cons, List.not_mem_nil, or_false] at h
  rcases h with rfl | rfl
  · show isSite 0x21 = true
    decide +kernel
  · show isSite 0 = true
    decide +kernel
theorem witness_SlotChecks : isEvent (.add 0 5 6 7) = false ∧ (ready .strand).core.closing = false ∧
    guarded (.add 0 5 6 7) (ready .strand) = true ∧ minMode (.add 0 5 6 7) ≤ (ready .strand).core.mode.code ∧
    (ready .strand).guardTrue 1 = false ∧ ((ready .strand).core.pendingOn [.x 5]) = false := by decide +kernel
theorem witness_Privileges : guarded (.tlbinvAll 0 3) (ready .strand) = true ∧ (ready .strand).core.mode = .strand ∧
    guarded (.mts 0 6 0x300) (ready .strand) = true ∧ guarded (.rftResume 0) (ready .strand) = true ∧
    guarded (.quarantine 0 6) (ready .supervisor) = true ∧ guarded (.svc 0 3) (ready .strand) = true ∧
    (ready .strand).core.tx = none := by decide +kernel
/-- MFS of 0x380 and MTS of 0x380, and of the highest numbers below 0x380 and 0x400 that a table lists; 0x37F and 0x3FF name no register, and
MTS of them is OPCODE_UNDEF in every mode (05 R148 R171); RFT in a transaction, which aborts it. -/
theorem witness_Privileges_numbers :
    guarded (.mfs 0 5 0x380) (ready .strand) = true ∧ guarded (.mfs 0 5 0x380) (ready .supervisor) = true ∧
    guarded (.mts 0 6 0x327) (ready .strand) = true ∧ guarded (.mts 0 6 0x380) (ready .supervisor) = true ∧
    guarded (.mts 0 6 0x39C) (ready .supervisor) = true ∧ modeFormOk (.mts 0 6 0x37F) (ready .strand) = false ∧
    modeFormOk (.mts 0 6 0x3FF) (ready .supervisor) = false ∧ guarded (.rftResume 0) (inTx (ready .strand)) = true ∧
    (ready .supervisor).core.mode ≠ .service ∧ (inTx (ready .strand)).core.tx.isSome = true := by decide +kernel
theorem witness_IssueFrame : slotPasses (.cmpeq 0 5 6 7) (ready .strand) = true ∧
    nextAnd (exec (.cmpeq 0 5 6 7) (ready .strand)) (fun _ => true) = true ∧ (predResult (.cmpeq 0 5 6 7) (ready .strand)).isSome = true ∧
    portless (.iadd 0 (.line ⟨0, 1, 2⟩) (.xreg 7) (.imm 1) 0) = true := by decide +kernel
theorem witness_Landing : ∀ n v, Write.x 5 9 ≠ .state n v := by
  intro n v h; cases h
theorem witness_Landing_two :
    let p : Result := { seq := 0, due := some 3, write := .x 5 1, slot := 1, pc := 32, events := [] }
    let q : Result := { seq := 1, due := some 3, write := .x 5 2, slot := 2, pc := 64, events := [] }
    let s : State := { ready .strand with core := { (ready .strand).core with land := [p, q] } }
    let u : State := { ready .strand with core := { (ready .strand).core with beat := 3, landed := [p], land := [{ q with due := none }] } }
    p.due = some 3 ∧ q.due = some 3 ∧ p.seq < q.seq ∧ p.write.meets q.write = true ∧ s.core.landed = [] ∧
    u.core.land = [{ q with due := none }] ∧ u.core.landed = [p] ∧ u.core.beat = 3 ∧ p.write.meets ({ q with due := none } : Result).write = true := by
  decide +kernel
theorem witness_StoreFrame : region 0xF000000000000040 = .own 64 ∧ 64 < (ready .strand).core.spadSize ∧ (ready .strand).core.tx = none ∧
    (ready .strand).watched 0xF000000000000040 4 false true = false ∧ Memory.wf (ready .strand).mem = true ∧
    (performStore { pc := 0, slot := 0, scope := 0, size := 4, va := 0xF000000000000040, key := scratchKey 0x20 64, bytes := [1, 2, 3, 4], tag := none,
                    mdata := none, far := false, cached := false, atom := false, lead := true } false false (ready .strand)).2.peek (scratchKey 0x20 64) 4 = [1, 2, 3, 4] := by decide +kernel
theorem witness_MemoryReads : Memory.wf mapped.mem = true ∧ swf 0 mapped.tags = true := by decide +kernel
theorem witness_TrapEntryAndReturn : (ready .strand).core.openTx = none ∧ (ready .supervisor).core.mode ≠ .service ∧
    (rollback (ready .supervisor)).core.tbusy = false ∧ (ready .supervisor).core.win.undo = [] := by decide +kernel
theorem witness_DivisionAndRemainder :
    let s := withX 8 0x8000000000000000 (withX 9 (BitVec.allOnes 64) (ready .strand))
    slotPasses (.div 0 5 8 9) s = true ∧ s.x 8 = 0x8000000000000000 ∧ s.x 9 = BitVec.allOnes 64 ∧
    slotPasses (.rem 0 5 7 10) s = true ∧ s.x 10 = 0 ∧ slotPasses (.remn 0 5 8 7) s = true ∧ s.x 7 ≠ 0 := by decide +kernel
theorem witness_ErrorRead : slotPasses (.chkerr 0 5 1) (ready .strand) = true ∧ slotPasses (.chkerr 0 5 0) (ready .strand) = true := by
  decide +kernel
theorem witness_LoopsLeft : activeLoops looping.core.r.sr.lact = [0] ∧ [0].Nodup ∧ ([0] : List Nat)[0]? = some 0 := by decide +kernel

/-! Single instructions. Every expected value is worked out by hand from the rule that the comment names. -/

/-- The state after an instruction, its results landed. -/
def after (i : Instr) (s : State) : State :=
  match exec i s with
  | .next t => landUpTo 1000 (landInterlockedAll t)
  | _ => s
where
  landInterlockedAll (t : State) : State := (List.range 8).foldl (fun s k => landInterlocked k s) t

/-- 05 R167: 3 + sext(0x3FF) = 2. -/
theorem test_addi_negative : (after (.addi 0 5 7 0x3FF) (ready .strand)).x 5 = 2 := by decide +kernel
/-- 02 R61: x0 discards what is written. -/
theorem test_x0 : (after (.addi 0 0 7 1) (ready .strand)).x 0 = 0 := by decide +kernel
/-- 05 R164: the upper half of (2^64 - 1)^2 is 2^64 - 2. -/
theorem test_mulhn : (after (.mulhn 0 5 8 8) (withX 8 (BitVec.allOnes 64) (ready .strand))).x 5 = 0xFFFFFFFFFFFFFFFE := by decide +kernel
/-- 05 R165: -7 / 3 is -2, rounded toward zero; the remainder is -1. -/
theorem test_div : (after (.div 0 5 8 7) (withX 8 (-7) (ready .strand))).x 5 = -2 := by decide +kernel
theorem test_rem : (after (.rem 0 5 8 7) (withX 8 (-7) (ready .strand))).x 5 = -1 := by decide +kernel
/-- 05 R164: SRA by x[b] mod 64; -16 >> 3 = -2. -/
theorem test_sra : (after (.sra 0 5 8 7) (withX 8 (-16) (ready .strand))).x 5 = -2 := by decide +kernel
/-- 02 R44 R49: the bundle at pc 0 moves the pc by 32 and its result lands after it. -/
theorem test_step : (match step placed with
    | .next s => s.core.r.pc == 32 && s.core.land.length == 1
    | _ => false) = true := by decide +kernel
/-- 05 R156 R177, 14 R424: SVC enters the handler in supervisor mode with cause 0x5F. -/
theorem test_svc : (match exec (.svc 0 5) { ready .strand with core := { (ready .strand).core with sup := { resetSup with tvec := 0x4000 } } } with
    | .next s => s.core.sup.tcause == 0x5F && s.core.mode == .supervisor && s.core.r.pc == 0x4000 && bits s.core.sup.tstatus 1 2 == 0
    | _ => false) = true := by decide +kernel
/-- 06 R205: the arrival of the last of three clears the count and moves the generation on; it returns the old generation. -/
theorem test_bararr : (let t := after (.bararr 0 5 0 31) ((ready .strand).setBarrier (barrierKey 0x20 31) ⟨3, 2, 7⟩)
    t.x 5 == 7 && t.barrier (barrierKey 0x20 31) == ⟨3, 0, 8⟩) = true := by decide +kernel
/-- 06 R197: AADD returns the old doubleword and stores the sum at once: 0x01 + 3 = 4. -/
theorem test_aadd : (let s := (ready .strand).poke (scratchKey 0x20 64) [1]
    let t := after (.aadd 0 7 6 0) s
    t.x 7 == 1 && t.peekNat (scratchKey 0x20 64) 8 == 4) = true := by decide +kernel
/-- 04 R134, 06 R192: a load reads the word that the held store of the same window wrote. -/
theorem test_store_load : (after (.ldnW 0 5 6 0) (after (.stW 0 7 6 0) (ready .strand))).x 5 = 3 := by decide +kernel
/-- 07 R227: 1.5 + 2.25 = 3.75 in each lane. -/
theorem test_fadd : (f32.addV 0 (f32.decode 0x3FC00000) (f32.decode 0x40100000)).1 = 0x40700000 := by decide +kernel
/-- The CRC-32C of the digits 1 to 9 is E3069283 (the parameters of log 10). -/
theorem test_crc : crc32c [49, 50, 51, 52, 53, 54, 55, 56, 57] = 0xE3069283 := by decide +kernel

end

end Sys2Proof.Tests
end

/-! PROOF. Reads after writes of memory and of metadata, and the canonical form (04 R133 R134, 00 R9, 03 R98). -/

namespace Sys2Proof.Proofs

open Sys2Proof.Machine Sys2Proof.Laws

/-- A byte after `poke`: inside the run the byte written there, elsewhere as before (04 R133). -/
theorem getByte_poke {s : State} {k j : Nat} {bs : List Byte} (hm : Memory.wf s.mem = true) :
    getByte (s.poke k bs).mem j = if k ≤ j ∧ j < k + bs.length then bs.getD (j - k) 0 else getByte s.mem j :=
  getByte_setBytes hm

@[simp] theorem length_peek (s : State) (k n : Nat) : (s.peek k n).length = n := by simp [State.peek]

@[simp] theorem getElem_peek (s : State) (k n i : Nat) (h : i < (s.peek k n).length) :
    (s.peek k n)[i] = getByte s.mem (k + i) := by simp [State.peek]

theorem peek_poke_same {s : State} (k : Nat) (bs : List Byte) (hm : Memory.wf s.mem = true) :
    (s.poke k bs).peek k bs.length = bs := by
  refine List.ext_getElem (length_peek _ _ _) fun i _ hi => ?_
  have hin : k ≤ k + i ∧ k + i < k + bs.length := by omega
  rw [getElem_peek, getByte_poke hm, if_pos hin, Nat.add_sub_cancel_left, List.getD_eq_getElem _ _ hi]

theorem peek_poke_disjoint {s : State} {k a n : Nat} {bs : List Byte} (hm : Memory.wf s.mem = true)
    (hd : a + n ≤ k ∨ k + bs.length ≤ a) : (s.poke k bs).peek a n = s.peek a n := by
  refine List.ext_getElem (by simp) fun i hi _ => ?_
  rw [length_peek] at hi
  have hout : ¬(k ≤ a + i ∧ a + i < k + bs.length) := by omega
  rw [getElem_peek, getElem_peek, getByte_poke hm, if_neg hout]

/-- The metadata of a block after a write of metadata: that of the block written is the value written (03 R98). -/
theorem mdata_setMdata {s : State} {k j : Nat} {v : BitVec 25} (ht : swf 0 s.tags = true) :
    (s.setMdata k v).mdata j = if k / 64 = j / 64 then v else s.mdata j :=
  sget_sset ht

/-- `writeRun` keeps the canonical form of the metadata: it writes bytes alone, or clears one poison bit besides (06 R190). -/
theorem writeRun_tags_wf {s : State} {k : Nat} {bs : List Byte} (ht : swf 0 s.tags = true) :
    swf 0 (s.writeRun k bs).tags = true := by
  have hp : swf 0 (s.poke k bs).tags = true := by rwa [poke_tags]
  unfold State.writeRun
  dsimp only
  split
  · exact setPoison_wf hp
  · exact hp

/-- `n` little-endian bytes hold a number modulo `256 ^ n` (00 R9). -/
theorem ofBytes_toBytes (n v : Nat) : ofBytes (toBytes n v) = v % 256 ^ n := by
  induction n generalizing v with
  | zero => simp [toBytes, ofBytes, Nat.mod_one]
  | succ n ih =>
    calc ofBytes (toBytes (n + 1) v) = v % 256 + 256 * (v / 256 % 256 ^ n) := by
          rw [toBytes, ofBytes, ih, BitVec.toNat_ofNat]
      _ = v % 256 ^ (n + 1) := by rw [pow_succ', Nat.mod_mul]

/-- Settles O56: a read after a write by the byte or block written, and the canonical form operation by operation. -/
theorem memoryReads : Obligations.MemoryReads := by
  unfold Obligations.MemoryReads
  refine ⟨?reads, ?memory, ?metadata, ?blocks, ofBytes_toBytes⟩
  case reads => exact fun s k bs hm => ⟨peek_poke_same k bs hm, fun _ _ hd => peek_poke_disjoint hm hd⟩
  case memory => exact fun s k n d bs hm => ⟨poke_wf hm, writeRun_wf hm, zeroBlocks_wf hm, movePlaces_wf hm⟩
  case metadata =>
    exact fun s k n d v w p bs ht => ⟨setMdata_wf ht, setTag_wf ht, setPoison_wf ht, writeRun_tags_wf ht,
      zeroBlocks_tags_wf ht, movePlaces_wf ht⟩
  case blocks =>
    exact fun s k v ht => ⟨by rw [mdata_setMdata ht, if_pos rfl], fun j hj => by rw [mdata_setMdata ht, if_neg hj.symm]⟩

end Sys2Proof.Proofs

/-! PROOF. How the operations of the E slot enter their queues (01 R24 R25 R30, 02 R60, 04 R140, 12 R381). -/

namespace Sys2Proof.Proofs

open Sys2Proof.Machine Sys2Proof.Laws Sys2Proof.Safety

/-! Entry (01 R25 R30). -/

/-- The state that an E-slot operation captures its operands from: the named shapes exchanged, and the MARK entry of a LOGMARK held
(01 R30, 12 R381). -/
def capturedFrom (i : Instr) (s : State) : State :=
  match i with
  | .logmark _ _ p code _ => markEntry p code (swapShapes (swapOf i).val s)
  | _ => swapShapes (swapOf i).val s

/-- What an E-slot operation does once its slot's checks pass: it waits for a place, or enters its queue. -/
def entersOrStalls (i : Instr) (s : State) : Ends :=
  if noPlace i s then stallOut s else .next (enqueue (newCmd i (capturedFrom i s)) (capturedFrom i s))

/-- The operations of engine codes 0 to 6 are those of the E slot (01 R14), and all act alike. -/
theorem exec_engineOp (i : Instr) (s : State) (h : engineCode i < 7) : exec i s = slotOp i s (entersOrStalls i) := by
  cases i with
  | mgemm | mgemms | mconv | mattn | scout | swin | smask | sscore | ccopy | cgather | cscatter | cfill | ctrans | cplane | cflat
  | cpagein | cmigrate | ctags | vsort | vsoftmax | vnorm | vreduce | allred | allgath | redscat | xbcast | alltoall | xsend | xrecv
  | logmark | logflush | qfence | etrel | ecancel | esignal | esignalAdd => rfl
  | _ => exact absurd h (Nat.lt_irrefl 7)

theorem entersOrStalls_of_place {i : Instr} {s : State} (h : noPlace i s = false) :
    entersOrStalls i s = .next (enqueue (newCmd i (capturedFrom i s)) (capturedFrom i s)) := by
  simp [entersOrStalls, h]

@[simp] theorem setQueue_nextSeq (g : Engines) (q : Nat) (l : List Cmd) : (g.setQueue q l).nextSeq = g.nextSeq := rfl

/-- Every entry takes one sequence number, whichever queue it enters. -/
theorem enqueue_nextSeq (c : Cmd) (s : State) : (enqueue c s).core.eng.nextSeq = s.core.eng.nextSeq + 1 := by
  simp only [enqueue, modEng_core, modWin_core]
  split
  · simp
  · split <;> simp

/-- Settles O25: every operation of the E slot has the one body `entersOrStalls`, which with a place enters the queue. -/
theorem commandsEnter : Obligations.CommandsEnter := by
  unfold Obligations.CommandsEnter
  intro i s hpass hcode hplace
  refine ⟨?_, rfl, rfl, enqueue_nextSeq _ _⟩
  rw [exec_engineOp i s hcode, slotOp_passes hpass, entersOrStalls_of_place hplace]
  rfl

end Sys2Proof.Proofs

/-! PROOF. How commands start, end and signal (01 R24 to R36, 04 R141 to R144). -/

namespace Sys2Proof.Proofs

open Sys2Proof.Machine Sys2Proof.Laws Sys2Proof.Safety

/-! Start (01 R24 R33). -/

/-- What `refreshBoxes` makes of each waiting command: its intervals are taken again (10 R326). -/
def refreshCmd (s : State) (c : Cmd) : Cmd :=
  if c.committed && !c.running && decide (engineCode c.instr < 5) then { c with boxes := intervals s c } else c

theorem refreshBoxes_head (q : Nat) (s : State) : (refreshBoxes s).head q = (s.head q).map (refreshCmd s) := by
  have hq : (refreshBoxes s).core.eng.queue q = (s.core.eng.queue q).map (refreshCmd s) := by
    simp only [refreshBoxes, modEng_core, Engines.queue, Vector.toList_map]
    exact List.getD_map _ [] (List.map (refreshCmd s))
  rw [State.head, hq, List.head?_map, State.head]

/-- The state after a start whose checks have left `t`: the tiles of a first start are taken, and the head runs. -/
def runHead (q : Nat) (c : Cmd) (t : State) : State :=
  ((if c.started then t else t.modTiles (onTiles Tile.start c.tiles)).modHead q fun c =>
    { c with running := true, started := true }).modWork q fun w => { w with errors := c.errors }

/-- A head that nothing holds back starts where the checks of its engine pass. -/
theorem execCommandStart_of_startCmd {q : Fin 6} {s t v : State} {c c0 : Cmd} (hhead : s.head q.val = some c0)
    (hstart : startable q.val c0 s = true)
    (hc : asStarted q.val (((refreshBoxes s).head q.val).getD c0) (refreshBoxes s) = c)
    (hhazard : (refreshBoxes s).core.eng.hazard c = false) (hfence : (refreshBoxes s).core.eng.fenced q.val c = false)
    (htile : tileFault (refreshBoxes s) c = none) (hhold : (refreshBoxes s).core.hold q.val = 0)
    (hon : (describeCmd q.val c (refreshBoxes s)).core.eng.disabled.getLsbD (q.val + 1) = false)
    (hchecks : startCmd q.val c (describeCmd q.val c (refreshBoxes s)) = .ok t v) :
    execCommandStart q s = .next (if q.val = 4 then takeHeld (runHead q.val c t) else runHead q.val c t) := by
  simp only [execCommandStart, hhead, hstart, hc, hhazard, hfence, htile, hhold, hon, hchecks]
  rfl

/-! Completion and stop (01 R24, 14 R427). -/

/-- A command without work left completes; an exchange command also leaves its records for its peers (11 R343). -/
theorem execCommandComplete_of_done {q : Fin 6} {s : State} {c : Cmd} (hready : s.engineReady q.val = some c) (hq : q.val < 5)
    (hopen : (s.work q.val).open_ = false) (hdone : cmdDone q.val c s = true) :
    execCommandComplete q s =
      .next (if q.val = 4 then endExch c (s.work 4).prm (completeCmd 4 s) else completeCmd q.val s) := by
  by_cases h4 : q.val = 4
  · rw [h4] at hready hopen hdone
    simp [execCommandComplete, h4, hready, hopen, hdone]
  · simp [execCommandComplete, hready, hq, hopen, hdone, h4]

theorem execEngineStop_of_stopPoint {q : Fin 6} {s : State} (hrun : (s.runningCmd q.val).isSome = true)
    (hreq : (s.work q.val).stopReq ≠ 0) (hopen : (s.work q.val).open_ = false) :
    execEngineStop q s = .next (endHead q.val s) := by
  simp [execEngineStop, hrun, hreq, hopen]

/-! Markers (04 R141 R142). -/

/-- A committed ETREL at the head releases a READY or DRAINING tile of its engine, or of an owner that is no engine (01 R36). -/
theorem execEtrelAtHead_of_held {q : Fin 6} {s : State} {c : Cmd} {g : Fin 8} {sw : Fin 16} {t : Fin 64} {e : Fin 5}
    (hhead : s.head q.val = some c) (hi : c.instr = .etrel g sw t e) (hcommitted : c.committed = true)
    (hstarted : c.started = false) (hfaulted : c.faulted = false)
    (hpend : (s.core.ttPend.any fun ch => ch.tile == t) = false) (hfence : s.core.eng.fenced q.val c = false)
    (hsize : (s.core.tiles.get t).size ≠ 0)
    (hstate : (s.core.tiles.get t).state = .ready ∨ (s.core.tiles.get t).state = .draining)
    (howner : 5 ≤ (s.core.tiles.get t).owner.toNat ∨ (s.core.tiles.get t).owner.toNat = q.val) :
    execEtrelAtHead q s = .next ((s.modTiles fun w => w.set t (s.core.tiles.get t).release).dropHead q.val) := by
  have hbad : ¬((s.core.tiles.get t).state = .empty ∨ (s.core.tiles.get t).state = .filling ∨
      ((s.core.tiles.get t).owner.toNat ≤ 4 ∧ (s.core.tiles.get t).owner.toNat ≠ q.val)) := by
    rintro (h | h | ⟨hle, hne⟩)
    · simp [h] at hstate
    · simp [h] at hstate
    · omega
  simp only [execEtrelAtHead, hhead, hi, hcommitted, hstarted, hfaulted, hpend, hfence, hsize, hbad, Bool.not_true, Bool.or_self,
    Bool.false_eq_true, if_false]

theorem execQfenceRelease_of_earlierDone {k : Nat} {s : State} {c : Cmd} (hk : s.core.eng.signals[k]? = some c)
    (hi : isQfence c.instr = true) (hcommitted : c.committed = true) (hdone : earlierDone c s = true) :
    execQfenceRelease k s = .next (removeSignal c s) := by
  simp [execQfenceRelease, hk, hi, hcommitted, hdone]

/-! Signals (04 R144). -/

/-- A signal that is not irreversible needs no log: its bytes are performed, and its marker goes. -/
theorem performSignal_reversible {c : Cmd} {ag : Agent} {va v : Word} {l : Loc} {s x : State}
    (hrun : performRun ag none l.key (b8 v) (if ag.scope = 0 then s else s.releaseL1) = (true, x)) :
    performSignal c ag va v l false s =
      .next (removeSignal c (if l.far then x.countFar (dieOf ag.core) ag.part va 1 else x)) := by
  simp [performSignal, hrun]

/-- An ESIGNAL whose record is read and whose place is found comes to the performance of its write or addition. -/
theorem execEsignalPerform_of_located {k : Nat} {s u w : State} {c : Cmd} {add : Bool} {scope : Nat} {r : List Piece} {l : Loc}
    (hk : s.core.eng.signals[k]? = some c) (hform : signalForm c.instr = some (add, scope)) (hcommitted : c.committed = true)
    (hdone : earlierDone c s = true) (hfault : (s.core.eng.faults.toList.getD 5 none).isSome = false)
    (hrecord : pregOf c.instr ≠ 0) (hread : readDirect (engineAgent s scope false) c.preg 16 s (unit := 6) = .ok r u)
    (halign : (fw (bytesOf r) 0).toNat % 8 = 0)
    (hloc : locate (engineAgent s scope false) (if add then .atomic else .write) true (fw (bytesOf r) 0) (consumePieces r u) = .ok l w)
    (hadd : add = true → atomicScopeBad scope (fw (bytesOf r) 0) l.far = false ∧ w.poisonAt l.key = false) :
    execEsignalPerform k s = performSignal c (engineAgent s scope false) (fw (bytesOf r) 0)
      (if add then BitVec.ofNat 64 (w.peekNat l.key 8) + fw (bytesOf r) 8 else fw (bytesOf r) 8) l
      (decide (scope = 4) && isHost l.key) w := by
  have hscope : (add && atomicScopeBad scope (fw (bytesOf r) 0) l.far) = false := by
    cases add with
    | false => rfl
    | true => exact (hadd rfl).1
  have hpoison : (add && w.poisonAt l.key) = false := by
    cases add with
    | false => rfl
    | true => exact (hadd rfl).2
  simp only [execEsignalPerform, hk, hform, hcommitted, hdone, hfault, hrecord, hread, Act.signal, halign, hloc, hscope, hpoison,
    Bool.not_true, Bool.or_self, Bool.false_eq_true, ne_eq, not_true_eq_false, if_false]

/-- Settles O28, event by event. The intervals taken again at a start (log 58), the held START messages (log 72), the place of a signal's
fault (log 53) and the write-back before a signal (log 7) are the model's readings. -/
theorem commandEvents : Obligations.CommandEvents := by
  unfold Obligations.CommandEvents
  intro q k s c
  refine ⟨?start, ?complete, ?stop, ?etrel, ?qfence, ?esignal⟩
  case start =>
    intro t v hsome hstart u hc hhazard hfence htile hhold d hon hchecks
    obtain ⟨c0, hhead⟩ := Option.isSome_iff_exists.mp hsome
    have hrefreshed : ((refreshBoxes s).head q.val).getD c0 = ((refreshBoxes s).head q.val).getD c := by
      simp [refreshBoxes_head, hhead]
    rw [hhead, Option.getD_some] at hstart
    exact execCommandStart_of_startCmd hhead hstart (hrefreshed ▸ hc) hhazard hfence htile hhold hon hchecks
  case complete => exact execCommandComplete_of_done
  case stop => exact execEngineStop_of_stopPoint
  case etrel => exact fun g sw t e => execEtrelAtHead_of_held
  case qfence => exact execQfenceRelease_of_earlierDone
  case esignal =>
    intro add scope r u l w hk hform hcommitted hdone hfault hrecord ag hread va halign hloc hadd hhost v x hrun
    have hreversible : (decide (scope = 4) && isHost l.key) = false := by
      rcases hhost with h | h <;> simp [h]
    calc exec (.esignalPerform k) s = performSignal c ag va v l (decide (scope = 4) && isHost l.key) w :=
          execEsignalPerform_of_located hk hform hcommitted hdone hfault hrecord hread halign hloc hadd
      _ = .next (removeSignal c (if l.far then x.countFar (dieOf ag.core) ag.part va 1 else x)) := by
          rw [hreversible]; exact performSignal_reversible hrun

end Sys2Proof.Proofs

/-! PROOF. How the sequencers ask for their phases and how the phases are filled (01 R37, 07 R241, 08 R268 to R270). -/

namespace Sys2Proof.Proofs

open Sys2Proof.Machine Sys2Proof.Laws Sys2Proof.Safety

/-! The first phase of a unit: no phase is in flight, and the tile that the sequencer consumes next is EMPTY (08 R269). -/

/-- The tile of a pair that its sequencer consumes next (01 R37). -/
def nextTile (s : State) (q pair t0 t1 : Nat) : Fin 64 := Fin.ofNat 64 (if s.phaseBit q pair % 2 = 0 then t0 else t1)

theorem fetchPhase_of_empty {s : State} {q pair t0 t1 unit : Nat} (hph : (s.work q).phases = [])
    (hempty : (s.core.tiles.get (nextTile s q pair t0 t1)).state = .empty) :
    fetchPhase q pair t0 t1 (s.phaseBit q pair) unit s = .next (phaseBegun q pair unit (nextTile s q pair t0 t1) s) := by
  simp only [fetchPhase, hph, List.filter_nil, List.length_nil, Nat.add_zero]
  exact if_pos ⟨Nat.zero_lt_two, hempty⟩

section
variable {s : State} {c : Cmd}

/-- A GEMM's first phase is one of its pair 0, for the tile step at its place (09 R285). -/
theorem gemmFetch_first (hph : (s.work 0).phases = [])
    (hunit : (dimsOf c (s.work 0).prm).unit (posAt s) < (dimsOf c (s.work 0).prm).total) :
    gemmFetch c s = fetchPhase 0 0 (field (s.work 0).prm 2 1) (field (s.work 0).prm 3 1) (s.phaseBit 0 0)
      ((dimsOf c (s.work 0).prm).unit (posAt s)) s := by
  simp [gemmFetch, hph, hunit]

/-- MATTN's first phase in a begun tile that has candidates is its Q tile. -/
theorem attnFetch_first (hph : (s.work 0).phases = []) (hbatch : s.mark 0 0 < (attnOf c (s.work 0).prm).nb)
    (hbegun : s.mark 0 4 ≠ 0) (hgoes : (s.work 0).stopReq = 0 ∨ (s.work 0).mid = true)
    (hcand : candidates c (attnOf c (s.work 0).prm) (s.mark 0 2) s ≠ []) :
    attnFetch c s = fetchPhase 0 0 (field (s.work 0).prm 2 1) (field (s.work 0).prm 3 1) (s.phaseBit 0 0)
      (attnUnit (attnOf c (s.work 0).prm) (s.mark 0 0) (s.mark 0 1) 0) s := by
  have hbatches : ¬(attnOf c (s.work 0).prm).nb ≤ s.mark 0 0 := Nat.not_le.mpr hbatch
  rcases hgoes with hreq | hmid
  · simp [attnFetch, hbatches, hreq, hbegun, hph, hcand]
  · simp [attnFetch, hbatches, hmid, hbegun, hph, hcand]

/-- A scout pass that has begun and needs a key tile asks for its Q tile first (10 R314). -/
theorem scoutFetch_first (hph : (s.work 1).phases = []) (harray : (scoutOp c.instr).array = true)
    (hover : scoutOver c (s.work 1).prm (scoutPos s) = false) (hreq : (s.work 1).stopReq = 0)
    (hdef : (s.work 1).deferred = none) (hbegun : s.mark 1 4 ≠ 0) (hsweep : (scoutPos s).sweep ≠ 2)
    (hneeded : needed c (scoutPos s).t s ≠ []) :
    scoutFetch c s = fetchPhase 1 0 (field (s.work 1).prm 2 1) (field (s.work 1).prm 3 1) (s.phaseBit 1 0)
      (scoutUnit c (s.work 1).prm (scoutPos s) 0) s := by
  simp [scoutFetch, hph, harray, hover, hreq, hdef, hbegun, hsweep, hneeded]

/-- A vector macro asks for its next run, or for its next row while rows are left (07 R241). -/
theorem vmacroFetch_first (hready : vmacroReady s = some c) (hph : (s.work 3).phases = [])
    (hleft : isSort c.instr = true ∨ vmacroUnit c s < (s.prog 3 8).toNat) :
    vmacroFetch s = fetchPhase 3 0 (field (s.work 3).prm 1 1) (field (s.work 3).prm 2 1) (s.phaseBit 3 0) (vmacroUnit c s) s := by
  rcases hleft with hsort | hrow
  · simp [vmacroFetch, hready, hph, hsort]
  · simp [vmacroFetch, hready, hph, Nat.not_le.mpr hrow]

end

/-! The fetch that completes next (08 R269 R270). -/

section
variable {q : Nat} {c : Cmd} {ph : Phase} {rd : State → Act (SMap EBlock)} {s u : State} {m : SMap EBlock}

theorem completePhase_of_read (h : rd s = .ok m u) : completePhase q c ph none rd s = .next (finishPhase q ph m u) := by
  simp [completePhase, h, Act.eng]

/-- An error at a request that the phase made strikes the phase with the block of that request. -/
theorem completePhase_of_struck {e : ReadError} {x : Nat × EBlock} (h : rd s = .ok m u) (hx : m[e.request]? = some x) :
    completePhase q c ph (some e) rd s = .next (strikePhase q c ph (readCause x.2 e.l2) x.2.va u) := by
  simp [completePhase, h, Act.eng, hx]

end

/-- The matrix engine, a scout engine without a fault put off, and a row whose turn it is complete their oldest phase with what it reads. -/
theorem execPhaseFetchDone_eq {q : Fin 6} {s : State} {c : Cmd} {ph : Phase} (ue : Option ReadError)
    (hq : q.val = 0 ∨ (q.val = 1 ∧ (s.work 1).deferred = none) ∨ (q.val = 3 ∧ ph.unit = vmacroUnit c s))
    (hready : s.engineReady q.val = some c) (hfetching : s.fetching q.val = some ph) :
    execPhaseFetchDone q ue s = completePhase q.val c ph ue (phaseRead q.val c ph) s := by
  rcases hq with h | ⟨h, hdef⟩ | ⟨h, hunit⟩
  · obtain rfl : q = 0 := Fin.ext h
    rw [execPhaseFetchDone, hready, hfetching]
    rfl
  · obtain rfl : q = 1 := Fin.ext h
    rw [execPhaseFetchDone, hready, hfetching]
    exact if_neg (by simp [hdef])
  · obtain rfl : q = 3 := Fin.ext h
    rw [execPhaseFetchDone, hready, hfetching]
    exact if_pos hunit

/-- Settles O29: each sequencer's first request is one `fetchPhase` of its pair 0, and `completePhase` fills or strikes; a row's phase filled only
once the row before it is written is the model's choice (log 37), as are the bytes of a phase's tile (log 33). -/
theorem phaseEvents : Obligations.PhaseEvents := by
  unfold Obligations.PhaseEvents
  refine fun s c => ⟨?fetch, ?done⟩
  case fetch =>
    intro q pair unit t0 t1 hready hph b t hempty hfirst
    have hasks : execPhaseFetch q s = fetchPhase q.val pair t0 t1 (s.phaseBit q.val pair) unit s := by
      rw [execPhaseFetch, hready]
      rcases hfirst with ⟨hq, hgemm, rfl, rfl, hunit, rfl, rfl⟩ | ⟨hq, hattn, rfl, hbatch, hbegun, hgoes, hcand, rfl, rfl, rfl⟩ |
        ⟨hq, harray, hover, hreq, hdef, hbegun, hsweep, hneeded, rfl, rfl, rfl, rfl⟩ | ⟨hq, hgo, rfl, rfl, hleft, rfl, rfl⟩
      · obtain rfl : q = 0 := Fin.ext hq
        exact (if_pos hgemm).trans (gemmFetch_first hph hunit)
      · obtain rfl : q = 0 := Fin.ext hq
        exact (if_neg (by simp [hattn])).trans (attnFetch_first hph hbatch hbegun hgoes hcand)
      · obtain rfl : q = 1 := Fin.ext hq
        exact scoutFetch_first hph harray hover hreq hdef hbegun hsweep hneeded
      · obtain rfl : q = 3 := Fin.ext hq
        exact vmacroFetch_first hgo hph hleft
    exact hasks.trans (fetchPhase_of_empty hph hempty)
  case done =>
    intro q ph m u hq hready hfetching hread
    refine ⟨?_, fun e x hx => ?_⟩
    · exact (execPhaseFetchDone_eq none hq hready hfetching).trans (completePhase_of_read hread)
    · exact (execPhaseFetchDone_eq (some e) hq hready hfetching).trans (completePhase_of_struck hread hx)

end Sys2Proof.Proofs

/-! PROOF. The decoder and the encoder are inverse to each other, slot by slot (02 R39 R42 R49 R53 to R60). -/

namespace Sys2Proof.Proofs

open Sys2Proof.Laws Sys2Proof.Safety

/-! What the decoder's checks answer for the fields of a well-formed instruction. -/

/-- A number that agrees with a field modulo the field's range stands for that field. -/
theorem ofNat_eq_of_mod {n m : Nat} [NeZero n] {k : Fin n} (h : m % n = k.val) : Fin.ofNat n m = k := Fin.ext h

/-- A well-formed instruction whose unused fields are zero passes `need`. -/
theorem need_eq_ok {c : Bool} {i j : Instr} (hw : i.wf = true)
    (hc : c = true := by simp only [Bool.and_eq_true, decide_eq_true_eq, true_and, and_true] <;> omega)
    (hj : j = i := by congr <;> exact ofNat_eq_of_mod (by omega)) : need c j = .ok i := by
  obtain ⟨hr, hf⟩ := Bool.and_eq_true_iff.mp hw
  subst hj
  simp [need, hc, hr, hf]

theorem ok_eq_ok {i j : Instr} (hj : j = i := by congr <;> exact ofNat_eq_of_mod (by omega)) :
    (.ok j : Except DecodeError Instr) = .ok i := congrArg _ hj

/-- A check that refuses where `c` fails lets pass what has `c`. -/
theorem unless_eq {c : Bool} {x y r : Except DecodeError Instr} (hr : y = r)
    (hc : c = true := by simp only [Bool.and_eq_true, decide_eq_true_eq, true_and, and_true]; omega) :
    (if (!c) = true then x else y) = r := by simpa [hc] using hr

section
variable {g : Fin 8} {r : Except DecodeError Instr}

theorem decodeA_of_fields {op d a lo : Nat} (hr : decodeAFields g op d a lo = r)
    (h0 : 0 < op := by omega) (hop : op < 128 := by omega) (hd : d < 64 := by omega) (ha : a < 64 := by omega)
    (hl : lo < 1024 := by omega) : decodeA (packA g op d a lo) = r := by
  rw [decodeA_pack h0 hop hd ha hl, Fin.ofNat_eq_cast, Fin.cast_val_eq_self, hr]

theorem decodeX_of_fields {op x disp : Nat} (hr : decodeXFields g op x disp = r) (hop : op < 64 := by omega)
    (hx : x < 64 := by omega) (hd : disp < 4294967296 := by omega) : decodeX (packX g op x disp) = r := by
  rw [decodeX_pack g.isLt hop hx hd, Fin.ofNat_eq_cast, Fin.cast_val_eq_self, hr]

theorem decodeL_of_fields {op dt b disp : Nat} (hr : decodeLFields g op dt b disp = r) (h0 : 0 < op := by omega)
    (hop : op < 128 := by omega) (hd : dt < 4096 := by omega) (hb : b < 64 := by omega) (hl : disp < 4096 := by omega) :
    decodeL (packL g op dt b disp) = r := by
  rw [decodeL_pack h0 hop hd hb hl, Fin.ofNat_eq_cast, Fin.cast_val_eq_self, hr]

theorem decodeV_of_fields {op d a b s : Nat} (hd : d < 4096) (ha : a < 4096) (hb : b < 4096) (hr : decodeVFields g op d a b s = r)
    (h0 : 0 < op := by omega) (hop : op < 256 := by omega) (hs : s < 2 := by omega) :
    decodeV (packV g op d a b s) = r := by
  rw [decodeV_pack h0 hop hd ha hb hs, Fin.ofNat_eq_cast, Fin.cast_val_eq_self, hr]

theorem decodeE_of_fields {eng op sa sb sc sw p t imm : Nat} (hr : decodeEFields g (eng * 128 + op) sa sb sc sw p t imm = r)
    (he : eng < 8 := by omega) (h0 : 0 < op := by omega) (hop : op < 128 := by omega) (hsa : sa < 4 := by omega)
    (hsb : sb < 4 := by omega) (hsc : sc < 4 := by omega) (hsw : sw < 16 := by omega) (hp : p < 64 := by omega)
    (ht : t < 2 := by omega) (hi : imm < 1024 := by omega) : decodeE (packE g eng op sa sb sc sw p t imm) = r := by
  rw [decodeE_pack he h0 hop hsa hsb hsc hsw hp ht hi, Fin.ofNat_eq_cast, Fin.cast_val_eq_self, hr]

end

/-! The fields of a packed A syllable, which A0 of a pair reads one by one (02 R54 R55). -/

section
variable {g op d a lo : Nat}

theorem packA_lo (hl : lo < 1024) : packA g op d a lo % 1024 = lo := by unfold packA; omega
theorem packA_a (ha : a < 64) (hl : lo < 1024) : packA g op d a lo / 1024 % 64 = a := by unfold packA; omega
theorem packA_d (hd : d < 64) (ha : a < 64) (hl : lo < 1024) : packA g op d a lo / 65536 % 64 = d := by unfold packA; omega
theorem packA_op (hop : op < 128) (hd : d < 64) (ha : a < 64) (hl : lo < 1024) : packA g op d a lo / 4194304 % 128 = op := by
  unfold packA; omega
theorem packA_g (hop : op < 128) (hd : d < 64) (ha : a < 64) (hl : lo < 1024) : packA g op d a lo / 536870912 = g := by
  unfold packA; omega

end

theorem voperand_bind2 {d a : VOp} {f : VOp → VOp → Except DecodeError Instr} :
    ((voperand (packVOp d)).bind fun d => (voperand (packVOp a)).bind fun a => f d a) = f d a := by
  simp only [voperand_pack, Except.bind]

theorem voperand_bind3 {d a b : VOp} {f : VOp → VOp → VOp → Except DecodeError Instr} :
    ((voperand (packVOp d)).bind fun d => (voperand (packVOp a)).bind fun a => (voperand (packVOp b)).bind fun b => f d a b) =
      f d a b := by
  simp only [voperand_pack, Except.bind]

theorem decodeXFields_loop {g : Fin 8} {n disp : Nat} : decodeXFields g 6 n disp =
    need true (.loopOp g (Fin.ofNat 64 n) (Fin.ofNat 4 (disp / 1073741824)) (Fin.ofNat 1073741824 disp)) := rfl

theorem decodeTree_pack {sh : Fin 8} {t1 t2 t3 t4 : Fin 32} {l1 l2 l3 l4 l5 : Fin 8}
    (hw : (Instr.tree sh t1 t2 t3 t4 l1 l2 l3 l4 l5).wf = true) :
    decodeX (packTree sh t1 t2 t3 t4 l1 l2 l3 l4 l5) = .ok (.tree sh t1 t2 t3 t4 l1 l2 l3 l4 l5) := by
  unfold packTree
  rw [decodeX, if_pos (by omega)]
  exact need_eq_ok hw

/-- The A slot: opcodes with one form, then those whose `func` chooses the form or bounds an operand. -/
theorem decodeA_encode {i : Instr} {w : Nat} (hw : i.wf = true) (h : encode i = some (.a w)) :
    decodeA w = .ok i := by
  cases i with
  | nop => cases h; rfl
  | add g d a b | sub g d a b | mul g d a b | mulh g d a b | mulhn g d a b | div g d a b | divn g d a b | rem g d a b | remn g d a b
  | andOp g d a b | orOp g d a b | xorOp g d a b | andn g d a b | sll g d a b | srl g d a b | sra g d a b | rol g d a b | minOp g d a b
  | maxOp g d a b | minn g d a b | maxn g d a b | absOp g d a | clz g d a | ctz g d a | popc g d a | bfx g d a b s | bfi g d a b
  | sel g d a b n | addi g d a i | andi g d a i | ori g d a i | xori g d a i | slli g d a i | srli g d a i | srai g d a i | muli g d a i
  | limm g d i | lihi g d a i | pcadd g d i | cmpeq g d a b | cmpne g d a b | cmplt g d a b | cmple g d a b | cmpltn g d a b
  | cmplen g d a b | cmpeqi g d a i | cmplti g d a i | cmpltni g d a i | pand g d a b | por g d a b | pxor g d a b | pandn g d a b
  | tstbit g d a n | mfs g d n | mts g a n | shw g k a n | agw g k a n | xpw g k a n | btmovToBt g k a | btmovFromBt g d k | btset g k i
  | chkerr g d c | rdtime g d | rdwin g d | rdpw g d a s k | ctxsave g a | ctxload g a | pswap g a b | quarantine g a | svc g n
  | hackset g a v | dirtyclr g a b =>
    cases h
    exact decodeA_of_fields (need_eq_ok hw)
  | sext g d a w | zext g d a w | isap g d a k =>
    cases h
    exact decodeA_of_fields ((if_neg (by omega)).trans (need_eq_ok hw))
  | cvtaOff g d a | cvtaOwn g d a | cinvWbinv g | cinvInv g | cinvWbpage g a =>
    cases h
    refine decodeA_of_fields ?_
    simp only [decodeAFields, Nat.reduceMul, Nat.reduceAdd, Nat.reduceMod, ↓reduceIte, Nat.reduceEqDiff]
    exact need_eq_ok hw (hc := rfl)
  | cvtaCl g d a b =>
    cases h
    exact decodeA_of_fields ((if_neg (by omega)).trans ((if_neg (by omega)).trans ((if_pos (by omega)).trans (need_eq_ok hw))))
  | tlbinvPage g a s =>
    cases h
    exact decodeA_of_fields ((if_pos (by omega)).trans (need_eq_ok hw))
  | tlbinvAll g s =>
    cases h
    refine decodeA_of_fields ((if_neg (by omega)).trans ((if_pos ?_).trans (need_eq_ok hw)))
    simp only [Bool.and_eq_true, decide_eq_true_eq]; omega
  | ecnt g d e =>
    cases h
    exact decodeA_of_fields (unless_eq ((if_neg (by omega)).trans ok_eq_ok))
  | _ => cases h

/-- A0 with A1 under H.P (02 R55). -/
theorem decodePair_encode {i : Instr} {v w : Nat} (hw : i.wf = true) (h : encode i = some (.pair v w)) :
    decodePair v w = .ok i := by
  cases i with
  | limmPair g d i | lihiPair g d a i | segset g i =>
    cases h
    simp (disch := omega) only [decodePair, packA_op, packA_d, packA_a, packA_lo, packA_g]
    exact need_eq_ok hw
  | _ => cases h

/-- The X slot, but for the four RFT rows whose word is that of RFT_RESUME (log 40). -/
theorem decodeX_encode {i : Instr} {w : Nat} (hw : i.wf = true) (h : encode i = some (.x w)) (hi : asDecoded i = i) :
    decodeX w = .ok i := by
  cases i with
  | tree shape t1 t2 t3 t4 l1 l2 l3 l4 l5 => cases h; exact decodeTree_pack hw
  | br g disp | bri g a | call g disp | calli g a | yield g | suspend g | exitOp g | trapOp g disp | rftResume g | idle g | ret g k
  | fork g a disp =>
    cases h
    exact decodeX_of_fields (need_eq_ok hw)
  | loopOp g n k len =>
    cases h
    exact decodeX_of_fields (decodeXFields_loop.trans (need_eq_ok hw))
  | waitMem g a b =>
    cases h
    exact decodeX_of_fields ((if_pos (by omega)).trans (need_eq_ok hw))
  | waitEng g mask =>
    cases h
    exact decodeX_of_fields ((if_neg (by omega)).trans ((if_pos (by omega)).trans (need_eq_ok hw)))
  | rftYield g | rftSuspend g | rftFault g | rftHold g => cases hi
  | _ => cases h

/-- The L slot: register forms, line forms, and the forms whose DT field is a code. -/
theorem decodeL_encode {i : Instr} {w : Nat} (hw : i.wf = true) (h : encode i = some (.l w)) :
    decodeL w = .ok i := by
  cases i with
  | ldB g d b disp | ldH g d b disp | ldW g d b disp | ldD g d b disp | ldnB g d b disp | ldnH g d b disp | ldnW g d b disp
  | ldtag g d b disp | stB g d b disp | stH g d b disp | stW g d b disp | stD g d b disp | sttag g d b disp | aadd g d b disp
  | aand g d b disp | aor g d b disp | axor g d b disp | amin g d b disp | amax g d b disp | aminn g d b disp | amaxn g d b disp
  | axchg g d b disp | acas g d b disp | afadd g d b disp | barinit g d b disp | bararr g d b disp | barwait g d b disp | ttdef g d b disp
  | ttstat g d b disp | prefetch g l2 b disp | qpush g q b | qpop g d q b | qtry g d q b | rsend g d k b | rrecv g d k b | ttrel g b disp
  | txbegin g k sc | txend g | txabort g c | txstat g d =>
    cases h
    exact decodeL_of_fields (need_eq_ok hw)
  | ldv g m b disp | stv g m b disp | ldvs g m b st | stvs g m b st | ldx g m b k =>
    cases h
    have hm := packLine_lt m
    refine decodeL_of_fields ((if_neg (by omega)).trans (need_eq_ok hw (hj := ?_)))
    rw [lineOf_pack]; congr <;> exact ofNat_eq_of_mod (by omega)
  | ldg g m b ix | stg g m b ix =>
    cases h
    have hm := packLine_lt m
    have hix := packLine_lt ix
    refine decodeL_of_fields ((if_neg ?_).trans (need_eq_ok hw (hj := ?_)))
    · simp only [Bool.or_eq_true, decide_eq_true_eq]; omega
    · rw [lineOf_pack, lineOf_pack]; congr; exact ofNat_eq_of_mod (by omega)
  | fenceOp g sc =>
    cases h
    exact decodeL_of_fields (unless_eq ((if_neg (by omega)).trans ok_eq_ok))
  | promote g sc b disp =>
    cases h
    exact decodeL_of_fields ((if_neg (by omega)).trans ((if_neg (by omega)).trans (need_eq_ok hw)))
  | cflushWb g b disp | cflushInv g b disp | cflushMem g b disp | ttsetReady g b disp | ttsetEmpty g b disp =>
    cases h
    exact decodeL_of_fields ok_eq_ok
  | _ => cases h

/-- The V slot: two sources, one source, an immediate for the second, and the matrix registers. -/
theorem decodeV_encode {i : Instr} {w : Nat} (hw : i.wf = true) (h : encode i = some (.v w)) :
    decodeV w = .ok i := by
  cases i with
  | fadd g d a b | fsub g d a b | fmul g d a b | ffma g d a b | ffms g d a b | fmax g d a b | fmin g d a b | fcpys g d a b | fcmpeq g d a b
  | fcmplt g d a b | fcmple g d a b | fcmpun g d a b | hadd g d a b s | hmul g d a b s | hfma g d a b s | hmax g d a b s | iadd g d a b s
  | isub g d a b s | imul g d a b s | imulh g d a b s | imad g d a b s | imax g d a b | imin g d a b | imaxn g d a b | iminn g d a b
  | iand g d a b | ior g d a b | ixor g d a b | ishl g d a b s | ishr g d a b | isra g d a b | icmpeq g d a b | icmplt g d a b
  | icmpltn g d a b | qnt g d a b | dqnt g d a b | bscale g d a b s | vbcast g d a b | vshuf g d a b | vrot g d a b | vsel g d a b
  | viota g d a b | vmask g d a b s | vext g d a b s =>
    cases h
    exact decodeV_of_fields (packVOp_lt d) (packVOp_lt a) (packVOp_lt b) (voperand_bind3.trans (need_eq_ok hw))
  | fabs g d a | fneg g d a | frcp g d a | frsq g d a | fexp2 g d a | flog2 g d a | frint g d a s | iabs g d a s | vmov g d a | vpopc g d a
  | cvt g d a dst src s =>
    cases h
    exact decodeV_of_fields (packVOp_lt d) (packVOp_lt a) (by omega) (voperand_bind2.trans (need_eq_ok hw))
  | plpack g d a f | plunpk g d a f | vred g d a f | vscan g d a f s =>
    cases h
    exact decodeV_of_fields (packVOp_lt d) (packVOp_lt a) (by omega) (voperand_bind2.trans (unless_eq (need_eq_ok hw)))
  | mmr g m a b s =>
    cases h
    exact decodeV_of_fields (by omega) (packVOp_lt a) (packVOp_lt b) (voperand_bind2.trans ((if_neg (by omega)).trans (need_eq_ok hw)))
  | mzero g m | mgate g m | mdrowsy g m | mwake g m | minval g m =>
    cases h
    exact decodeV_of_fields (by omega) (by omega) (by omega) ((if_neg (by omega)).trans (need_eq_ok hw))
  | _ => cases h

/-- The E slot: the operations of the engines and markers, then those with a scope or an engine code below 5. -/
theorem decodeE_encode {i : Instr} {w : Nat} (hw : i.wf = true) (h : encode i = some (.e w)) :
    decodeE w = .ok i := by
  cases i with
  | mgemm g sa sb sc sw p r acc | mgemms g sa sb sc sw p r acc | mconv g sa sb sc sw p r acc | mattn g sa sb sc sw p r v fin
  | scout g sa sb sw p r | swin g sw p r | smask g sw p r | sscore g sa sb sc sw p r | ccopy g sa sc sw p r | cgather g sa sb sc sw p r
  | cscatter g sa sb sc sw p r | cfill g sc sw p r | ctrans g sa sc sw p r | cplane g sa sc sw p r | cflat g sa sc sw p r
  | cpagein g sw p r | cmigrate g sw p r | ctags g sw p r | vsort g sa sb sc sw p r | vsoftmax g sa sb sc sw p r | vnorm g sa sb sc sw p r
  | vreduce g sa sb sc sw p r | allred g sa sc sw p r | allgath g sa sc sw p r | redscat g sa sc sw p r | xbcast g sa sc sw p r
  | alltoall g sa sc sw p r | xsend g sa sw p r | xrecv g sc sw p r | logmark g sw p code chk | qfence g sw mask | ecancel g sw mask =>
    cases h
    exact decodeE_of_fields (need_eq_ok hw)
  | logflush g sw sc | etrel g sw t e =>
    cases h
    refine decodeE_of_fields ((if_neg ?_).trans (need_eq_ok hw))
    simp only [Bool.and_eq_true, decide_eq_true_eq]; omega
  | esignal g sw p mask sc =>
    cases h
    refine decodeE_of_fields ((if_neg ?_).trans ((if_pos (by omega)).trans ok_eq_ok))
    simp only [Bool.or_eq_true, decide_eq_true_eq]; omega
  | esignalAdd g sw p mask sc =>
    cases h
    refine decodeE_of_fields ((if_neg ?_).trans ((if_neg (by omega)).trans ok_eq_ok))
    simp only [Bool.or_eq_true, decide_eq_true_eq]; omega
  | _ => cases h

/-- A well-formed instruction that the decoder knows by its own word comes back from it: the packed fields are read again, and the
opcode's checks hold of them. -/
theorem decodeSyllable_encode {i : Instr} {sy : Syllable} (hw : i.wf = true) (h : encode i = some sy) (hi : asDecoded i = i) :
    decodeSyllable sy = .ok i := by
  cases sy with
  | a w => exact decodeA_encode hw h
  | pair v w => exact decodePair_encode hw h
  | x w => exact decodeX_encode hw h hi
  | l w => exact decodeL_encode hw h
  | v w => exact decodeV_encode hw h
  | e w => exact decodeE_encode hw h

/-- Settles O44: four RFT rows have the word of RFT_RESUME (log 40), and every other instruction comes back as it is. -/
theorem encodeThenDecode : Obligations.EncodeThenDecode := by
  unfold Obligations.EncodeThenDecode
  intro i sy hw h
  cases i with
  | rftYield g | rftSuspend g | rftFault g | rftHold g => exact decodeSyllable_encode (i := .rftResume g) rfl h rfl
  | _ => exact decodeSyllable_encode hw h rfl

/-! The other direction: what a word decodes to has that word. -/

/-- Every instruction that the result can be is well formed, and `sy` is its own syllable: no bit of `sy` is ignored (02 R42). -/
def OwnWord (sy : Syllable) (r : Except DecodeError Instr) : Prop := ∀ i, r = .ok i → i.wf = true ∧ encode i = some sy

section
variable {sy : Syllable}

@[simp] theorem ownWord_undef : OwnWord sy undef := fun _ h => by cases h
@[simp] theorem ownWord_reserved : OwnWord sy reserved := fun _ h => by cases h

theorem ownWord_ok {j : Instr} : OwnWord sy (.ok j) ↔ j.wf = true ∧ encode j = some sy :=
  ⟨fun h => h j rfl, fun h i hi => by cases hi; exact h⟩

theorem ownWord_ite {c : Prop} [Decidable c] {x y : Except DecodeError Instr} :
    OwnWord sy (if c then x else y) ↔ (c → OwnWord sy x) ∧ (¬c → OwnWord sy y) := by
  by_cases hc : c <;> simp [hc]

theorem ownWord_need {c : Bool} {j : Instr} : OwnWord sy (need c j) ↔ (c = true → j.wf = true → encode j = some sy) := by
  cases c <;> cases hr : j.reservedOk <;> cases hf : j.formOk <;> simp [need, hr, hf, ownWord_ok, Instr.wf]

/-- A vector operand that decodes has the 12 bits that it was read from (02 R58). -/
theorem packVOp_of_voperand {v : Nat} {o : VOp} (hv : v < 4096) (h : voperand v = .ok o) : packVOp o = v := by
  unfold voperand at h
  split at h
  · cases h; simp only [packVOp, packLine, lineOf, Fin.val_ofNat]; omega
  · dsimp only at h
    split at h
    any_goals split at h
    all_goals cases h
    all_goals simp only [packVOp, Fin.val_ofNat]; omega

theorem ownWord_bind {v : Nat} (hv : v < 4096) {f : VOp → Except DecodeError Instr} :
    OwnWord sy ((voperand v).bind f) ↔ ∀ o, packVOp o = v → OwnWord sy (f o) := by
  constructor
  · rintro h o rfl
    rwa [voperand_pack] at h
  · intro h
    cases ho : voperand v with
    | error e => exact fun _ hi => by cases hi
    | ok o => exact h o (packVOp_of_voperand hv ho)

end

/-! The instructions whose fields allow no operand form that their entries refuse. -/

theorem ecnt_wf (g : Fin 8) (d : Fin 64) (e : Fin 5) : (Instr.ecnt g d e).wf = true := rfl
theorem fenceOp_wf (g : Fin 8) (sc : Fin 5) : (Instr.fenceOp g sc).wf = true := rfl
theorem cflushWb_wf (g : Fin 8) (b : Fin 64) (disp : Fin 4096) : (Instr.cflushWb g b disp).wf = true := rfl
theorem cflushInv_wf (g : Fin 8) (b : Fin 64) (disp : Fin 4096) : (Instr.cflushInv g b disp).wf = true := rfl
theorem cflushMem_wf (g : Fin 8) (b : Fin 64) (disp : Fin 4096) : (Instr.cflushMem g b disp).wf = true := rfl
theorem ttsetReady_wf (g : Fin 8) (b : Fin 64) (disp : Fin 4096) : (Instr.ttsetReady g b disp).wf = true := rfl
theorem ttsetEmpty_wf (g : Fin 8) (b : Fin 64) (disp : Fin 4096) : (Instr.ttsetEmpty g b disp).wf = true := rfl
theorem esignal_wf (g : Fin 8) (sw : Fin 16) (p : Fin 64) (mask : Fin 32) (sc : Fin 5) : (Instr.esignal g sw p mask sc).wf = true := rfl
theorem esignalAdd_wf (g : Fin 8) (sw : Fin 16) (p : Fin 64) (mask : Fin 32) (sc : Fin 5) :
    (Instr.esignalAdd g sw p mask sc).wf = true := rfl

/-! Each slot's fields, opcode by opcode: what the entry checks is what the packed word needs. -/

section
variable {g : Fin 8}

theorem decodeAFields_ownWord {op d a lo : Nat} (hd : d < 64) (ha : a < 64) (hl : lo < 1024) :
    OwnWord (.a (packA g.val op d a lo)) (decodeAFields g op d a lo) := by
  unfold decodeAFields
  split
  all_goals
    simp only [ownWord_need, ownWord_ite, ownWord_ok, ownWord_undef, ownWord_reserved, ecnt_wf, encode, packA, Option.some.injEq,
      Syllable.a.injEq, Fin.val_ofNat, Bool.and_eq_true, decide_eq_true_eq, Bool.not_eq_true', Bool.not_eq_false, implies_true,
      and_true, true_and]
  all_goals omega

theorem decodeXFields_ownWord {op r disp : Nat} (hr : r < 64) (hd : disp < 4294967296) :
    OwnWord (.x (packX g.val op r disp)) (decodeXFields g op r disp) := by
  unfold decodeXFields
  split
  all_goals
    simp only [ownWord_need, ownWord_ite, ownWord_undef, encode, packX, Option.some.injEq, Syllable.x.injEq, Fin.val_ofNat,
      Bool.and_eq_true, decide_eq_true_eq, implies_true, and_true]
  all_goals omega

theorem decodeLFields_ownWord {op dt b disp : Nat} (hdt : dt < 4096) (hb : b < 64) (hd : disp < 4096) :
    OwnWord (.l (packL g.val op dt b disp)) (decodeLFields g op dt b disp) := by
  unfold decodeLFields
  split
  all_goals
    simp only [ownWord_need, ownWord_ite, ownWord_ok, ownWord_undef, ownWord_reserved, fenceOp_wf, cflushWb_wf, cflushInv_wf,
      cflushMem_wf, ttsetReady_wf, ttsetEmpty_wf, encode, packL, packLine, lineOf, Option.some.injEq, Syllable.l.injEq,
      Fin.val_ofNat, Bool.and_eq_true, Bool.or_eq_true, decide_eq_true_eq, Bool.not_eq_true', Bool.not_eq_false, implies_true,
      and_true, true_and]
  all_goals omega

theorem decodeVFields_ownWord {op d a b s : Nat} (hd : d < 4096) (ha : a < 4096) (hb : b < 4096) (hs : s < 2) :
    OwnWord (.v (packV g.val op d a b s)) (decodeVFields g op d a b s) := by
  unfold decodeVFields
  split
  all_goals
    simp only [ownWord_bind hd, ownWord_bind ha, ownWord_bind hb, ownWord_need, ownWord_ite, ownWord_undef, encode, packV,
      Option.some.injEq, Syllable.v.injEq, Fin.val_ofNat, Bool.and_eq_true, decide_eq_true_eq, Bool.not_eq_true',
      Bool.not_eq_false, implies_true, true_and]
  all_goals omega

theorem decodeEFields_ownWord {key sa sb sc sw p r imm : Nat} (hsa : sa < 4) (hsb : sb < 4) (hsc : sc < 4) (hsw : sw < 16)
    (hp : p < 64) (hr : r < 2) (hi : imm < 1024) :
    OwnWord (.e (packE g.val (key / 128) (key % 128) sa sb sc sw p r imm)) (decodeEFields g key sa sb sc sw p r imm) := by
  unfold decodeEFields
  split
  all_goals
    simp only [ownWord_need, ownWord_ite, ownWord_ok, ownWord_undef, ownWord_reserved, esignal_wf, esignalAdd_wf, encode, packE,
      Option.some.injEq, Syllable.e.injEq, Fin.val_ofNat, Bool.and_eq_true, Bool.or_eq_true, decide_eq_true_eq,
      Bool.not_eq_true', Bool.not_eq_false, implies_true, true_and]
  all_goals omega

end

/-! A word of a slot is the packing of its own fields. -/

theorem decodeA_ownWord {w : Nat} (h : w < 2 ^ 32) (h0 : w ≠ 0) : OwnWord (.a w) (decodeA w) := by
  have hfields := decodeAFields_ownWord (g := Fin.ofNat 8 (w / 536870912)) (op := w / 4194304 % 128) (d := w / 65536 % 64)
    (a := w / 1024 % 64) (lo := w % 1024) (by omega) (by omega) (by omega)
  rw [show packA (Fin.ofNat 8 (w / 536870912)).val (w / 4194304 % 128) (w / 65536 % 64) (w / 1024 % 64) (w % 1024) = w by
    simp only [packA, Fin.val_ofNat]; omega] at hfields
  rw [decodeA, if_neg h0]
  exact ownWord_ite.mpr ⟨fun _ => ownWord_reserved, fun _ => hfields⟩

/-- A0 and A1 under H.P: the three pairable instructions, and no other (02 R55). -/
theorem decodePair_ownWord {v w : Nat} (hv : v < 2 ^ 32) (hw : w < 2 ^ 32) : OwnWord (.pair v w) (decodePair v w) := by
  unfold decodePair
  dsimp only
  split
  case h_4 =>
    split
    · exact fun _ h => by cases h
    · exact fun _ h => by cases h
  all_goals
    simp only [ownWord_need, encode, packA, Option.some.injEq, Syllable.pair.injEq, Fin.val_ofNat, Bool.and_eq_true,
      decide_eq_true_eq]
    omega

/-- A number's digits above place `m`: the digit below `n` there, and those above it. -/
theorem div_eq_mul_add_mod (w m n : Nat) : w / m = w / (m * n) * n + w / m % n := by
  rw [← Nat.div_div_eq_div_mul, Nat.div_add_mod']

theorem packTree_self {w : Nat} (htree : w / 140737488355328 = 0) (hlow : w % 512 = 0) :
    packTree (w / 17592186044416 % 8) (w / 549755813888 % 32) (w / 17179869184 % 32) (w / 536870912 % 32) (w / 16777216 % 32)
      (w / 2097152 % 8) (w / 262144 % 8) (w / 32768 % 8) (w / 4096 % 8) (w / 512 % 8) = w := by
  have low : w = w / 512 * 512 := by omega
  have l5 := div_eq_mul_add_mod w 512 8
  have l4 := div_eq_mul_add_mod w 4096 8
  have l3 := div_eq_mul_add_mod w 32768 8
  have l2 := div_eq_mul_add_mod w 262144 8
  have l1 := div_eq_mul_add_mod w 2097152 8
  have t4 := div_eq_mul_add_mod w 16777216 32
  have t3 := div_eq_mul_add_mod w 536870912 32
  have t2 := div_eq_mul_add_mod w 17179869184 32
  have t1 := div_eq_mul_add_mod w 549755813888 32
  have shape := div_eq_mul_add_mod w 17592186044416 8
  simp only [Nat.reduceMul] at l5 l4 l3 l2 l1 t4 t3 t2 t1 shape
  unfold packTree
  linarith

theorem decodeX_ownWord {w : Nat} (h : w < 2 ^ 48) : OwnWord (.x w) (decodeX w) := by
  rw [decodeX, ownWord_ite, ownWord_need]
  refine ⟨fun htree hlow _ => ?_, fun _ => ?_⟩
  · simp only [encode, Fin.val_ofNat, packTree_self htree (of_decide_eq_true hlow)]
  · have hfields := decodeXFields_ownWord (g := Fin.ofNat 8 (w / 274877906944)) (op := w / 2199023255552 % 64)
      (r := w / 4294967296 % 64) (disp := w % 4294967296) (by omega) (by omega)
    rwa [show packX (Fin.ofNat 8 (w / 274877906944)).val (w / 2199023255552 % 64) (w / 4294967296 % 64) (w % 4294967296) = w by
      simp only [packX, Fin.val_ofNat]; omega] at hfields

theorem decodeL_ownWord {w : Nat} (h : w < 2 ^ 40) (h0 : w ≠ 0) : OwnWord (.l w) (decodeL w) := by
  have hfields := decodeLFields_ownWord (g := Fin.ofNat 8 (w / 137438953472)) (op := w / 1073741824 % 128)
    (dt := w / 262144 % 4096) (b := w / 4096 % 64) (disp := w % 4096) (by omega) (by omega) (by omega)
  rw [show packL (Fin.ofNat 8 (w / 137438953472)).val (w / 1073741824 % 128) (w / 262144 % 4096) (w / 4096 % 64) (w % 4096) = w by
    simp only [packL, Fin.val_ofNat]; omega] at hfields
  rw [decodeL, if_neg h0]
  exact ownWord_ite.mpr ⟨fun _ => ownWord_reserved, fun _ => hfields⟩

theorem decodeV_ownWord {w : Nat} (h : w < 2 ^ 48) (h0 : w ≠ 0) : OwnWord (.v w) (decodeV w) := by
  have hfields := decodeVFields_ownWord (g := Fin.ofNat 8 (w / 35184372088832)) (op := w / 137438953472 % 256)
    (d := w / 33554432 % 4096) (a := w / 8192 % 4096) (b := w / 2 % 4096) (s := w % 2) (by omega) (by omega) (by omega) (by omega)
  rw [show packV (Fin.ofNat 8 (w / 35184372088832)).val (w / 137438953472 % 256) (w / 33554432 % 4096) (w / 8192 % 4096)
    (w / 2 % 4096) (w % 2) = w by simp only [packV, Fin.val_ofNat]; omega] at hfields
  rw [decodeV, if_neg h0]
  exact ownWord_ite.mpr ⟨fun _ => ownWord_reserved, fun _ => hfields⟩

theorem decodeE_ownWord {w : Nat} (h : w < 2 ^ 40) (h0 : w ≠ 0) : OwnWord (.e w) (decodeE w) := by
  have hfields := decodeEFields_ownWord (g := Fin.ofNat 8 (w / 137438953472)) (key := w / 134217728 % 1024)
    (sa := w / 33554432 % 4) (sb := w / 8388608 % 4) (sc := w / 2097152 % 4) (sw := w / 131072 % 16) (p := w / 2048 % 64)
    (r := w / 1024 % 2) (imm := w % 1024) (by omega) (by omega) (by omega) (by omega) (by omega) (by omega) (by omega)
  rw [show packE (Fin.ofNat 8 (w / 137438953472)).val (w / 134217728 % 1024 / 128) (w / 134217728 % 1024 % 128)
    (w / 33554432 % 4) (w / 8388608 % 4) (w / 2097152 % 4) (w / 131072 % 16) (w / 2048 % 64) (w / 1024 % 2) (w % 1024) = w by
    simp only [packE, Fin.val_ofNat]; omega] at hfields
  rw [decodeE, if_neg h0]
  exact ownWord_ite.mpr ⟨fun _ => ownWord_reserved, fun _ => hfields⟩

/-- Settles O45: each slot's word is the packing of its fields, and each opcode's checks leave none of their bits out. -/
theorem decodeThenEncode : Obligations.DecodeThenEncode := by
  unfold Obligations.DecodeThenEncode
  intro i sy hfits hdec hnop
  have hne : ∀ (w : Nat) (r : Except DecodeError Instr), (w = 0 → r = .ok .nop) → r = .ok i → w ≠ 0 := by
    rintro w r hzero hr rfl
    rw [hzero rfl] at hr
    cases hr
    exact hnop rfl
  cases sy with
  | a w => exact decodeA_ownWord (of_decide_eq_true hfits) (hne w _ (fun h => if_pos h) hdec) i hdec
  | pair v w =>
    obtain ⟨hv, hw⟩ := Bool.and_eq_true_iff.mp hfits
    exact decodePair_ownWord (of_decide_eq_true hv) (of_decide_eq_true hw) i hdec
  | x w => exact decodeX_ownWord (of_decide_eq_true hfits) i hdec
  | l w => exact decodeL_ownWord (of_decide_eq_true hfits) (hne w _ (fun h => if_pos h) hdec) i hdec
  | v w => exact decodeV_ownWord (of_decide_eq_true hfits) (hne w _ (fun h => if_pos h) hdec) i hdec
  | e w => exact decodeE_ownWord (of_decide_eq_true hfits) (hne w _ (fun h => if_pos h) hdec) i hdec

/-- Settles O46: each word is evaluated by the decoder of its slot. -/
theorem decodeWords : Obligations.DecodeWords := by
  unfold Obligations.DecodeWords
  refine ⟨?add, ?addi, ?tree, ?loop, ?rft, ?ldnW, ?acas, ?fadd, ?mattn, ?esignalAdd⟩ <;> decide

end Sys2Proof.Proofs

/-! PROOF. Transfers, trees, loops, and the core's own reads (02 R42 R49 to R51, 05 R163 R174 R176 R178 R181). -/

namespace Sys2Proof.Proofs

open Sys2Proof.Machine Sys2Proof.Laws Sys2Proof.Safety

/-! Transfers (02 R43 R51, 05 R178 R179). -/

/-- A transfer to a bundle's address goes there after its bundle. -/
theorem transfer_aligned {t : Word} (r : Bool) (s : State) (h : t.toNat % 32 = 0) : transfer t r s =
    .next { s with core := { s.core with iss := { s.core.iss with target := some t, settle := r } } } :=
  if_neg (not_not.mpr h)

/-- A call of a bundle's address is noted, and bt0 takes the address after the three delay bundles. -/
theorem callTo_aligned {t : Word} (s : State) (h : t.toNat % 32 = 0) : callTo t s =
    .next (({ s with core := { s.core with iss := { s.core.iss with call := some t } } } : State).result (some 1)
      (.bt 0 (s.core.iss.pc + 128)) []) :=
  if_neg (not_not.mpr h)

/-! Trees (02 R50 R51). -/

/-- The tests a tree uses may all be read. -/
def testsValid (s : State) (sh : Fin 8) (t1 t2 t3 t4 : Fin 32) : Prop :=
  ∀ x ∈ testsUsed sh t1 t2 t3 t4, s.core.valid (.p (Fin.ofNat 16 x.val)) = true

/-- A tree whose tests may be read goes by the code of its leaf. -/
theorem execTree_eq {sh : Fin 8} {t1 t2 t3 t4 : Fin 32} {l1 l2 l3 l4 l5 : Fin 8} {s : State}
    (hpass : slotPasses (.tree sh t1 t2 t3 t4 l1 l2 l3 l4 l5) s = true)
    (hvalid : testsValid (staleReads s (.tree sh t1 t2 t3 t4 l1 l2 l3 l4 l5)) sh t1 t2 t3 t4) :
    let t := staleReads s (.tree sh t1 t2 t3 t4 l1 l2 l3 l4 l5)
    let code := [l1, l2, l3, l4, l5].getD (t.leafOf sh t1 t2 t3 t4 - 1) 0
    execTree sh t1 t2 t3 t4 l1 l2 l3 l4 l5 s =
      if code = 0 then .next t else if code = 7 then trapOut 11 Cause.leafTrap 0 0 t
      else if !t.core.r.btv.getLsbD code.val then trapOut 10 Cause.btInvalid 0 0 t else transfer (t.core.r.bt.get code) false t := by
  rw [execTree, slotOp_passes hpass]
  refine if_neg ?_
  simpa [testsValid] using hvalid

/-! LOOP (05 R181). -/

/-- LOOP keeps the nest: its counter is not active, and every active loop that holds the LOOP bundle holds the body's last bundle. -/
structure LoopNests (s : State) (k : Fin 4) (last : Word) : Prop where
  fresh : (activeLoops s.core.r.sr.lact).contains k.val = false
  holds : ∀ j ∈ activeLoops s.core.r.sr.lact, (loopBounds s.core.r.sr j).1 ≤ s.core.iss.pc →
    s.core.iss.pc ≤ (loopBounds s.core.r.sr j).2 → last ≤ (loopBounds s.core.r.sr j).2

/-- The address of the last bundle of a LOOP's body. -/
def loopLast (s : State) (len : Fin 1073741824) : Word := s.core.iss.pc + BitVec.ofNat 64 len.val * 32

/-- LOOP with its counter set: the saturated count and the loop's bounds land with latency 1. -/
def loopStarts (s : State) (n : Fin 64) (k : Fin 4) (len : Fin 1073741824) : State :=
  ((if 2 ^ 32 ≤ (s.x n).toNat then s.event Ev.saturate else s).result (some 1)
    (.state (0x10 + k.val) (BitVec.ofNat 64 (min (s.x n).toNat (2 ^ 32 - 1)))) []).result (some 1)
      (.loop k (s.core.iss.pc + 32) (loopLast s len) (lactOf (k.val :: activeLoops s.core.r.sr.lact))) []

theorem execLoop_eq {g : Fin 8} {n : Fin 64} {k : Fin 4} {len : Fin 1073741824} {s : State}
    (hpass : slotPasses (.loopOp g n k len) s = true)
    (hnest : LoopNests (staleReads s (.loopOp g n k len)) k (loopLast (staleReads s (.loopOp g n k len)) len)) :
    let t := staleReads s (.loopOp g n k len)
    execLoopOp g n k len s = if t.x n = 0 then transfer (loopLast t len + 32) false t else .next (loopStarts t n k len) := by
  obtain ⟨hfresh, hholds⟩ := hnest
  rw [execLoopOp, slotOp_passes hpass]
  generalize staleReads s (.loopOp g n k len) = t at hfresh hholds ⊢
  dsimp only
  rw [if_neg (by simpa using hfresh), if_neg (by simpa [loopLast] using hholds)]
  by_cases h0 : t.x n = 0
  · simp [h0, loopLast]
  · have hpos : (t.x n).toNat ≠ 0 := fun h => h0 (BitVec.eq_of_toNat_eq h)
    rw [if_neg (by omega), if_neg h0]
    rfl

/-- Settles O17: each transfer through `transfer_aligned` or `callTo_aligned`, a tree by its leaf's code, LOOP by its count. -/
theorem transfers : Obligations.Transfers := by
  unfold Obligations.Transfers
  intro i s hpass
  refine ⟨?br, ?bri, ?call, ?calli, ?ret, ?tree, ?loop⟩
  case br => rintro g disp rfl h; exact (slotOp_passes hpass fun t => transfer (t.relTarget disp.val) false t).trans (transfer_aligned _ _ h)
  case bri => rintro g a rfl h; exact (slotOp_passes hpass fun t => transfer (t.x a) false t).trans (transfer_aligned _ _ h)
  case call => rintro g disp rfl h; exact (slotOp_passes hpass fun t => callTo (t.relTarget disp.val) t).trans (callTo_aligned _ h)
  case calli => rintro g a rfl h; exact (slotOp_passes hpass fun t => callTo (t.x a) t).trans (callTo_aligned _ h)
  case ret => rintro g k rfl h; exact (slotOp_passes hpass fun t => transfer (t.core.r.bt.get k) true t).trans (transfer_aligned _ _ h)
  case tree =>
    rintro sh t1 t2 t3 t4 l1 l2 l3 l4 l5 rfl hvalid
    refine ⟨fun h0 => (execTree_eq hpass hvalid).trans (if_pos h0), fun hlo hhi hbt haligned => ?_⟩
    refine (execTree_eq hpass hvalid).trans ?_
    rw [if_neg (by omega), if_neg (by omega), if_neg (by simpa using hbt), transfer_aligned _ _ haligned]
  case loop =>
    rintro g n k len rfl act pc last hfresh hholds
    have hnest := LoopNests.mk hfresh hholds
    refine ⟨fun h0 haligned => (execLoop_eq hpass hnest).trans ((if_pos h0).trans (transfer_aligned _ _ haligned)), fun h0 => ?_⟩
    exact (execLoop_eq hpass hnest).trans (if_neg h0)

/-! NOP, CHKERR, RDPW and RDTIME (02 R42, 05 R163 R174 R176). -/

/-- Outside a replay an instruction that takes an input takes the live one (12 R374). -/
theorem withInput_live {sub : Nat} {s : State} (h : s.core.replay = none) (live : State → Ends) (given : List Byte → State → Ends) :
    withInput sub s live given = live s := by
  simp [withInput, State.input, h]

/-- The clearing form of CHKERR: CIR[3:0] and COUNT become 0 (05 R174). -/
def cirCleared (c : Fin 2) (t : State) : State :=
  if c = 1 then { t with core := { t.core with cir := setBits (setBits t.core.cir 0 4 0) 16 16 0 } } else t

theorem xresult_eq (l : Option Nat) (d : Fin 64) (v : Word) (s : State) :
    xresult l d v s = .next (s.result l (xWrite s d v) []) := rfl

/-- A y name stands for an x field by the mode alone (02 R62). -/
theorem xWrite_congr {s t : State} (h : s.core.mode = t.core.mode) (d : Fin 64) (v : Word) : xWrite s d v = xWrite t d v := by
  have hname : s.core.xname d = t.core.xname d := by unfold Core.xname; rw [h]
  unfold xWrite
  rw [hname]

theorem mode_of_cir (w : Word) (t : State) : ({ t with core := { t.core with cir := w } } : State).core.mode = t.core.mode := rfl

theorem cirCleared_mode (c : Fin 2) (t : State) : (cirCleared c t).core.mode = t.core.mode := by
  unfold cirCleared
  split
  · exact mode_of_cir _ t
  · rfl

theorem recordInput_mode (sub : Nat) (data : List Byte) (t : State) : (t.recordInput sub data).core.mode = t.core.mode := by
  unfold State.recordInput
  split <;> rfl

/-- Settles O21: each instruction's body on the state after its reads; the window of RDPW is bound, and RDTIME's input is live. -/
theorem coreReads : Obligations.CoreReads := by
  unfold Obligations.CoreReads
  intro g d a s
  refine ⟨?nop, ?chkerr, ?rdpw, ?rdtime⟩
  case nop => exact fun hpass => slotOp_passes hpass _
  case chkerr =>
    intro c hpass t cleared
    refine (slotOp_passes hpass fun t => xresult (some 2) d t.core.cir (cirCleared c t)).trans ?_
    rw [xresult_eq, xWrite_congr (cirCleared_mode c t)]
    rfl
  case rdpw =>
    intro sz k hpass t n off hbound
    rw [show exec (.rdpw g d a sz k) s = execRdpw g d a sz k s from rfl, execRdpw, slotOp_passes hpass]
    dsimp only
    rw [if_neg (by simpa using hbound)]
    rfl
  case rdtime =>
    intro hpass t hlive
    rw [show exec (.rdtime g d) s = execRdtime g d s from rfl, execRdtime, slotOp_passes hpass, withInput_live hlive, xresult_eq]
    congr 1
    rw [xWrite_congr (recordInput_mode _ _ t)]

end Sys2Proof.Proofs

/-! PROOF. The checks around a slot and the modes (02 R42 R52 R63 R67 R73 R76, 05 R177 R178). -/

namespace Sys2Proof.Proofs

open Sys2Proof.Machine Sys2Proof.Laws Sys2Proof.Safety

/-! Every instruction of a slot does its effect within `slotOp`. -/

/-- A step that is the checks of instruction `i` around some effect. -/
def Slotted (i : Instr) (s : State) (e : Ends) : Prop := ∃ body, e = slotOp i s body

theorem slotted_of_shape {i : Instr} {s : State} {e e' : Ends} {body : State → Ends} (h : e = e') (h' : e' = slotOp i s body) :
    Slotted i s e := ⟨body, h.trans h'⟩

theorem Slotted.of_eq {i : Instr} {s : State} {e e' : Ends} (h : e = e') (h' : Slotted i s e') : Slotted i s e := h ▸ h'

theorem atomic64_slotted {i : Instr} {d b : Fin 64} {disp : Fin 4096} {f : Word → Word → Word} {s : State} :
    Slotted i s (atomic64 i d b disp f s) := ⟨_, by unfold atomic64; rfl⟩

theorem int2_slotted {lat : Nat} {i : Instr} {d a b : VOp} {f : W32 → W32 → W32 × Flags} {s : State} :
    Slotted i s (int2 lat i d a b f s) := ⟨_, by unfold int2; rfl⟩

theorem f32op2_slotted {lat : Nat} {i : Instr} {d a b : VOp} {f : Nat → Bool → Nat → Nat → Nat × Flags} {s : State} :
    Slotted i s (f32op2 lat i d a b f s) := ⟨_, by unfold f32op2; rfl⟩

theorem f32fun_slotted {lat : Nat} {i : Instr} {d a : VOp} {f : Nat → FVal → Nat × Flags} {s : State} :
    Slotted i s (f32fun lat i d a f s) := ⟨_, by unfold f32fun; rfl⟩

/-- The meaning of every instruction that is no event is the checks of its slot around its own effect: each is written so, or in a
shape that is. -/
theorem exec_slotted {i : Instr} (h : isEvent i = false) (s : State) : Slotted i s (exec i s) := by
  cases i with
  | nop | bfi | sel | limm | limmPair | pcadd | mfs | mts | shw | btmovToBt | btmovFromBt | btset | agw | xpw | chkerr | segset
    | rdpw | rdtime | ecnt | rdwin | tlbinvPage | tlbinvAll | cinvWbinv | cinvInv | cinvWbpage | ctxsave | ctxload | pswap |
    quarantine | svc | hackset | dirtyclr | tree | br | bri | call | calli | ret | loopOp | yield | suspend | fork | exitOp |
    trapOp | waitMem | waitEng | idle | ldtag | sttag | ldv | stv | ldvs | stvs | ldg | stg | ldx | fenceOp | promote | prefetch
    | barinit | bararr | barwait | qpush | rsend | rrecv | ttdef | ttsetReady | ttstat | txbegin | txend | txabort | txstat |
    bscale | vsel | vred | vscan | viota | vmask | vpopc | vext | mmr | mwake => exact ⟨_, by unfold exec; rfl⟩
  | add | sub | mul | mulh | mulhn | andOp | orOp | xorOp | andn | sll | srl | sra | rol | minOp | maxOp | minn | maxn | bfx |
    cvtaCl => exact slotted_of_shape (by unfold exec; rfl : _ = alu2 ..) rfl
  | div | divn | rem | remn => exact slotted_of_shape (by unfold exec; rfl : _ = divide ..) rfl
  | absOp | clz | ctz | popc | sext | zext | addi | andi | ori | xori | slli | srli | srai | muli | lihi | lihiPair | cvtaOff |
    cvtaOwn => exact slotted_of_shape (by unfold exec; rfl : _ = alu1 ..) rfl
  | cmpeq | cmpne | cmplt | cmple | cmpltn | cmplen => exact slotted_of_shape (by unfold exec; rfl : _ = compare ..) rfl
  | cmpeqi | cmplti | cmpltni | tstbit | isap => exact slotted_of_shape (by unfold exec; rfl : _ = compareImm ..) rfl
  | pand | por | pxor | pandn => exact slotted_of_shape (by unfold exec; rfl : _ = plogic ..) rfl
  | rftResume | rftYield | rftSuspend | rftFault | rftHold =>
    exact slotted_of_shape (by unfold exec; rfl : _ = rft ..) rfl
  | ldB | ldH | ldW | ldD | ldnB | ldnH | ldnW => exact slotted_of_shape (by unfold exec; rfl : _ = loadScalar ..) rfl
  | stB | stH | stW | stD => exact slotted_of_shape (by unfold exec; rfl : _ = storeScalar ..) rfl
  | aadd | aand | aor | axor | amin | amax | aminn | amaxn | axchg => exact .of_eq (by unfold exec; rfl) atomic64_slotted
  | acas | afadd => exact slotted_of_shape (by unfold exec; rfl : _ = atomic ..) rfl
  | cflushWb | cflushInv | cflushMem => exact slotted_of_shape (by unfold exec; rfl : _ = cflush ..) rfl
  | qpop | qtry => exact slotted_of_shape (by unfold exec; rfl : _ = pop ..) rfl
  | ttsetEmpty | ttrel => exact slotted_of_shape (by unfold exec; rfl : _ = releaseTile ..) rfl
  | fadd | fsub | fmul | fmax | fmin => exact .of_eq (by unfold exec; rfl) f32op2_slotted
  | ffma | ffms | hfma | imad => exact slotted_of_shape (by unfold exec; rfl : _ = lanes3 ..) rfl
  | fabs | fneg | fexp2 | frint | iabs | cvt | vmov => exact slotted_of_shape (by unfold exec; rfl : _ = lanes1 ..) rfl
  | fcpys | fcmpeq | fcmplt | fcmple | fcmpun | hadd | hmul | hmax | qnt | dqnt =>
    exact slotted_of_shape (by unfold exec; rfl : _ = lanes2 ..) rfl
  | frcp | frsq | flog2 => exact .of_eq (by unfold exec; rfl) f32fun_slotted
  | iadd | isub | imul | imulh | imax | imin | imaxn | iminn | iand | ior | ixor | ishl | ishr | isra | icmpeq | icmplt |
    icmpltn => exact .of_eq (by unfold exec; rfl) int2_slotted
  | plpack | plunpk => exact slotted_of_shape (by unfold exec; rfl : _ = across ..) rfl
  | vbcast | vshuf | vrot => exact slotted_of_shape (by unfold exec; rfl : _ = permute ..) rfl
  | mzero | mgate | mdrowsy | minval => exact slotted_of_shape (by unfold exec; rfl : _ = manage ..) rfl
  | mgemm | mgemms | mconv | mattn | scout | swin | smask | sscore | ccopy | cgather | cscatter | cfill | ctrans | cplane |
    cflat | cpagein | cmigrate | ctags | vsort | vsoftmax | vnorm | vreduce | allred | allgath | redscat | xbcast | alltoall |
    xsend | xrecv | logflush | qfence | etrel | ecancel | esignal | esignalAdd | logmark =>
    exact ⟨_, exec_engineOp _ s (of_decide_eq_true rfl)⟩
  | _ => exact nomatch (show true = false from h)

/-! What the checks come to, branch by branch (02 R76). -/

theorem slotOp_reserved {i : Instr} {s : State} (hc : (s.core.closing && s.core.post == some i) = false)
    (hr : i.reservedOk = false) (body : State → Ends) : slotOp i s body = trapOut 4 Cause.bundleReserved 0 0 s := by
  unfold slotOp
  rw [if_neg (by simp [hc]), if_pos (by simp [hr])]

theorem slotOp_form {i : Instr} {s : State} (hc : (s.core.closing && s.core.post == some i) = false)
    (hr : i.reservedOk = true) (hf : (i.formOk && modeFormOk i s) = false) (body : State → Ends) :
    slotOp i s body = trapOut 4 Cause.opcodeUndef 0 0 s := by
  unfold slotOp
  rw [if_neg (by simp [hc]), if_neg (by simp [hr]), if_pos (by rw [← Bool.not_and, hf]; rfl)]

/-- What a slot that its encoding, form and guard allow has passed. -/
theorem guarded_iff {i : Instr} {s : State} : guarded i s = true ↔
    (s.core.closing && s.core.post == some i) = false ∧ i.reservedOk = true ∧ i.formOk = true ∧ modeFormOk i s = true ∧
      ((s.guardReads (guardOf i)).any fun r => !s.core.valid r) = false ∧ s.guardTrue (guardOf i) = true := by
  simp only [guarded, Bool.and_eq_true, Bool.not_eq_true', and_assoc]

/-- A slot of a mode below the one its instruction needs traps PRIV, or aborts the transaction that does not support it. -/
theorem slotOp_priv {i : Instr} {s : State} (h : guarded i s = true) (hm : s.core.mode.code < minMode i) (body : State → Ends) :
    slotOp i s body = if s.core.tx.isSome && txUnsupported i then .next (s.txDue 4 0 0) else trapOut 6 Cause.priv 0 0 s := by
  obtain ⟨hc, hr, hf, hmf, hg, ht⟩ := guarded_iff.mp h
  unfold slotOp
  rw [if_neg (by simp [hc]), if_neg (by simp [hr]), if_neg (by simp [hf, hmf]), if_neg (by simp [hg]), if_neg (by simp [ht]),
    if_pos hm]

theorem slotOp_pending {i : Instr} {s : State} (h : guarded i s = true) (hm : minMode i ≤ s.core.mode.code)
    (hx : s.core.tx = none) (hp : s.core.pendingOn (s.core.reads i ++ s.core.writes i) = true) (body : State → Ends) :
    slotOp i s body = stallOut s := by
  obtain ⟨hc, hr, hf, hmf, hg, ht⟩ := guarded_iff.mp h
  unfold slotOp
  rw [if_neg (by simp [hc]), if_neg (by simp [hr]), if_neg (by simp [hf, hmf]), if_neg (by simp [hg]), if_neg (by simp [ht]),
    if_neg (by simp [hx]), if_neg (Nat.not_lt.mpr hm), if_pos hp]

theorem slotOp_badRead {i : Instr} {s : State} {c : BitVec 8} (h : guarded i s = true) (hm : minMode i ≤ s.core.mode.code)
    (hx : s.core.tx = none) (hp : s.core.pendingOn (s.core.reads i ++ s.core.writes i) = false) (hb : badRead s i = some c)
    (body : State → Ends) : slotOp i s body = trapOut 10 c 0 0 s := by
  obtain ⟨hc, hr, hf, hmf, hg, ht⟩ := guarded_iff.mp h
  unfold slotOp
  rw [if_neg (by simp [hc]), if_neg (by simp [hr]), if_neg (by simp [hf, hmf]), if_neg (by simp [hg]), if_neg (by simp [ht]),
    if_neg (by simp [hx]), if_neg (Nat.not_lt.mpr hm), if_neg (by simp [hp]), hb]

/-! What a guard means (02 R52). -/

theorem guardTrue_predicate {s : State} (ht : s.core.iss.tree = false) (g : Fin 8) :
    s.guardTrue g = true ↔ g = 0 ∨ s.core.r.p.getLsbD g.val = true := by
  by_cases hg : g = 0
  · simp [State.guardTrue, hg]
  · have hn : (Fin.ofNat 16 g.val).val = g.val := Nat.mod_eq_of_lt (by omega)
    have h0 : Fin.ofNat 16 g.val ≠ 0 := fun e => hg (Fin.ext (by rw [← hn, e]; rfl))
    rw [State.guardTrue, if_neg hg, if_neg (by simp [ht]), State.p, decide_eq_false h0, hn, Bool.false_or]
    simp [hg]

/-- The leaves that a guard of a tree names: none but its own below 6, two of them for 6 and three for 7. -/
theorem guardTrue_leaf {s : State} (ht : s.core.iss.tree = true) (g : Fin 8) :
    s.guardTrue g = true ↔ g = 0 ∨ (g.val ≤ 5 ∧ s.core.iss.taken = g) ∨ (g = 6 ∧ s.core.iss.taken ∈ [1, 2]) ∨
      (g = 7 ∧ s.core.iss.taken ∈ [3, 4, 5]) := by
  simp only [State.guardTrue, ht, if_true]
  generalize s.core.iss.taken = k
  revert g k
  decide

/-- Settles O50: the branches of `slotOp` that come before an instruction's own effect. -/
theorem slotChecks : Obligations.SlotChecks := by
  unfold Obligations.SlotChecks
  intro i s hev hc
  obtain ⟨body, hbody⟩ := exec_slotted hev s
  rw [hbody]
  refine ⟨fun hr => slotOp_reserved hc hr body, fun hr hf => slotOp_form hc hr hf body, ?falseGuard, ?registers,
    fun g ht => guardTrue_predicate ht g, fun g ht => guardTrue_leaf ht g⟩
  case falseGuard =>
    intro hwf hm hvalid ht
    obtain ⟨hf, hr⟩ : i.formOk = true ∧ i.reservedOk = true := by simpa [Instr.wf, and_comm] using hwf
    exact slotOp_guard_false hc hr (by simp [hf, hm]) (by simpa using hvalid) ht body
  case registers =>
    intro hg hm hx
    exact ⟨fun hp => slotOp_pending hg hm hx hp body, fun c hp hb => slotOp_badRead hg hm hx hp hb body⟩

/-! What a lower mode may not execute (02 R67, 05 R177 R178, 14 R423 R434). -/

/-- An A-slot opcode of 0x50 to 0x58 needs at least supervisor mode, but for SVC. -/
theorem minMode_supervisorOpcode {i : Instr} {w : Nat} (he : encode i = some (.a w)) (hlo : 0x50 ≤ w / 4194304 % 128)
    (hhi : w / 4194304 % 128 ≤ 0x58) (hsvc : ∀ n, i ≠ .svc (guardOf i) n) : 1 ≤ minMode i := by
  cases i with
  | tlbinvPage | tlbinvAll | cinvWbinv | cinvInv | cinvWbpage | ctxsave | ctxload | hackset | dirtyclr | pswap | quarantine =>
    simp [minMode]
  | svc g n => exact absurd rfl (hsvc n)
  | nop =>
    cases he
    exact absurd hlo (by decide)
  | add | sub | mul | mulh | mulhn | div | divn | rem | remn | andOp | orOp | xorOp | andn | sll | srl | sra | rol | minOp |
    maxOp | minn | maxn | absOp | clz | ctz | popc | bfx | bfi | sel | sext | zext | addi | andi | ori | xori | slli | srli |
    srai | muli | limm | lihi | pcadd | cmpeq | cmpne | cmplt | cmple | cmpltn | cmplen | cmpeqi | cmplti | cmpltni | pand | por
    | pxor | pandn | tstbit | mfs | mts | shw | agw | xpw | btmovToBt | btmovFromBt | btset | chkerr | cvtaOff | cvtaOwn |
    cvtaCl | isap | rdtime | rdwin | rdpw | ecnt =>
    cases he
    simp (disch := omega) only [packA_op] at hlo hhi
    omega
  | _ => cases he

/-- An instruction with a syllable is no event. -/
theorem isEvent_of_encode {i : Instr} {w : Syllable} (he : encode i = some w) : isEvent i = false := by simp [isEvent, he]

/-- A guarded slot of a mode below the one its instruction needs traps PRIV, or aborts the transaction that does not support it. -/
theorem exec_priv {i : Instr} {s : State} (hev : isEvent i = false) (hg : guarded i s = true) (hm : s.core.mode.code < minMode i) :
    exec i s = if s.core.tx.isSome && txUnsupported i then .next (s.txDue 4 0 0) else trapOut 6 Cause.priv 0 0 s := by
  obtain ⟨body, hbody⟩ := exec_slotted hev s
  rw [hbody, slotOp_priv hg hm]

theorem minMode_mts {g : Fin 8} {a : Fin 64} {n : Fin 1024} (hn : 0x300 ≤ n.val) : 1 ≤ minMode (.mts g a n) := by
  simp only [minMode]
  split <;> omega

/-- The service registers need service mode (14 R434). -/
theorem minMode_service_mts {g : Fin 8} {a : Fin 64} {n : Fin 1024} (hn : 0x380 ≤ n.val) : minMode (.mts g a n) = 2 := by
  simp [minMode, hn]

theorem minMode_service_mfs {g : Fin 8} {d : Fin 64} {n : Fin 1024} (hn : 0x380 ≤ n.val) : minMode (.mfs g d n) = 2 := by
  simp [minMode, hn]

/-- Below service mode no instruction of service mode executes. -/
theorem code_lt_service {m : Mode} (h : m ≠ .service) : m.code < 2 := by
  cases m with
  | strand | supervisor => decide
  | service => exact absurd rfl h

/-- SVC names no register and needs no mode, so that nothing after its guard stops it. -/
theorem slotPasses_svc {g : Fin 8} {n : Fin 1024} {s : State} (hg : guarded (.svc g n) s = true) (hx : s.core.tx = none) :
    slotPasses (.svc g n) s = true := by
  have hr : s.core.reads (.svc g n) = [] := rfl
  have hw : s.core.writes (.svc g n) = [] := rfl
  have hp : s.core.pendingOn [] = false := by simp [Core.pendingOn]
  have hb : badRead s (.svc g n) = none := by simp [badRead, hr]
  have ho : badPort s (.svc g n) = false := rfl
  have hk : wakes s.core (.svc g n) = [] := by simp [wakes, hr, hw]
  simp [slotPasses, hg, minMode, hx, hr, hw, hp, hb, ho, hk]

/-- Settles O51: each form needs a mode above the present one, and SVC needs none. -/
theorem privileges : Obligations.Privileges := by
  unfold Obligations.Privileges
  intro i s g hg traps
  refine ⟨fun hmode => ⟨?opcode, ?mts, ?mfs, ?rft⟩, fun hmode => ⟨?pswap, ?mtsService, ?mfsService⟩, ?svc⟩
  case opcode =>
    intro w he hlo hhi hsvc hguard
    subst hguard
    exact exec_priv (isEvent_of_encode he) hg (by rw [hmode]; exact minMode_supervisorOpcode he hlo hhi hsvc)
  case mts =>
    rintro a n rfl hn
    exact exec_priv rfl hg (by rw [hmode]; exact minMode_mts hn)
  case mfs =>
    rintro d n rfl hn
    exact exec_priv rfl hg (by simp [hmode, Mode.code, minMode_service_mfs hn])
  case rft =>
    intro hi
    simp only [List.mem_cons, List.not_mem_nil, or_false] at hi
    rcases hi with rfl | rfl | rfl | rfl | rfl <;> exact exec_priv rfl hg (by simp [hmode, Mode.code, minMode])
  case pswap =>
    rintro a b (rfl | rfl | rfl) <;> exact exec_priv rfl hg (code_lt_service hmode)
  case mtsService =>
    rintro a n rfl hn
    exact exec_priv rfl hg (minMode_service_mts hn ▸ code_lt_service hmode)
  case mfsService =>
    rintro d n rfl hn
    exact exec_priv rfl hg (minMode_service_mfs hn ▸ code_lt_service hmode)
  case svc =>
    rintro n rfl hx
    exact slotPasses_svc hg hx

end Sys2Proof.Proofs

/-! PROOF. The events of the issue (02 R44 R73 R75, 04 R134, 05 R158 R182 R187, 14 R423). -/

namespace Sys2Proof.Proofs

open Sys2Proof.Machine Sys2Proof.Laws Sys2Proof.Safety

/-- A bundle that would pass a limit of the window has its quiescent point taken before it. -/
theorem forcedQuiescentPoint_due {s t : State} {b : Sound} (ho : openNext s = some (b, t)) (hd : forcedDue t b = true) :
    exec .forcedQuiescentPoint s = .next (pointBefore true s) := by
  show execForcedQuiescentPoint s = _
  unfold execForcedQuiescentPoint
  rw [ho]
  exact congrArg _ (if_pos hd)

/-- A loop-end bundle whose loops step back goes to the loop's start. -/
theorem loopEndStep_back {s u : State} {t : Word} (ha : s.core.iss.active = true) (hn : s.core.iss.target = none)
    (hs : stepLoops s.core.iss.pc (activeLoops s.core.r.sr.lact) s = (some t, u)) :
    exec .loopEndStep s = .next (u.modR fun r => { r with pc := t }) := by
  show execLoopEndStep s = _
  unfold execLoopEndStep
  rw [if_neg (by simp [ha, hn]), hs]

theorem modCoreAt_self (s : State) (f : Core → Core) : s.modCoreAt s.core.id f = { s with core := f s.core } := by
  simp [State.modCoreAt, State.setCoreAt]

/-- TIMER is an event that pends at most once, at a core whose turn it is as anywhere. -/
theorem timerAt_strand {s : State} (h : isFirmware s.core.id = false) : timerAt s.core.id s = s.pendEvent Cause.timer 0 := by
  have hsingle : singleEvent Cause.timer = true := by decide
  rw [timerAt, if_neg (by simp [h]), modCoreAt_self, State.pendEvent, hsingle, Bool.true_and]
  split <;> rfl

theorem timer_due {s : State} (h : timerDue s.core s.clock = true) : exec .timer s = .next (timerAt s.core.id s) :=
  congrArg _ (if_pos h)

/-- A blocking wait that has stalled for 256 clocks is converted once no engine has to stop first. -/
theorem waitConversion_due {s : State} {w : Word × W32} (hc : 256 ≤ s.core.waitClocks) (hr : s.core.record.isEmpty = false)
    (hw : pendingWait s = some w) (he : enginesAtStop s = true) : exec .waitConversion s = .next (convertWait w s) := by
  show execWaitConversion s = _
  unfold execWaitConversion
  rw [if_neg (by simp [hr, Nat.not_lt.mpr hc]), hw]
  exact congrArg _ (if_pos he)

/-- Settles O26: each event is the branch of its meaning that its condition selects. -/
theorem issueEvents : Obligations.IssueEvents := by
  unfold Obligations.IssueEvents
  intro s
  refine ⟨rfl, fun _ => rfl, ?close, fun b t => forcedQuiescentPoint_due, fun t u => loopEndStep_back, ?watchdog, ?timer,
    fun w => waitConversion_due, ?satisfied⟩
  case close =>
    intro hc hp
    exact congrArg _ (if_pos (by simp [hc, hp]))
  case watchdog =>
    intro h
    exact congrArg _ (if_pos h)
  case timer =>
    intro h
    rw [timer_due h]
    exact ⟨fun hf => congrArg _ (if_pos hf), fun hf => congrArg _ (timerAt_strand hf)⟩
  case satisfied =>
    intro hc hw
    exact congrArg _ (if_pos (by simp [hc, hw]))

end Sys2Proof.Proofs

/-! PROOF. What a step runs, and the state at reset (02 R39 R43 R44 R51 R61 R63 R76, 05 R156, 14 R423). -/

namespace Sys2Proof.Proofs

open Sys2Proof.Machine Sys2Proof.Laws Sys2Proof.Safety

/-! Turns. -/

theorem step_of_ownTurn {s : State} (ha : s.agenda = []) (hw : waiting s = false) : step s = endTurn s [] (issueCore s) := by
  unfold step takeTurn
  rw [ha]
  exact congrArg (endTurn s []) (if_pos (by simp [hw]))

theorem step_of_issueTurn {s : State} {c : Nat} {r : List Turn} (ha : s.agenda = .issue c :: r) (hc : isSite c = true) :
    step s = endTurn s r (issueCore (({ s with agenda := r } : State).focus c)) := by
  unfold step takeTurn
  rw [ha]
  exact if_pos hc

theorem step_of_eventTurn {s : State} {c : Nat} {i : Instr} {r : List Turn} (ha : s.agenda = .event c i :: r)
    (hc : isSite c = true) (hi : isEvent i = true) : step s = endTurn s r (exec i (({ s with agenda := r } : State).focus c)) := by
  unfold step takeTurn
  rw [ha]
  exact (if_neg (by simp [hc])).trans (if_pos hi)

/-! The issue of a bundle, once nothing comes before it. -/

theorem issueCore_bundle {s : State} (hr : s.core.run = .strand) (hh : heldUp s = false) (hf : s.core.fault = none)
    (hp : replayOver s = false) (hc : s.core.closing = false) (hs : stopWaits s = false) (hd : deliverable s = false)
    (ht : s.txDueNow = none) : issueCore s = issueBundle s := by
  simp [issueCore, hr, hh, hf, hp, hc, hs, hd, ht]

theorem issueSound_complete {s : State} {b : Sound} (hi : interlockWait s b = false) (hl : logStalls s b = false)
    (ht : firstTrap s b = none) (hs : firstStop s b = none) : issueSound s b = complete (countFetch s) b (isSerial s b) := by
  simp [issueSound, hi, hl, ht, hs]

theorem issueBundle_sound {s t : State} {bs : List Byte} {b : Sound}
    (hf : fetch (beginIssue (s.core.wake.foldl (fun s k => wakeUp k.1 s) s)) = .bytes bs t) (hc : checkBundle t bs = .ok b)
    (hq : forcedDue (openBundle b bs (landUpTo t.core.beat t)) b = false)
    (hb : (isSerial (openBundle b bs (landUpTo t.core.beat t)) b && !atBoundary (openBundle b bs (landUpTo t.core.beat t))) = false) :
    issueBundle s = endIssue (issueSound (openBundle b bs (landUpTo t.core.beat t)) b) := by
  simp only [issueBundle, hf, hc, hq, hb]
  rfl

theorem complete_acts {s m : State} {b : Sound} {serial : Bool} (ha : actAll (inOrder s b).1 s = .next m) :
    complete s b serial = match (inOrder s b).2 with
      | some x => exec x.2 (atSlot x.1 (noteWrites ((live s b).flatMap fun x => s.core.writes x.2) m))
      | none =>
        let e := bundleEnd (noteWrites ((live s b).flatMap fun x => s.core.writes x.2) m)
        .next (pointAfter s b serial e.2 e.1) := by
  simp only [complete, ha] <;> rfl

/-! The bundle's bytes and instructions (02 R39 R42 R43). -/

/-- The bytes of a bundle are the 32 at its address, in the state that the translation leaves. -/
theorem fetch_bytes {s t : State} {bs : List Byte} (h : fetch s = .bytes bs t) :
    s.core.r.pc.toNat % 32 = 0 ∧ ∃ l z, locate (strandAgent s 0) .fetch false s.core.r.pc s = .ok l z ∧ bs = z.peek l.key 32 ∧
      t = { z with core := { z.core with iss := { z.core.iss with far := l.far } } } := by
  unfold fetch at h
  by_cases ha : s.core.r.pc.toNat % 32 = 0
  · simp only [ha, ne_eq, not_true, if_false] at h
    refine ⟨ha, ?_⟩
    split at h
    · cases h
    · cases hl : locate (strandAgent s 0) .fetch false s.core.r.pc s with
      | ok l z =>
        simp only [hl] at h
        split at h
        · cases h
        · cases h
          exact ⟨l, z, rfl, rfl, rfl⟩
      | trap | fault | wait => simp [hl] at h
  · simp [ha] at h

/-- A slot without an encoding fault holds an instruction. -/
theorem slot_ok_of_noFault {s : State} {x : Fin 8 × Except DecodeError Instr} (h : encodingFault s x = none) :
    ∃ i, x.2 = .ok i := by
  cases hx : x.2 with
  | ok i => exact ⟨i, rfl⟩
  | error e => simp [encodingFault, hx] at h

/-- The instruction of a slot, where it holds one. -/
def slotInstr (x : Fin 8 × Except DecodeError Instr) : Option (Fin 8 × Instr) :=
  match x.2 with
  | .ok i => some (x.1, i)
  | .error _ => none

/-- Slots that all hold instructions are those instructions. -/
theorem map_slotInstr {l : List (Fin 8 × Except DecodeError Instr)} (h : ∀ x ∈ l, ∃ i, x.2 = .ok i) :
    ((l.filterMap slotInstr).map fun x => (x.1, Except.ok (ε := DecodeError) x.2)) = l := by
  induction l with
  | nil => rfl
  | cons x xs ih =>
    obtain ⟨i, hi⟩ := h x List.mem_cons_self
    have hx : slotInstr x = some (x.1, i) := by simp [slotInstr, hi]
    rw [List.filterMap_cons_some hx, List.map_cons, ih fun y hy => h y (List.mem_cons_of_mem x hy), ← hi]

/-- A bundle whose encoding is sound is what the decoder gives for its bytes. -/
theorem checkBundle_ok {s : State} {bs : List Byte} {b : Sound} (h : checkBundle s bs = .ok b) :
    ∃ d, decodeBundle (ofBytes bs) = .ok d ∧ b.header = d.header ∧
      b.slots.map (fun x => (x.1, Except.ok (ε := DecodeError) x.2)) = d.slots := by
  unfold checkBundle at h
  cases hd : decodeBundle (ofBytes bs) with
  | error e => simp [hd] at h
  | ok d =>
    simp only [hd] at h
    split at h
    · cases h
    split at h
    · cases h
    split at h
    · cases h
    split at h
    · cases h
    · cases h
    case h_3 hnone =>
      cases h
      have hfault : ∀ x ∈ d.slots, encodingFault s x = none := by simpa using hnone
      exact ⟨d, rfl, rfl, map_slotInstr fun x hx => slot_ok_of_noFault (hfault x hx)⟩

/-- Settles O47: the turn issues, nothing comes before the bundle, and the bundle completes slot by slot; an event's turn is its own
meaning. -/
theorem stepRuns : Obligations.StepRuns := by
  unfold Obligations.StepRuns
  intro s v w t n bs b r hturn hrun hheld hfault hreplay hclosing hstop hdeliver htx hw hfetch hcheck o hforced hserial hwait
    hlog htrap hstopped hn ends ws
  have hstep : step s = ends (complete n b (isSerial o b)) := by
    have hissue : issueCore v = endIssue (complete n b (isSerial o b)) := by
      subst hw hn
      rw [issueCore_bundle hrun hheld hfault hreplay hclosing hstop hdeliver htx, issueBundle_sound hfetch hcheck hforced hserial,
        issueSound_complete hwait hlog htrap hstopped]
    rcases hturn with ⟨ha, rfl, rfl, hwaiting⟩ | ⟨c, ha, hc, rfl⟩
    · rw [step_of_ownTurn ha hwaiting, hissue]
    · rw [step_of_issueTurn ha hc, hissue]
  refine ⟨?fetched, checkBundle_ok hcheck, ?acts, fun _ _ _ => rfl, fun z c i q ha hc hi => step_of_eventTurn ha hc hi⟩
  case fetched =>
    obtain ⟨hpc, l, z, hl, hbytes, ht⟩ := fetch_bytes hfetch
    exact ⟨l, hpc, z, hl, hbytes, ht⟩
  case acts =>
    intro m hm
    rw [hstep, complete_acts hm]
    exact ⟨fun hpost => by rw [hpost], fun x hpost => by rw [hpost]⟩

/-! Reset (02 R61 R63, 07 R222, 12 R354, 14 R423 R434). -/

/-- Settles O49: the reset state is evaluated, its matrix registers and dies one by one. -/
theorem resetState : Obligations.ResetState := by
  unfold Obligations.ResetState
  refine ⟨?agenda, rfl, rfl, rfl, rfl, rfl, rfl, rfl, rfl, rfl, rfl, rfl, rfl, rfl, rfl, rfl, rfl, rfl, rfl, ?matrix, rfl, ?dies⟩
  case agenda => exact fun _ h => absurd h List.not_mem_nil
  case matrix => decide
  case dies => decide

end Sys2Proof.Proofs

/-! PROOF. What an instruction that only computes registers leaves unchanged (02 R44 R47 R72, 03 R108). -/

namespace Sys2Proof.Proofs

open Sys2Proof.Machine Sys2Proof.Laws Sys2Proof.Safety

/-- BYPASS_STALE touches nothing but the events that wait for the slot's result. -/
theorem staleReads_eq (s : State) (i : Instr) :
    ∃ es, staleReads s i = { s with core := { s.core with iss := { s.core.iss with stale := es } } } := by
  unfold staleReads
  generalize s.core.reads i = rs
  induction rs generalizing s with
  | nil => exact ⟨s.core.iss.stale, rfl⟩
  | cons r rs ih =>
    rw [List.foldl_cons]
    cases r with
    | y k =>
      by_cases hk : s.core.yLive k = true
      · simpa only [hk, if_true] using ih s
      · simp only [hk]
        exact ih (s.event Ev.bypassStale)
    | _ => exact ih s

/-- A step that adds one result to the landing buffer, for a destination that the instruction names. -/
def Delivers (i : Instr) (s : State) (e : Ends) : Prop :=
  ∃ l w es, e = .next (s.result l w es) ∧ ∀ d ∈ w.dest, d ∈ s.core.writes i

theorem Delivers.of_eq {i : Instr} {s : State} {e e' : Ends} (h : e = e') (h' : Delivers i s e') : Delivers i s e := h ▸ h'

theorem Delivers.ite {i : Instr} {s : State} {c : Prop} [Decidable c] {e e' : Ends} (h : c → Delivers i s e)
    (h' : ¬c → Delivers i s e') : Delivers i s (if c then e else e') := by
  by_cases hc : c
  · rw [if_pos hc]
    exact h hc
  · rw [if_neg hc]
    exact h' hc

/-- A slot that passes its checks delivers what its effect delivers after its reads. -/
theorem slot_delivers {i : Instr} {s : State} {e : Ends} {body : State → Ends} (hpass : slotPasses i s = true)
    (he : e = slotOp i s body) (h : Delivers i (staleReads s i) (body (staleReads s i))) : Delivers i (staleReads s i) e := by
  rw [he, slotOp_passes hpass]
  exact h

theorem guarded_of_slotPasses {i : Instr} {s : State} (h : slotPasses i s = true) : guarded i s = true := by
  simp only [slotPasses, Bool.and_eq_true, and_assoc] at h
  exact h.1

/-! Scalar results. -/

/-- An x field names its own register or, in bypass mode, a y name. -/
theorem xname_cases (c : Core) (d : Fin 64) : c.xname d = .x d ∨ ∃ k, c.xname d = .y k := by
  unfold Core.xname
  split
  · exact .inr ⟨_, rfl⟩
  · exact .inl rfl

/-- The destination of a scalar write is the name that its field stands for. -/
theorem xWrite_dest (s : State) (d : Fin 64) (v : Word) : (xWrite s d v).dest = [s.core.xname d] := by
  rcases xname_cases s.core d with h | ⟨k, h⟩ <;> simp [xWrite, h, Write.dest]

/-- The field of an interlocked result is no y name (02 R64). -/
theorem xname_of_interlocked {i : Instr} {s : State} {d : Fin 64} (hm : modeFormOk i s = true) (hi : interlocked i = true)
    (hd : d ∈ xWrites i) : s.core.xname d = .x d := by
  rcases xname_cases s.core d with h | ⟨k, h⟩
  · exact h
  · unfold modeFormOk at hm
    split at hm
    · cases hi
    · cases hi
    · simp only [Bool.and_eq_true, Bool.not_eq_true', hi, Bool.true_and, List.any_eq_false] at hm
      exact absurd (by rw [h]) (hm.2 d hd)

theorem xresult_delivers {i : Instr} {s : State} {l : Option Nat} {d : Fin 64} {v : Word} (hd : d ∈ xWrites i) :
    Delivers i s (xresult l d v s) := by
  refine ⟨l, xWrite s d v, [], xresult_eq l d v s, ?_⟩
  intro r hr
  rw [xWrite_dest, List.mem_singleton] at hr
  rw [hr]
  exact List.mem_append_left _ (List.mem_map_of_mem hd)

theorem write_delivers {i : Instr} {s : State} {l : Option Nat} {w : Write} {es : List LogEvent}
    (hw : ∀ r ∈ w.dest, r ∈ otherWrites s.core i) : Delivers i s (.next (s.result l w es)) :=
  ⟨l, w, es, rfl, fun r hr => List.mem_append_right _ (hw r hr)⟩

section
variable {i : Instr} {s : State}

theorem alu2_delivers {lat d a b f} (hpass : slotPasses i s = true) (hd : d ∈ xWrites i) :
    Delivers i (staleReads s i) (alu2 lat i d a b f s) := slot_delivers hpass rfl (xresult_delivers hd)

theorem alu1_delivers {lat d a f} (hpass : slotPasses i s = true) (hd : d ∈ xWrites i) :
    Delivers i (staleReads s i) (alu1 lat i d a f s) := slot_delivers hpass rfl (xresult_delivers hd)

end

/-- DIV, DIVN, REM and REMN deliver an interlocked result to an x register, which in bypass mode is no y name (02 R64). -/
theorem divide_delivers {i : Instr} {s : State} {d a b f} (hpass : slotPasses i s = true) (hd : d ∈ xWrites i)
    (hi : interlocked i = true) : Delivers i (staleReads s i) (divide i d a b f s) := by
  refine slot_delivers hpass rfl ⟨_, _, _, rfl, fun r hr => ?_⟩
  obtain ⟨es, hes⟩ := staleReads_eq s i
  obtain ⟨_, _, _, hm, _, _⟩ := guarded_iff.mp (guarded_of_slotPasses hpass)
  rw [List.mem_singleton.mp hr, hes, ← xname_of_interlocked hm hi hd]
  exact List.mem_append_left _ (List.mem_map_of_mem hd)

theorem scalar_delivers {i : Instr} {s : State} (hpass : slotPasses i s = true) (h : (scalarResult i s).isSome = true) :
    Delivers i (staleReads s i) (exec i s) := by
  cases i with
  | add | sub | mul | mulh | mulhn | andOp | orOp | xorOp | andn | sll | srl | sra | rol | minOp | maxOp | minn | maxn | bfx |
    cvtaCl => exact .of_eq (by unfold exec; rfl) (alu2_delivers hpass (List.mem_singleton_self _))
  | absOp | clz | ctz | popc | sext | zext | addi | andi | ori | xori | slli | srli | srai | muli | lihi | lihiPair | cvtaOff |
    cvtaOwn => exact .of_eq (by unfold exec; rfl) (alu1_delivers hpass (List.mem_singleton_self _))
  | div | divn | rem | remn => exact .of_eq (by unfold exec; rfl) (divide_delivers hpass (List.mem_singleton_self _) rfl)
  | bfi | sel | limm | limmPair | pcadd | mfs | btmovFromBt | ecnt | rdwin | txstat =>
    exact slot_delivers hpass (by unfold exec; rfl) (by exact xresult_delivers (List.mem_singleton_self _))
  | _ => cases h

/-! Predicates and the other registers of the A slot. -/

theorem presult_delivers {i : Instr} {s : State} {d : Fin 16} {v : Bool} (hd : Reg.p d ∈ otherWrites s.core i) :
    Delivers i s (presult d v s) :=
  write_delivers fun _ hr => List.mem_singleton.mp hr ▸ hd

theorem pred_delivers {i : Instr} {s : State} (hpass : slotPasses i s = true) (h : (predResult i s).isSome = true) :
    Delivers i (staleReads s i) (exec i s) := by
  cases i with
  | cmpeq | cmpne | cmplt | cmple | cmpltn | cmplen =>
    exact .of_eq (by unfold exec; rfl : _ = compare ..)
      (slot_delivers hpass rfl (by exact presult_delivers (List.mem_singleton_self _)))
  | cmpeqi | cmplti | cmpltni | tstbit | isap =>
    exact .of_eq (by unfold exec; rfl : _ = compareImm ..)
      (slot_delivers hpass rfl (by exact presult_delivers (List.mem_singleton_self _)))
  | pand | por | pxor | pandn =>
    exact .of_eq (by unfold exec; rfl : _ = plogic ..)
      (slot_delivers hpass rfl (by exact presult_delivers (List.mem_singleton_self _)))
  | _ => cases h

/-- The descriptors of ports and patterns are none of the loop counters. -/
theorem state_dest {n v} (hn : 0x14 ≤ n) : (Write.state n v).dest = [.state n] := if_neg (by omega)

theorem write_slot_delivers {i : Instr} {s : State} (hpass : slotPasses i s = true) (h : (writeResult i s).isSome = true) :
    Delivers i (staleReads s i) (exec i s) := by
  cases i with
  | mts | shw | btmovToBt | btset =>
    exact slot_delivers hpass (by unfold exec; rfl) (by exact write_delivers fun _ hr => hr)
  | agw | xpw =>
    refine slot_delivers hpass (by unfold exec; rfl) ?_
    refine write_delivers fun r hr => ?_
    rw [state_dest] at hr
    · exact hr
    · omega
  | segset => exact slot_delivers hpass (by unfold exec; rfl) (by exact write_delivers fun _ hr => nomatch hr)
  | mzero | mgate | mdrowsy | minval =>
    exact .of_eq (by unfold exec; rfl : _ = manage ..) (slot_delivers hpass rfl (by exact write_delivers fun _ hr => hr))
  | _ => cases h

/-! Vector results (07 R217 to R221 R226). -/

/-- A vector instruction that delivers to a line or a lane mask from sources that are no ports. -/
structure Lanes (i : Instr) (d : VOp) (src : List VOp) : Prop where
  dest : d.within [.L, .M] = true
  srcs : ∀ o ∈ src, o.within [.P] = false
  writes : ∀ c : Core, c.writes i = vopWrites c.xname d

/-- The operands of an instruction without a port. -/
theorem portless_iff {i : Instr} {d : VOp} {src : List VOp} {rd : Bool} (hv : vslot i = some (d, src, rd)) :
    portless i = true ↔ d.within [.P] = false ∧ ∀ o ∈ src, o.within [.P] = false := by
  simp [portless, hv]

/-- A source that is no port is read without a change of state. -/
theorem vsource_delivers {i : Instr} {s : State} {ty : VType} {o : VOp} {f : List W32 × List LogEvent → State → Ends}
    (ho : o.within [.P] = false) (h : ∀ v, Delivers i s (f v s)) : Delivers i s ((vsource ty o s).out .read f) := by
  cases o with
  | port k => cases ho
  | _ => exact h _

theorem vresult_delivers {i : Instr} {s : State} {lat d act vs es} (hd : d.within [.L, .M] = true)
    (hw : s.core.writes i = vopWrites s.core.xname d) : Delivers i s (vresult lat d act vs es s) := by
  cases d with
  | line | mask => exact ⟨_, _, _, rfl, fun r hr => hw ▸ hr⟩
  | _ => cases hd

theorem dresult_delivers {i : Instr} {s : State} {lat d v es} (hd : d.within [.D] = true)
    (hw : s.core.writes i = vopWrites s.core.xname d) : Delivers i s (dresult lat d v es s) := by
  cases d with
  | xdest r =>
    refine ⟨some lat, xWrite s r v, firstConditions es, rfl, fun x hx => ?_⟩
    rw [xWrite_dest] at hx
    exact hw ▸ hx
  | _ => cases hd

theorem maskResult_delivers {i : Instr} {s : State} {lat d v} (hd : d.within [.M] = true)
    (hw : s.core.writes i = vopWrites s.core.xname d) : Delivers i s (maskResult lat d v s) := by
  cases d with
  | mask => exact ⟨_, _, _, rfl, fun r hr => hw ▸ hr⟩
  | _ => cases hd

section
variable {i : Instr} {s : State} {lat : Nat} {d a b : VOp}

theorem lanes1_delivers {ty f} (hpass : slotPasses i s = true) (h : Lanes i d [a]) :
    Delivers i (staleReads s i) (lanes1 lat i ty d a f s) := by
  obtain ⟨hd, hs, hw⟩ := h
  exact slot_delivers hpass rfl (vsource_delivers (hs a (by simp)) fun va => vresult_delivers hd (hw _))

theorem lanes2_delivers {ty f} (hpass : slotPasses i s = true) (h : Lanes i d [a, b]) :
    Delivers i (staleReads s i) (lanes2 lat i ty d a b f s) := by
  obtain ⟨hd, hs, hw⟩ := h
  exact slot_delivers hpass rfl
    (vsource_delivers (hs a (by simp)) fun va => vsource_delivers (hs b (by simp)) fun vb => vresult_delivers hd (hw _))

theorem lanes3_delivers {ty f} (hpass : slotPasses i s = true) (h : Lanes i d [a, b]) :
    Delivers i (staleReads s i) (lanes3 lat i ty d a b f s) := by
  obtain ⟨hd, hs, hw⟩ := h
  exact slot_delivers hpass rfl
    (vsource_delivers (hs a (by simp)) fun va => vsource_delivers (hs b (by simp)) fun vb => vresult_delivers hd (hw _))

theorem across_delivers {f} (hpass : slotPasses i s = true) (h : Lanes i d [a]) :
    Delivers i (staleReads s i) (across lat i d a f s) := by
  obtain ⟨hd, hs, hw⟩ := h
  exact slot_delivers hpass rfl (vsource_delivers (hs a (by simp)) fun va => vresult_delivers hd (hw _))

theorem permute_delivers {f} (hpass : slotPasses i s = true) (h : Lanes i d [a, b]) :
    Delivers i (staleReads s i) (permute lat i d a b f s) := by
  obtain ⟨hd, hs, hw⟩ := h
  exact slot_delivers hpass rfl
    (vsource_delivers (hs a (by simp)) fun va => vsource_delivers (hs b (by simp)) fun vb => vresult_delivers hd (hw _))

theorem f32op2_delivers {f} (hpass : slotPasses i s = true) (h : Lanes i d [a, b]) :
    Delivers i (staleReads s i) (f32op2 lat i d a b f s) := by
  unfold f32op2
  exact lanes2_delivers hpass h

theorem f32fun_delivers {f} (hpass : slotPasses i s = true) (h : Lanes i d [a]) :
    Delivers i (staleReads s i) (f32fun lat i d a f s) := by
  unfold f32fun
  exact lanes1_delivers hpass h

theorem int2_delivers {f} (hpass : slotPasses i s = true) (h : Lanes i d [a, b]) :
    Delivers i (staleReads s i) (int2 lat i d a b f s) := by
  unfold int2
  exact lanes2_delivers hpass h

end

/-! The destination that each operand form leaves when it is no port (07 R227 R228). -/

section
variable {i : Instr} {d a b : VOp} {src : List VOp} {rd : Bool}

theorem lanes_of_within (hv : vslot i = some (d, src, rd)) (hw : ∀ c : Core, c.writes i = vopWrites c.xname d)
    (hk : d.within [.M, .L, .P] = true) (h : portless i = true) : Lanes i d src := by
  obtain ⟨hp, hs⟩ := (portless_iff hv).mp h
  refine ⟨?_, hs, hw⟩
  cases d with
  | line | mask => rfl
  | port => cases hp
  | _ => cases hk

/-- A destination of a line or port. -/
theorem within_lanes (h : d.within [.L, .P] = true) : d.within [.M, .L, .P] = true := by
  cases d with
  | line | port => rfl
  | _ => cases h

theorem lanesOk_dest (h : lanesOk d a b = true) : d.within [.M, .L, .P] = true := by
  simp only [lanesOk, Bool.and_eq_true, and_assoc] at h
  exact within_lanes h.1

theorem fusedOk_dest (h : fusedOk d a b = true) : d.within [.M, .L, .P] = true := by
  cases d with
  | line => rfl
  | _ => cases h

theorem unaryOk_dest (h : unaryOk d a = true) : d.within [.M, .L, .P] = true := by
  simp only [unaryOk, Bool.and_eq_true] at h
  exact within_lanes h.1

theorem compareOk_dest (h : compareOk d a b = true) : d.within [.M, .L, .P] = true := by
  simp only [compareOk, Bool.and_eq_true, and_assoc] at h
  exact h.1

/-- The other forms of lane results: a destination of a line or port, and what they ask besides. -/
theorem form_dest {x : Bool} (h : (d.within [.L, .P] && x) = true) : d.within [.M, .L, .P] = true :=
  within_lanes (Bool.and_eq_true_iff.mp h).1

theorem form_dest₂ {x y : Bool} (h : (d.within [.L, .P] && x && y) = true) : d.within [.M, .L, .P] = true :=
  form_dest (Bool.and_eq_true_iff.mp h).1

end

/-! The forms whose destination may be an x field or a mask of their own (07 R232 R235 R236 R239). -/

/-- A result that goes to an x field where the destination names one, else to a line. -/
theorem fieldOrLane_delivers {i : Instr} {s : State} {lat d v es act vs es'} (hk : d.within [.L, .P, .D] = true)
    (hp : d.within [.P] = false) (hw : s.core.writes i = vopWrites s.core.xname d) :
    Delivers i s (if d.within [.D] then dresult lat d v es s else vresult lat d act vs es' s) := by
  cases d with
  | line => exact vresult_delivers rfl hw
  | xdest => exact dresult_delivers rfl hw
  | port => cases hp
  | _ => cases hk

theorem bscale_delivers {s : State} {g d a b sz} (hpass : slotPasses (.bscale g d a b sz) s = true)
    (hok : (Instr.bscale g d a b sz).formOk = true) (h : portless (.bscale g d a b sz) = true) :
    Delivers (.bscale g d a b sz) (staleReads s (.bscale g d a b sz)) (exec (.bscale g d a b sz) s) := by
  obtain ⟨hp, hs⟩ := (portless_iff rfl).mp h
  simp only [Instr.formOk, Bool.and_eq_true, and_assoc] at hok
  exact slot_delivers hpass (by unfold exec; rfl)
    (by exact vsource_delivers (hs a (by simp)) fun va => fieldOrLane_delivers hok.1 hp rfl)

theorem vred_delivers {s : State} {g d a f} (hpass : slotPasses (.vred g d a f) s = true)
    (hok : (Instr.vred g d a f).formOk = true) (h : portless (.vred g d a f) = true) :
    Delivers (.vred g d a f) (staleReads s (.vred g d a f)) (exec (.vred g d a f) s) := by
  obtain ⟨hp, hs⟩ := (portless_iff rfl).mp h
  simp only [Instr.formOk, Bool.and_eq_true, and_assoc] at hok
  exact slot_delivers hpass (by unfold exec; rfl)
    (by exact vsource_delivers (hs a (by simp)) fun va => fieldOrLane_delivers hok.1 hp rfl)

/-- VPOPC counts a mask into an x field, or each element of a line. -/
theorem vpopc_delivers {s : State} {g d a} (hpass : slotPasses (.vpopc g d a) s = true)
    (hok : (Instr.vpopc g d a).formOk = true) (h : portless (.vpopc g d a) = true) :
    Delivers (.vpopc g d a) (staleReads s (.vpopc g d a)) (exec (.vpopc g d a) s) := by
  obtain ⟨hp, hs⟩ := (portless_iff rfl).mp h
  refine slot_delivers hpass (by unfold exec; rfl) (.ite (fun hd => dresult_delivers hd rfl) fun hd => ?_)
  refine vsource_delivers (hs a (by simp)) fun va => vresult_delivers ?_ rfl
  cases d with
  | line => rfl
  | xdest => exact absurd rfl hd
  | port => cases hp
  | _ => cases hok

theorem vext_delivers {s : State} {g d a b sz} (hpass : slotPasses (.vext g d a b sz) s = true)
    (hok : (Instr.vext g d a b sz).formOk = true) (h : portless (.vext g d a b sz) = true) :
    Delivers (.vext g d a b sz) (staleReads s (.vext g d a b sz)) (exec (.vext g d a b sz) s) := by
  obtain ⟨_, hs⟩ := (portless_iff rfl).mp h
  simp only [Instr.formOk, Bool.and_eq_true, and_assoc] at hok
  exact slot_delivers hpass (by unfold exec; rfl)
    (by exact vsource_delivers (hs a (by simp)) fun va => vsource_delivers (hs b (by simp)) fun vb => dresult_delivers hok.1 rfl)

/-- The five forms of VMASK without a port: of two masks, of a word, into a field, from a line and to a line. -/
theorem vmask_delivers {s : State} {g d a b sz} (hpass : slotPasses (.vmask g d a b sz) s = true)
    (hok : (Instr.vmask g d a b sz).formOk = true) (h : portless (.vmask g d a b sz) = true) :
    Delivers (.vmask g d a b sz) (staleReads s (.vmask g d a b sz)) (exec (.vmask g d a b sz) s) := by
  obtain ⟨hp, hs⟩ := (portless_iff rfl).mp h
  refine slot_delivers hpass (by unfold exec; rfl) ?_
  cases d with
  | mask =>
    cases a with
    | mask | xreg => exact maskResult_delivers rfl rfl
    | line => exact vsource_delivers rfl fun va => vresult_delivers rfl rfl
    | port => exact nomatch hs _ List.mem_cons_self
    | _ => cases hok
  | xdest =>
    cases a with
    | mask => exact dresult_delivers rfl rfl
    | _ => cases hok
  | line =>
    cases a with
    | mask => exact vsource_delivers rfl fun va => vresult_delivers rfl rfl
    | _ => cases hok
  | port => cases hp
  | _ => cases hok

/-- An instruction of the V slot without a port delivers one result. -/
theorem portless_delivers {i : Instr} {s : State} (hpass : slotPasses i s = true) (h : portless i = true) :
    Delivers i (staleReads s i) (exec i s) := by
  obtain ⟨_, _, hok, _, _, _⟩ := guarded_iff.mp (guarded_of_slotPasses hpass)
  cases i with
  | fadd | fsub | fmul | fmax | fmin =>
    exact .of_eq (by unfold exec; rfl) (f32op2_delivers hpass (lanes_of_within rfl (fun _ => rfl) (lanesOk_dest hok) h))
  | ffma | ffms | hfma | imad =>
    exact .of_eq (by unfold exec; rfl) (lanes3_delivers hpass (lanes_of_within rfl (fun _ => rfl) (fusedOk_dest hok) h))
  | fabs | fneg | fexp2 | frint | iabs | vmov =>
    exact .of_eq (by unfold exec; rfl) (lanes1_delivers hpass (lanes_of_within rfl (fun _ => rfl) (unaryOk_dest hok) h))
  | frcp | frsq | flog2 =>
    exact .of_eq (by unfold exec; rfl) (f32fun_delivers hpass (lanes_of_within rfl (fun _ => rfl) (unaryOk_dest hok) h))
  | fcpys | hadd | hmul | hmax =>
    exact .of_eq (by unfold exec; rfl) (lanes2_delivers hpass (lanes_of_within rfl (fun _ => rfl) (lanesOk_dest hok) h))
  | fcmpeq | fcmplt | fcmple | fcmpun =>
    exact .of_eq (by unfold exec; rfl) (lanes2_delivers hpass (lanes_of_within rfl (fun _ => rfl) (compareOk_dest hok) h))
  | qnt | dqnt =>
    exact .of_eq (by unfold exec; rfl) (lanes2_delivers hpass (lanes_of_within rfl (fun _ => rfl) (form_dest₂ hok) h))
  | iadd | isub | imul | imulh | imax | imin | imaxn | iminn | iand | ior | ixor | ishl | ishr | isra =>
    exact .of_eq (by unfold exec; rfl) (int2_delivers hpass (lanes_of_within rfl (fun _ => rfl) (lanesOk_dest hok) h))
  | icmpeq | icmplt | icmpltn =>
    exact .of_eq (by unfold exec; rfl) (int2_delivers hpass (lanes_of_within rfl (fun _ => rfl) (compareOk_dest hok) h))
  | cvt =>
    simp only [Instr.formOk, Bool.and_eq_true, and_assoc] at hok
    exact .of_eq (by unfold exec; rfl) (lanes1_delivers hpass (lanes_of_within rfl (fun _ => rfl) (unaryOk_dest hok.1) h))
  | plpack | plunpk =>
    simp only [Instr.formOk, Bool.and_eq_true, and_assoc] at hok
    exact .of_eq (by unfold exec; rfl) (across_delivers hpass (lanes_of_within rfl (fun _ => rfl) (within_lanes hok.1) h))
  | vbcast | vrot | vshuf =>
    exact .of_eq (by unfold exec; rfl) (permute_delivers hpass (lanes_of_within rfl (fun _ => rfl) (form_dest₂ hok) h))
  | vsel g d a b =>
    obtain ⟨hd, hs, hw⟩ := lanes_of_within (i := .vsel g d a b) rfl (fun _ => rfl) (lanesOk_dest hok) h
    exact slot_delivers hpass (by unfold exec; rfl)
      (by exact vsource_delivers (hs a (by simp)) fun va => vsource_delivers (hs b (by simp)) fun vb => vresult_delivers hd (hw _))
  | viota g d a b =>
    obtain ⟨hd, hs, hw⟩ := lanes_of_within (i := .viota g d a b) rfl (fun _ => rfl) (form_dest₂ hok) h
    exact slot_delivers hpass (by unfold exec; rfl)
      (by exact vsource_delivers (hs a (by simp)) fun va => vsource_delivers (hs b (by simp)) fun vb => vresult_delivers hd (hw _))
  | vscan g d a f sz =>
    obtain ⟨hd, hs, hw⟩ := lanes_of_within (i := .vscan g d a f sz) rfl (fun _ => rfl) (form_dest₂ hok) h
    exact slot_delivers hpass (by unfold exec; rfl)
      (by exact vsource_delivers (hs a (by simp)) fun va => vresult_delivers hd (hw _))
  | bscale => exact bscale_delivers hpass hok h
  | vred => exact vred_delivers hpass hok h
  | vpopc => exact vpopc_delivers hpass hok h
  | vext => exact vext_delivers hpass hok h
  | vmask => exact vmask_delivers hpass hok h
  | _ => cases h

/-- Settles O52: each class delivers one result, and the reads before it leave only the events that wait for it. -/
theorem issueFrame : Obligations.IssueFrame := by
  unfold Obligations.IssueFrame
  intro i s t hpass hexec hclass
  have hd : Delivers i (staleReads s i) (exec i s) := by
    rcases hclass with h | h | h | h
    · exact scalar_delivers hpass h
    · exact pred_delivers hpass h
    · exact write_slot_delivers hpass h
    · exact portless_delivers hpass h
  obtain ⟨l, w, es, he, hw⟩ := hd
  obtain ⟨stale, hstale⟩ := staleReads_eq s i
  rw [hexec, hstale] at he
  cases he
  rw [hstale] at hw
  exact ⟨_, hw, rfl⟩

end Sys2Proof.Proofs

/-! PROOF. Results that land (02 R44 R47 R48 R61 R63 R73, 05 R148 to R150, 07 R217 R220 R221 R224). -/

namespace Sys2Proof.Proofs

open Sys2Proof.Machine Sys2Proof.Laws Sys2Proof.Safety

/-! Bits and places of registers. -/

theorem getLsbD_setBit {n : Nat} (v : BitVec n) {j : Nat} (k : Nat) (b : Bool) (hj : j < n) :
    (setBit v k b).getLsbD j = if j = k then b else v.getLsbD j := by
  have hbit : (BitVec.ofNat n (2 ^ k)).getLsbD j = decide (j = k) := by
    rw [BitVec.getLsbD_ofNat, Nat.testBit_two_pow, decide_eq_true hj, Bool.true_and]
    exact decide_eq_decide.mpr eq_comm
  unfold setBit
  cases b with
  | true =>
    rw [if_pos rfl, BitVec.getLsbD_or, hbit]
    by_cases hjk : j = k <;> simp [hjk]
  | false =>
    rw [if_neg (by simp), BitVec.getLsbD_and, BitVec.getLsbD_not, hbit, decide_eq_true hj]
    by_cases hjk : j = k <;> simp [hjk]

/-- A bit that is set reads as set, and every other bit as before. -/
theorem getLsbD_setBit_true {n : Nat} (v : BitVec n) (j k : Fin n) :
    (setBit v k.val true).getLsbD j.val = (decide (j = k) || v.getLsbD j.val) := by
  rw [getLsbD_setBit v _ _ j.isLt]
  by_cases h : j = k <;> simp [h, Fin.val_inj]

theorem get_set {α : Type} {n : Nat} (v : Vector α n) (i k : Fin n) (a : α) :
    (v.set i a).get k = if k = i then a else v.get k := by
  simp only [Vector.get_eq_getElem, Vector.getElem_set, Fin.val_inj, eq_comm]

theorem get_vset {α : Type} {n : Nat} (v : Vector α n) (i : Nat) (a : α) (k : Fin n) :
    (vset v i a).get k = if k.val = i then a else v.get k := by
  simp only [vset, Vector.get_eq_getElem, Vector.getElem_mapFinIdx]

/-! The elements of a matrix register (07 R217). -/

theorem swf_foldl_sset {cs : List (Nat × W32)} {m : SMap W32} (hm : swf 0 m = true) :
    swf 0 (cs.foldl (fun a c => sset a 0 c.1 c.2) m) = true := by
  induction cs generalizing m with
  | nil => exact hm
  | cons c cs ih => exact ih (sset_wf hm)

/-- Of several writes of one element the last stands; an element that none writes is as before. -/
theorem sget_foldl_sset {cs : List (Nat × W32)} {m : SMap W32} (hm : swf 0 m = true) (e : Nat) :
    sget (cs.foldl (fun a c => sset a 0 c.1 c.2) m) 0 e = match cs.reverse.find? fun c => c.1 == e with
      | some c => c.2
      | none => sget m 0 e := by
  induction cs using List.reverseRecOn with
  | nil => rfl
  | append_singleton cs c ih =>
    rw [List.foldl_append, List.reverse_append]
    rw [List.foldl_cons, List.foldl_nil, List.reverse_singleton, List.singleton_append, sget_sset (swf_foldl_sset hm)]
    by_cases hc : c.1 = e
    · rw [if_pos hc, List.find?_cons_of_pos (by simp [hc])]
    · rw [if_neg hc, List.find?_cons_of_neg (by simp [hc]), ih]

/-- What a matrix register holds after some of its elements are written: an invalid one has zeros elsewhere. -/
theorem sget_write {m : MReg} (cs : List (Nat × W32)) (hm : swf 0 m.cells = true) (e : Nat) :
    sget (m.write cs).cells 0 e = match cs.reverse.find? fun c => c.1 == e with
      | some c => c.2
      | none => if m.valid then sget m.cells 0 e else 0 := by
  unfold MReg.write
  cases hv : m.valid with
  | true => exact sget_foldl_sset hm e
  | false => exact sget_foldl_sset (by rfl) e

/-- A write that changes one element in place. -/
theorem get_set_of {α : Type} {n : Nat} (v : Vector α n) (i k : Fin n) (f : α → α) :
    (v.set i (f (v.get i))).get k = if k = i then f (v.get k) else v.get k := by
  rw [get_set]
  by_cases h : k = i
  · rw [h]
  · rw [if_neg h, if_neg h]

/-- A lane mask takes the lanes that are written, in the register that is written. -/
theorem getLsbD_lanes {d k : Fin 8} {v lanes : W32} {r : Vector W32 8} {j : Nat} (hj : j < 32) :
    ((r.set d ((r.get d &&& ~~~lanes) ||| (v &&& lanes))).get k).getLsbD j =
      if k = d ∧ lanes.getLsbD j = true then v.getLsbD j else (r.get k).getLsbD j := by
  rw [get_set_of r d k fun w => (w &&& ~~~lanes) ||| (v &&& lanes)]
  by_cases hk : k = d
  · simp only [hk, if_true, true_and, BitVec.getLsbD_or, BitVec.getLsbD_and, BitVec.getLsbD_not, hj, decide_true, Bool.true_and]
    cases lanes.getLsbD j <;> simp
  · simp only [hk, if_false, false_and]

/-- A shadow shape takes one word. -/
theorem get_shadow {d k : Fin 4} {n e : Fin 8} {v : Word} {r : Vector Shape 4} :
    ((r.set d ⟨(r.get d).w.set n v⟩).get k).w.get e = if k = d ∧ e = n then v else (r.get k).w.get e := by
  rw [get_set_of r d k fun w => ⟨w.w.set n v⟩]
  by_cases hk : k = d
  · simp only [hk, if_true, true_and, get_set]
  · simp only [hk, if_false, false_and]

/-- Elements written to a matrix register make it valid and powered, and leave the other registers as they are. -/
theorem get_cells {m k : Fin 16} {cs : List (Nat × W32)} {r : Vector MReg 16} :
    if k = m then ((r.set m ((r.get m).write cs)).get k).valid = true ∧ ((r.set m ((r.get m).write cs)).get k).power = .on ∧
        (swf 0 (r.get k).cells = true → ∀ e, sget ((r.set m ((r.get m).write cs)).get k).cells 0 e =
          match cs.reverse.find? fun c => c.1 == e with
          | some c => c.2
          | none => if (r.get k).valid then sget (r.get k).cells 0 e else 0)
      else (r.set m ((r.get m).write cs)).get k = r.get k := by
  rw [get_set_of r m k fun w => w.write cs]
  by_cases hk : k = m
  · simp only [hk, if_true]
    exact ⟨rfl, rfl, sget_write cs⟩
  · simp only [hk, if_false]

/-! Each kind of write. -/

/-- x0 discards what is written to it (02 R61). -/
theorem applyWrite_x0 (v : Word) (s : State) : applyWrite (.x 0 v) s = s := rfl

theorem applyWrite_x {d : Fin 64} (hd : d ≠ 0) (v : Word) (s : State) : applyWrite (.x d v) s =
    (s.modR fun g => { g with x := g.x.set d v, xv := setBit g.xv d.val true }).modWin fun n =>
      { n with wx := setBit n.wx d.val true } := if_neg hd

theorem applyWrite_p0 (v : Bool) (s : State) : applyWrite (.p 0 v) s = s := rfl

theorem applyWrite_p {d : Fin 16} (hd : d ≠ 0) (v : Bool) (s : State) : applyWrite (.p d v) s =
    s.modR fun g => { g with p := setBit g.p d.val v, pv := setBit g.pv d.val true } := if_neg hd

/-! Writes of the strand's state registers (05 R148 to R150, 07 R224, 06 R195). -/

theorem keepUndo_strand {n : Nat} (hn : n < 0x100) (s : State) : s.keepUndo n = s := by
  have h : undoNumbers n = [] := by
    unfold undoNumbers
    rw [if_neg (by omega), if_neg (by omega)]
  unfold State.keepUndo
  rw [h]
  rfl

/-- A write of one of a port's words 0 to 5 also clears its current indices, words 6 and 7 (07 R224). -/
def agWritten (n : Nat) (v : Word) (ag : Vector Word 128) : Vector Word 128 :=
  if n % 16 < 6 then vset (vset (vset ag (n - 0x40) v) (n / 16 * 16 + 6 - 0x40) 0) (n / 16 * 16 + 7 - 0x40) 0
  else vset ag (n - 0x40) v

/-- CIR after a write: the conditions written with ones are cleared, and COUNT takes its field. -/
def cirWritten (v cir : Word) : Word := BitVec.ofNat 64 (bits (cir &&& ~~~v) 0 4 + bits v 16 16 * 2 ^ 16)

/-- Each number below 0x100 has its own register. -/
theorem writeStrand_eq {n : Nat} (hn : n < 0x100) (v : Word) (s : State) : writeStrand n v s = { s with core := { s.core with
    cir := if n = 4 then cirWritten v s.core.cir else s.core.cir,
    r := { s.core.r with
      lc := if 0x10 ≤ n ∧ n < 0x14 then vset s.core.r.lc (n - 0x10) (v.setWidth 32) else s.core.r.lc,
      ag := if 0x40 ≤ n ∧ n < 0xC0 then agWritten n v s.core.r.ag else s.core.r.ag,
      xp := if 0xC0 ≤ n then vset s.core.r.xp (n - 0xC0) v else s.core.r.xp,
      sr := { s.core.r.sr with
        fela := if n = 1 then 0 else s.core.r.sr.fela,
        feli := if n = 1 then 0 else s.core.r.sr.feli,
        fels := if n = 2 then s.core.r.sr.fels &&& ~~~v else s.core.r.sr.fels,
        vctl := if n = 3 then v &&& 0xF7 else s.core.r.sr.vctl } } } } := by
  unfold writeStrand
  by_cases h1 : n = 1
  · subst h1; rfl
  by_cases h2 : n = 2
  · subst h2; rfl
  by_cases h3 : n = 3
  · subst h3; rfl
  by_cases h4 : n = 4
  · subst h4; rfl
  simp only [h1, h2, h3, h4, if_false]
  by_cases hlc : 0x10 ≤ n ∧ n < 0x14
  · rw [if_pos hlc, if_pos hlc, if_neg (by omega), if_neg (by omega)]
    rfl
  by_cases hag : 0x40 ≤ n ∧ n < 0xC0
  · rw [if_neg hlc, if_pos hag, if_neg hlc, if_pos hag, if_neg (by omega)]
    rfl
  by_cases hxp : 0xC0 ≤ n
  · rw [if_neg hlc, if_neg hag, if_pos ⟨hxp, hn⟩, if_neg hlc, if_neg hag, if_pos hxp]
    rfl
  · rw [if_neg hlc, if_neg hag, if_neg (by omega), if_neg hlc, if_neg hag, if_neg hxp]

theorem applyWrite_state {n : Nat} (hn : n < 0x100) (v : Word) (s : State) : applyWrite (.state n v) s =
    (writeStrand n v s).modWin fun w => { w with wlc := if 0x10 ≤ n ∧ n < 0x14 then setBit w.wlc (n - 0x10) true else w.wlc } := by
  have hw : writeState n v (s.keepUndo n) = writeStrand n v s := by rw [keepUndo_strand hn, writeState, if_pos hn]
  simp only [applyWrite, hw]
  split <;> rfl

theorem testBit_bits (w : Word) (lo n j : Nat) : (bits w lo n).testBit j = (decide (j < n) && w.getLsbD (lo + j)) := by
  rw [bits, Nat.testBit_mod_two_pow, Nat.testBit_div_two_pow, BitVec.testBit_toNat, Nat.add_comm]

theorem getLsbD_cirWritten (v cir : Word) {j : Nat} (hj : j < 64) : (cirWritten v cir).getLsbD j =
    if j < 4 then cir.getLsbD j && !v.getLsbD j else decide (16 ≤ j ∧ j < 32) && v.getLsbD j := by
  have hlow : bits (cir &&& ~~~v) 0 4 < 2 ^ 16 := Nat.lt_trans (Nat.mod_lt _ (by decide)) (by decide)
  rw [cirWritten, BitVec.getLsbD_ofNat, decide_eq_true hj, Bool.true_and, Nat.add_comm, Nat.mul_comm,
    Nat.testBit_two_pow_mul_add _ hlow, testBit_bits, testBit_bits, Nat.zero_add, BitVec.getLsbD_and, BitVec.getLsbD_not,
    decide_eq_true hj, Bool.true_and]
  by_cases h4 : j < 4
  · rw [if_pos (by omega), if_pos h4, decide_eq_true h4, Bool.true_and]
  · rw [if_neg h4]
    by_cases h16 : j < 16
    · rw [if_pos h16, decide_eq_false h4, decide_eq_false (by omega), Bool.false_and, Bool.false_and]
    · rw [if_neg h16, Nat.add_sub_cancel' (by omega)]
      exact congrArg (· && _) (decide_eq_decide.mpr (by omega))

theorem get_agWritten {n : Nat} (hn : 0x40 ≤ n ∧ n < 0xC0) (v : Word) (ag : Vector Word 128) (k : Fin 128) :
    (agWritten n v ag).get k = if n = 0x40 + k.val then v
      else if n % 16 < 6 ∧ (0x40 + k.val) / 16 = n / 16 ∧ (k.val % 16 = 6 ∨ k.val % 16 = 7) then 0 else ag.get k := by
  unfold agWritten
  by_cases ha : n % 16 < 6
  · simp only [ha, if_true, true_and, get_vset]
    by_cases hk : n = 0x40 + k.val
    · rw [if_neg (by omega), if_neg (by omega), if_pos (by omega), if_pos hk]
    · rw [if_neg (c := n = 0x40 + k.val) hk, if_neg (c := k.val = n - 0x40) (by omega)]
      by_cases h6 : (0x40 + k.val) / 16 = n / 16 ∧ (k.val % 16 = 6 ∨ k.val % 16 = 7)
      · rw [if_pos h6]
        by_cases h7 : k.val % 16 = 7
        · rw [if_pos (by omega)]
        · rw [if_neg (by omega), if_pos (by omega)]
      · rw [if_neg h6, if_neg (by omega), if_neg (by omega)]
  · simp only [ha, if_false, false_and, get_vset]
    by_cases hk : n = 0x40 + k.val
    · rw [if_pos hk, if_pos (by omega)]
    · rw [if_neg hk, if_neg (by omega)]

/-! Stores that a port push holds (07 R224). -/

theorem txDue_eq (s : State) (reason : Fin 8) (code cause : BitVec 8) :
    ∃ tx, s.txDue reason code cause = { s with core := { s.core with tx := tx } } := by
  unfold State.txDue
  split
  · exact ⟨s.core.tx, rfl⟩
  · split
    · exact ⟨s.core.tx, rfl⟩
    · exact ⟨_, rfl⟩

/-- Holding stores changes the window's buffer or that of the transaction. -/
theorem hold_eq (s : State) (hs : List HStore) : ∃ tx win, s.hold hs = { s with core := { s.core with tx := tx, win := win } } := by
  unfold State.hold
  cases s.core.tx with
  | none => exact ⟨s.core.tx, _, rfl⟩
  | some t =>
    dsimp only
    split
    · obtain ⟨tx, h⟩ := txDue_eq { s with core := { s.core with
        tx := some { t with held := t.held ++ hs, bytes := t.bytes + (hs.map fun h => h.size).sum } } } 2 0 0
      rw [h]
      exact ⟨tx, s.core.win, rfl⟩
    · exact ⟨_, s.core.win, rfl⟩

/-! The order of results that meet (02 R47 R48 R73). -/

theorem recordAt_landed (b : Nat) (s : State) (e : LogEvent) : (s.recordAt b e).core.landed = s.core.landed := by
  unfold State.recordAt
  split <;> rfl

theorem recordAllAt_landed (b : Nat) (s : State) (es : List LogEvent) : (s.recordAllAt b es).core.landed = s.core.landed := by
  unfold State.recordAllAt
  generalize sortOn LogEvent.order es = l
  induction l generalizing s with
  | nil => rfl
  | cons e l ih => exact (ih _).trans (recordAt_landed b s e)

/-- The machine with its landing buffer taken out. -/
def taken (s : State) : State := { s with core := { s.core with land := [] } }

/-- The machine that remembers results as landed. -/
def remember (rs : List Result) (s : State) : State := { s with core := { s.core with landed := rs } }

/-- A lone result of its beat lands. -/
theorem landAll_one {b : Nat} {q : Result} {s : State} (hq : q.due = some b) (hold : ∀ r ∈ s.core.landed, r.due ≠ some b) :
    landAll b [q] s = (remember [q] (landOne q s)).recordAllAt b q.events := by
  have hnone : (s.core.landed.filter fun r => r.due == some b) = [] := by simpa using hold
  simp [landAll, hnone, hq, remember]

/-- A result that meets one of its beat that has landed already: the later-issued stands, and WAW_COLLIDE is recorded. -/
theorem landAll_late {b : Nat} {p q : Result} {s : State} (hp : p.due = some b) (hq : q.due = some b) (hseq : p.seq < q.seq)
    (hm : p.write.meets q.write = true) (hl : s.core.landed = [p]) : landAll b [q] s =
      (remember [p, q] (landOne q s)).recordAllAt b (q.events ++ [⟨Ev.wawCollide, q.slot, 0, q.pc⟩]) := by
  simp [landAll, hl, hp, hq, hseq, hm, remember]

/-- Two results of one beat that meet land in the order of their issue. -/
theorem landAll_two {b : Nat} {p q : Result} {s : State} (hp : p.due = some b) (hq : q.due = some b) (hseq : p.seq < q.seq)
    (hm : p.write.meets q.write = true) (hold : ∀ r ∈ s.core.landed, r.due ≠ some b) : landAll b [p, q] s =
      (remember [p, q] (landOne q (landOne p s))).recordAllAt b (p.events ++ q.events ++ [⟨Ev.wawCollide, q.slot, 0, q.pc⟩]) := by
  have hnone : (s.core.landed.filter fun r => r.due == some b) = [] := by simpa using hold
  simp [landAll, hnone, hp, hq, hseq, hm, remember, Nat.lt_asymm hseq]

theorem landUpTo_one {b n : Nat} {q : Result} {s : State} (hl : s.core.land = [q]) (hq : q.due = some b) (hb : b ≤ n) :
    landUpTo n s = landAll b [q] (taken s) := by
  simp [landUpTo, hl, hq, hb, sortOn, insertOn, taken]

theorem landUpTo_same {b n : Nat} {p q : Result} {s : State} (hl : s.core.land = [p, q]) (hp : p.due = some b)
    (hq : q.due = some b) (hb : b ≤ n) : landUpTo n s = landAll b [p, q] (taken s) := by
  simp [landUpTo, hl, hp, hq, hb, sortOn, insertOn, taken]

theorem landUpTo_rising {b c n : Nat} {p q : Result} {s : State} (hl : s.core.land = [p, q]) (hp : p.due = some b)
    (hq : q.due = some c) (hb : b ≤ n) (hc : c ≤ n) (hbc : b < c) :
    landUpTo n s = landAll c [q] (landAll b [p] (taken s)) := by
  simp [landUpTo, hl, hp, hq, hb, hc, sortOn, insertOn, taken, Nat.lt_asymm hbc, hbc.ne, hbc.ne']

theorem landUpTo_falling {b c n : Nat} {p q : Result} {s : State} (hl : s.core.land = [p, q]) (hp : p.due = some b)
    (hq : q.due = some c) (hb : b ≤ n) (hc : c ≤ n) (hcb : c < b) :
    landUpTo n s = landAll b [p] (landAll c [q] (taken s)) := by
  simp [landUpTo, hl, hp, hq, hb, hc, sortOn, insertOn, taken, hcb, hcb.ne, hcb.ne']

/-- Settles O54: the frame and the fields of each kind of write, the value of each state register, and the landing of two results in
the order of their beats. -/
theorem landing : Obligations.Landing := by
  unfold Obligations.Landing
  refine ⟨?registers, ?state, ?push, ?two, ?late⟩
  case registers =>
    intro w s hstate hpush
    -- The clauses: the frame, x, y, p, bt, vm, m, the shadow shapes, the loops' bounds, LACT, SEGEXP and SEGRUN. All but its own
    -- hold of a kind of write by evaluation.
    cases w with
    | state n v => exact absurd rfl (hstate n v)
    | push xs sc => exact absurd rfl (hpush xs sc)
    | wake | seg =>
      exact ⟨rfl, fun _ => ⟨rfl, rfl, rfl⟩, fun _ => rfl, fun _ => ⟨rfl, rfl⟩, fun _ => ⟨rfl, rfl, rfl⟩,
        fun _ => ⟨fun _ _ => rfl, rfl⟩, fun _ => rfl, fun _ _ => rfl, fun _ => ⟨rfl, rfl⟩, rfl, rfl, rfl⟩
    | y d v =>
      exact ⟨rfl, fun _ => ⟨rfl, rfl, rfl⟩, fun _ => get_set _ _ _ _, fun _ => ⟨rfl, rfl⟩, fun _ => ⟨rfl, rfl, rfl⟩,
        fun _ => ⟨fun _ _ => rfl, rfl⟩, fun _ => rfl, fun _ _ => rfl, fun _ => ⟨rfl, rfl⟩, rfl, rfl, rfl⟩
    | bt d v =>
      exact ⟨rfl, fun _ => ⟨rfl, rfl, rfl⟩, fun _ => rfl, fun _ => ⟨rfl, rfl⟩,
        fun _ => ⟨get_set _ _ _ _, getLsbD_setBit_true _ _ _, getLsbD_setBit_true _ _ _⟩, fun _ => ⟨fun _ _ => rfl, rfl⟩,
        fun _ => rfl, fun _ _ => rfl, fun _ => ⟨rfl, rfl⟩, rfl, rfl, rfl⟩
    | vm d v lanes =>
      exact ⟨rfl, fun _ => ⟨rfl, rfl, rfl⟩, fun _ => rfl, fun _ => ⟨rfl, rfl⟩, fun _ => ⟨rfl, rfl, rfl⟩,
        fun _ => ⟨fun _ hj => getLsbD_lanes hj, getLsbD_setBit_true _ _ _⟩, fun _ => rfl, fun _ _ => rfl,
        fun _ => ⟨rfl, rfl⟩, rfl, rfl, rfl⟩
    | cells m cs =>
      exact ⟨rfl, fun _ => ⟨rfl, rfl, rfl⟩, fun _ => rfl, fun _ => ⟨rfl, rfl⟩, fun _ => ⟨rfl, rfl, rfl⟩,
        fun _ => ⟨fun _ _ => rfl, rfl⟩, fun _ => get_cells, fun _ _ => rfl, fun _ => ⟨rfl, rfl⟩, rfl, rfl, rfl⟩
    | mreg m v =>
      exact ⟨rfl, fun _ => ⟨rfl, rfl, rfl⟩, fun _ => rfl, fun _ => ⟨rfl, rfl⟩, fun _ => ⟨rfl, rfl, rfl⟩,
        fun _ => ⟨fun _ _ => rfl, rfl⟩, fun _ => get_set _ _ _ _, fun _ _ => rfl, fun _ => ⟨rfl, rfl⟩, rfl, rfl, rfl⟩
    | power m v =>
      exact ⟨rfl, fun _ => ⟨rfl, rfl, rfl⟩, fun _ => rfl, fun _ => ⟨rfl, rfl⟩, fun _ => ⟨rfl, rfl, rfl⟩,
        fun _ => ⟨fun _ _ => rfl, rfl⟩, fun _ => get_set_of _ _ _ fun (r : MReg) => { r with power := v }, fun _ _ => rfl,
        fun _ => ⟨rfl, rfl⟩, rfl, rfl, rfl⟩
    | shadow d n v =>
      exact ⟨rfl, fun _ => ⟨rfl, rfl, rfl⟩, fun _ => rfl, fun _ => ⟨rfl, rfl⟩, fun _ => ⟨rfl, rfl, rfl⟩,
        fun _ => ⟨fun _ _ => rfl, rfl⟩, fun _ => rfl, fun _ _ => get_shadow, fun _ => ⟨rfl, rfl⟩, rfl, rfl, rfl⟩
    | loop d first last v =>
      exact ⟨rfl, fun _ => ⟨rfl, rfl, rfl⟩, fun _ => rfl, fun _ => ⟨rfl, rfl⟩, fun _ => ⟨rfl, rfl, rfl⟩,
        fun _ => ⟨fun _ _ => rfl, rfl⟩, fun _ => rfl, fun _ _ => rfl, fun _ => ⟨get_set _ _ _ _, get_set _ _ _ _⟩, rfl, rfl,
        rfl⟩
    | x d v =>
      by_cases hd : d = 0
      · subst hd
        exact ⟨rfl, fun k => by simp [applyWrite_x0], fun _ => rfl, fun _ => ⟨rfl, rfl⟩, fun _ => ⟨rfl, rfl, rfl⟩,
          fun _ => ⟨fun _ _ => rfl, rfl⟩, fun _ => rfl, fun _ _ => rfl, fun _ => ⟨rfl, rfl⟩, rfl, rfl, rfl⟩
      · rw [applyWrite_x hd]
        refine ⟨rfl, fun k => ?_, fun _ => rfl, fun _ => ⟨rfl, rfl⟩, fun _ => ⟨rfl, rfl, rfl⟩,
          fun _ => ⟨fun _ _ => rfl, rfl⟩, fun _ => rfl, fun _ _ => rfl, fun _ => ⟨rfl, rfl⟩, rfl, rfl, rfl⟩
        simp only [ne_eq, hd, not_false_eq_true, and_true]
        exact ⟨(get_set _ _ _ _).trans (by simp), getLsbD_setBit_true _ _ _, getLsbD_setBit_true _ _ _⟩
    | p d v =>
      by_cases hd : d = 0
      · subst hd
        exact ⟨rfl, fun _ => ⟨rfl, rfl, rfl⟩, fun _ => rfl, fun k => by simp [applyWrite_p0], fun _ => ⟨rfl, rfl, rfl⟩,
          fun _ => ⟨fun _ _ => rfl, rfl⟩, fun _ => rfl, fun _ _ => rfl, fun _ => ⟨rfl, rfl⟩, rfl, rfl, rfl⟩
      · rw [applyWrite_p hd]
        refine ⟨rfl, fun _ => ⟨rfl, rfl, rfl⟩, fun _ => rfl, fun k => ?_, fun _ => ⟨rfl, rfl, rfl⟩,
          fun _ => ⟨fun _ _ => rfl, rfl⟩, fun _ => rfl, fun _ _ => rfl, fun _ => ⟨rfl, rfl⟩, rfl, rfl, rfl⟩
        simp only [ne_eq, hd, not_false_eq_true, and_true]
        exact ⟨(getLsbD_setBit _ _ _ k.isLt).trans (by simp [Fin.val_inj]), getLsbD_setBit_true _ _ _⟩
  case state =>
    intro n v s hn
    rw [applyWrite_state hn, writeStrand_eq hn]
    refine ⟨rfl, rfl, rfl, rfl, rfl, fun j hj => ?cir, fun k => ⟨?lc, ?wlc⟩, fun k => ?ag, fun k => ?xp⟩
    case cir =>
      change (if n = 4 then cirWritten v s.core.cir else s.core.cir).getLsbD j = _
      by_cases h : n = 4
      · rw [if_pos h, if_pos h, getLsbD_cirWritten v _ hj]
      · rw [if_neg h, if_neg h]
    case lc =>
      change (if 0x10 ≤ n ∧ n < 0x14 then vset s.core.r.lc (n - 0x10) (v.setWidth 32) else s.core.r.lc).get k = _
      by_cases h : 0x10 ≤ n ∧ n < 0x14
      · rw [if_pos h, get_vset]
        exact if_congr (by omega) rfl rfl
      · rw [if_neg h, if_neg (by omega)]
    case wlc =>
      change (if 0x10 ≤ n ∧ n < 0x14 then setBit s.core.win.wlc (n - 0x10) true else s.core.win.wlc).getLsbD k.val = _
      by_cases h : 0x10 ≤ n ∧ n < 0x14
      · rw [if_pos h, getLsbD_setBit _ _ _ k.isLt]
        by_cases hk : n = 0x10 + k.val
        · rw [if_pos (by omega), decide_eq_true hk, Bool.true_or]
        · rw [if_neg (by omega), decide_eq_false hk, Bool.false_or]
      · rw [if_neg h, decide_eq_false (by omega), Bool.false_or]
    case ag =>
      change (if 0x40 ≤ n ∧ n < 0xC0 then agWritten n v s.core.r.ag else s.core.r.ag).get k = _
      by_cases h : 0x40 ≤ n ∧ n < 0xC0
      · rw [if_pos h, get_agWritten h]
        simp only [h, true_and]
      · rw [if_neg h, if_neg (by omega), if_neg (by omega)]
    case xp =>
      change (if 0xC0 ≤ n then vset s.core.r.xp (n - 0xC0) v else s.core.r.xp).get k = _
      by_cases h : 0xC0 ≤ n
      · rw [if_pos h, get_vset]
        exact if_congr (by omega) rfl rfl
      · rw [if_neg h, if_neg (by omega)]
  case push =>
    intro xs sc s
    obtain ⟨tx, win, h⟩ := hold_eq s (mkStores s sc xs.length false (xs.map fun x => (x.1.toNat, x.2.1, x.2.2)))
    simp only [applyWrite, h, and_self]
  case two =>
    intro s p q b c n hl hp hq hb hc hseq hm hold z keep
    have hfirst : ∀ r ∈ (taken s).core.landed, r.due ≠ some b := fun r hr => (hold r hr).1
    have hsecond : ∀ r ∈ (taken s).core.landed, r.due ≠ some c := fun r hr => (hold r hr).2
    refine ⟨fun hbc => ?same, fun hbc => ?rising, fun hcb => ?falling⟩
    case same =>
      subst hbc
      rw [landUpTo_same hl hp hq hb, landAll_two hp hq hseq hm hfirst]
      rfl
    case rising =>
      rw [landUpTo_rising hl hp hq hb hc hbc, landAll_one hp hfirst, landAll_one hq (by simp [recordAllAt_landed, remember, hp, hbc.ne])]
      rfl
    case falling =>
      rw [landUpTo_falling hl hp hq hb hc hcb, landAll_one hq hsecond, landAll_one hp (by simp [recordAllAt_landed, remember, hq, hcb.ne])]
      rfl
  case late =>
    intro s p q b hl hlanded hp hseq hm z v u t
    refine ⟨fun n hq hb => ?due, fun hq hb => ?arrives⟩
    case due =>
      have hv : v = q := by simp only [v, ← hq]
      rw [landUpTo_one hl hq hb, landAll_late (s := taken s) hp hq hseq hm hlanded]
      simp only [t, u, hv]
      rfl
    case arrives =>
      subst hb
      have harrive : landInterlocked 0 s = landUpTo s.core.beat { s with core := { s.core with land := [v] } } := by
        simp [landInterlocked, hl, hq, v]
      rw [harrive, landUpTo_one (q := v) rfl rfl le_rfl]
      exact landAll_late (s := taken s) hp rfl hseq hm hlanded

end Sys2Proof.Proofs

/-! PROOF. What the device's own posts and marks change (04 R127 R128, 14 R433 R437 R458). -/

namespace Sys2Proof.Proofs

open Sys2Proof.Machine Sys2Proof.Laws

/-- `u` differs from `s` in memory, the partitions, the dies and the write that waits for a dirty bit, if at all. -/
def DeviceWrote (s u : State) : Prop := ∃ mem parts dies stalled,
  u = { s with mem := mem, dev := { s.dev with parts := parts, dies := dies, stalled := stalled } }

namespace DeviceWrote

theorem refl (s : State) : DeviceWrote s s := ⟨_, _, _, _, rfl⟩

theorem trans {s t u : State} (h : DeviceWrote s t) (h' : DeviceWrote t u) : DeviceWrote s u := by
  obtain ⟨_, _, _, _, rfl⟩ := h
  obtain ⟨_, _, _, _, rfl⟩ := h'
  exact ⟨_, _, _, _, rfl⟩

theorem poke (s : State) (k : Nat) (bs : List Byte) : DeviceWrote s (s.poke k bs) := ⟨_, _, _, _, rfl⟩
theorem modPart (s : State) (p : Nat) (f : Partition → Partition) : DeviceWrote s (s.modPart p f) := ⟨_, _, _, _, rfl⟩
theorem modDie (s : State) (d : Nat) (f : Die → Die) : DeviceWrote s (s.modDie d f) := ⟨_, _, _, _, rfl⟩
theorem stall (s : State) (x : Fin 8 × Nat) : DeviceWrote s { s with dev := { s.dev with stalled := some x } } :=
  ⟨_, _, _, _, rfl⟩

theorem countPlace (s : State) (die : Nat) (p : Fin 8) (va : Word) (k : Nat) : DeviceWrote s (s.countPlace die p va k) := by
  unfold State.countPlace
  split
  · exact modDie s _ _
  · exact refl s

theorem postService (s : State) (die : Nat) (entry : List Byte) : DeviceWrote s (postService s die entry) := by
  unfold Machine.postService
  dsimp only
  split
  · exact refl s
  · split
    · exact poke s _ _
    · exact (poke s _ _).trans (poke _ _ _)

end DeviceWrote

/-! A walk reads memory and changes nothing (04 R115 R118). -/

theorem throughLeaf_state (s : State) (ag : Agent) (k : AKind) (va : Word) (level : Nat) (e : Word) :
    (throughLeaf s ag k va level e).state = s := by
  unfold throughLeaf
  split_ifs <;> rfl

theorem translateWalk_state (ag : Agent) (k : AKind) (va : Word) (s : State) : (translateWalk ag k va s).state = s := by
  unfold translateWalk
  split
  · split <;> rfl
  · exact throughLeaf_state ..

/-- The places of a configured area: a walk, and what becomes of its failure (14 R458). -/
theorem DeviceWrote.areaKey (s : State) (p : Fin 8) (area : Nat) (va : Word) (die : Nat) :
    DeviceWrote s (areaKey s p area va die).2 := by
  unfold Machine.areaKey
  split
  · exact refl s
  · next c _ =>
    have hw := translateWalk_state (areaAgent p c) .atomic va s
    split <;> rename_i hx <;> rw [hx] at hw <;> obtain rfl := hw
    · exact modPart _ _ _
    · split
      · exact refl _
      · exact (postService _ _ _).trans (modPart _ _ _)
    · split
      · exact refl _
      · exact (postService _ _ _).trans (modPart _ _ _)
    · dsimp only
      split
      · exact stall _ _
      · exact refl _

section Marks

variable {mark : State → List Nat → State} (hmark : ∀ s ks, DeviceWrote s (mark s ks))
include hmark

theorem DeviceWrote.markSlot (p : Fin 8) (area : Nat) (va : Word) (len cap k die n : Nat) (s : State) :
    DeviceWrote s (markSlot mark p area va len cap k die n s) := by
  induction n generalizing s with
  | zero => exact refl s
  | succ n ih =>
    unfold Machine.markSlot
    dsimp only
    have ha := areaKey s p area (va + BitVec.ofNat 64 (64 + len * (s.peekNat k 8 % cap))) die
    split <;> rename_i hx <;> rw [hx] at ha
    · exact ha
    · split
      · exact ha.trans (hmark _ _)
      · exact (ha.trans (hmark _ _)).trans (ih _)

/-- A post writes an entry, its ring's header and what `mark` writes first (14 R433, 04 R128). -/
theorem DeviceWrote.postMarked (s : State) (p : Fin 8) (area : Nat) (drop : Bool) (entry : List Byte) (die : Nat) :
    DeviceWrote s (postMarked mark s p area drop entry die).2 := by
  unfold Machine.postMarked
  split
  · exact refl s
  next c _ =>
    extract_lets va cap
    split
    · exact refl s
    have hring := areaKey s p area va die
    split <;> rename_i hx <;> rw [hx] at hring
    · exact hring
    next k t =>
      extract_lets counted u prod cons at_
      have hu : DeviceWrote s u := by
        have hcount := hring.trans (countPlace t die p va k)
        unfold u
        split
        · exact hcount
        · exact hcount.trans (markSlot hmark ..)
      split
      · cases drop with
        | false => exact hu
        | true => exact ((hu.trans (hmark _ _)).trans (countPlace ..)).trans (poke ..)
      have hentry := hu.trans (areaKey u p area at_ die)
      split <;> rename_i hy <;> rw [hy] at hentry
      · exact hentry
      · exact (((hentry.trans (countPlace ..)).trans (countPlace ..)).trans (poke ..)).trans (poke ..)

end Marks

theorem DeviceWrote.setPageBit (s : State) (p : Fin 8) (c : PartCfg) (i : Nat) : DeviceWrote s (setPageBit s p c i).2 := by
  unfold Machine.setPageBit
  dsimp only
  have ha := areaKey s p 3 (c.areas.getD 3 0 + BitVec.ofNat 64 (i / 8)) (dieOf s.core.id)
  split <;> rename_i hx <;> rw [hx] at ha
  · exact ha
  · split
    · exact ha.trans (countPlace ..)
    · exact (ha.trans (countPlace ..)).trans (poke ..)

theorem DeviceWrote.foldl {α : Type} {f : State → α → State} (hf : ∀ s a, DeviceWrote s (f s a)) (l : List α) (s : State) :
    DeviceWrote s (l.foldl f s) := by
  induction l generalizing s with
  | nil => exact refl s
  | cons a l ih => exact (hf s a).trans (ih _)

theorem DeviceWrote.markPosted (n : Nat) (wait : Bool) (p : Fin 8) (s : State) (ks : List Nat) :
    DeviceWrote s (markPosted n wait p s ks) := by
  induction n generalizing s ks with
  | zero => exact refl s
  | succ n ih =>
    refine foldl (fun s k => ?_) ks s
    have hstall : ∀ t, DeviceWrote t (if wait then { t with dev := { t.dev with stalled := some (p, k) } } else t) := by
      intro t
      cases wait
      · exact refl t
      · exact stall t _
    split
    · exact refl s
    next c _ =>
      split
      · exact refl s
      split
      · exact refl s
      next i _ =>
        have hbit := setPageBit s p c i
        dsimp only
        split <;> rename_i hx <;> rw [hx] at hbit
        · split
          · exact hbit
          next t _ =>
            have hpost := hbit.trans (postMarked (fun s ks => ih s ks) t p 4 false (toBytes 8 i) (dieOf t.core.id))
            split <;> rename_i hy <;> rw [hy] at hpost
            · exact hpost
            · exact hpost.trans (hstall _)
        · exact hbit
        · exact hbit.trans (hstall _)

theorem DeviceWrote.postRing (s : State) (p : Fin 8) (area : Nat) (drop : Bool) (entry : List Byte) (die : Nat) (wait : Bool) :
    DeviceWrote s (postRing s p area drop entry die wait).2 :=
  postMarked (markPosted 3 wait p) ..

theorem DeviceWrote.report (s : State) (part : Option (Fin 8)) (die : Nat) (cause : BitVec 8) (sev unit : Nat) (unitv : Bool)
    (pc addr : Word) (wait : Bool) : DeviceWrote s (report s part die cause sev unit unitv pc addr wait) := by
  have hservice : ∀ (t : State) (e : List Byte), DeviceWrote t ((Machine.postService t die e).fwEvent die 1) :=
    fun t e => (postService t die e).trans (modDie ..)
  unfold Machine.report
  dsimp only
  cases part with
  | none => exact hservice _ _
  | some p =>
    have hring : DeviceWrote s ((Machine.postRing s p 0 true (reportEntry cause sev unit p.val unitv pc addr s.clock) die wait).2.fwEvent
        die 1) := (postRing ..).trans (modDie ..)
    split
    · exact hring.trans (hservice _ _)
    · exact hring

/-- A write's dirty bit, its entry in the dirty ring or the report of a full one (04 R127 R128). -/
theorem DeviceWrote.markDirtyKey (s : State) (p : Fin 8) (k : Nat) : DeviceWrote s (markDirtyKey s p k).2 := by
  unfold Machine.markDirtyKey
  split
  · exact refl s
  next c _ =>
    split
    · exact refl s
    split
    · exact refl s
    next i _ =>
      have hbit := setPageBit s p c i
      split <;> rename_i hx <;> rw [hx] at hbit
      · exact hbit
      · exact hbit
      next t =>
        split
        · exact hbit
        have hpost := hbit.trans (postRing t p 4 false (toBytes 8 i) (dieOf t.core.id) true)
        split <;> rename_i hy <;> rw [hy] at hpost
        · exact hpost.trans (modPart ..)
        · dsimp only
          split
          · exact refl s
          · exact (report ..).trans (modPart ..)
        · exact refl s

/-- A partition that logs no dirty pages has no dirty bit to set. -/
theorem markDirtyKey_of_dlog_off {s : State} {p : Fin 8} (k : Nat) (h : ∀ c, s.cfg p.val = some c → c.dlog = false) :
    markDirtyKey s p k = (true, s) := by
  unfold markDirtyKey
  split
  · rfl
  next c hc => rw [h c hc]; rfl

end Sys2Proof.Proofs

/-! PROOF. What a translation changes (04 R118 to R121 R127 R128). -/

namespace Sys2Proof.Proofs

open Sys2Proof.Machine Sys2Proof.Laws

theorem length_toBytes (n v : Nat) : (toBytes n v).length = n := by
  induction n generalizing v with
  | zero => rfl
  | succ n ih => rw [toBytes, List.length_cons, ih]

/-- What a translation may change: the core's and its cluster's TLB, and what the device writes. -/
def Translated (s u : State) : Prop := ∃ tlb others ctlb mem parts dies stalled, u = { s with
  core := { s.core with tlb := tlb }, others := others, mem := mem,
  dev := { s.dev with ctlb := ctlb, parts := parts, dies := dies, stalled := stalled } }

theorem DeviceWrote.translated {s u : State} (h : DeviceWrote s u) : Translated s u := by
  obtain ⟨_, _, _, _, rfl⟩ := h
  exact ⟨_, _, _, _, _, _, _, rfl⟩

/-- Installing an entry changes no more than the TLBs of a core and its cluster. -/
theorem tlbInstall_eq (s : State) (c : Nat) (t : TlbEntry) : ∃ tlb others ctlb, s.tlbInstall c t =
    { s with core := { s.core with tlb := tlb }, others := others, dev := { s.dev with ctlb := ctlb } } := by
  unfold State.tlbInstall State.modCoreAt State.setCoreAt
  by_cases hc : c = s.core.id
  · subst hc
    simp only [if_true, coreAt_self]
    exact ⟨_, _, _, rfl⟩
  · simp only [if_neg hc]
    exact ⟨_, _, _, rfl⟩

theorem DeviceWrote.tlbInstall {s u : State} (h : DeviceWrote s u) (c : Nat) (t : TlbEntry) : Translated s (u.tlbInstall c t) := by
  obtain ⟨_, _, _, _, rfl⟩ := h
  obtain ⟨_, _, _, he⟩ := tlbInstall_eq _ c t
  exact ⟨_, _, _, _, _, _, _, he⟩

/-- An installed leaf is an entry of the TLBs and, where a bit of it was clear, eight bytes in memory behind their dirty bit. -/
theorem installLeaf_ok {s u : State} {ag : Agent} {va level at_ : Nat} {d : Bool}
    (h : installLeaf s ag va level at_ d = (true, u)) : ∃ t, u = s.tlbInstall ag.core t ∨
      ∃ v bs, markDirtyKey s ag.part at_ = (true, v) ∧ bs.length = 8 ∧ u = (v.poke at_ bs).tlbInstall ag.core t := by
  unfold installLeaf at h
  dsimp only at h
  generalize setBits (if d = true then _ else _) 8 1 1 = new at h
  split at h
  · cases h
    exact ⟨_, .inl rfl⟩
  split at h <;> cases h
  next v hmark => exact ⟨_, .inr ⟨v, _, hmark, length_toBytes 8 _, rfl⟩⟩

theorem translated_installLeaf {s u : State} {ag : Agent} {va level at_ : Nat} {d : Bool}
    (h : installLeaf s ag va level at_ d = (true, u)) : Translated s u := by
  obtain ⟨t, rfl | ⟨v, bs, hmark, _, rfl⟩⟩ := installLeaf_ok h
  · exact (DeviceWrote.refl s).tlbInstall ..
  · have hv := DeviceWrote.markDirtyKey s ag.part at_
    rw [hmark] at hv
    exact (hv.trans (.poke ..)).tlbInstall ..

/-- Without dirty logging an installed leaf's own eight bytes are all that is written. -/
theorem installLeaf_of_dlog_off {s u : State} {ag : Agent} {va level at_ : Nat} {d : Bool}
    (hlog : ∀ c, s.cfg ag.part.val = some c → c.dlog = false) (hm : Memory.wf s.mem = true)
    (h : installLeaf s ag va level at_ d = (true, u)) :
    u.dev.parts = s.dev.parts ∧ u.dev.dies = s.dev.dies ∧ u.dev.stalled = s.dev.stalled ∧
      ∀ x, x < at_ ∨ at_ + 8 ≤ x → getByte u.mem x = getByte s.mem x := by
  obtain ⟨t, rfl | ⟨v, bs, hmark, hlen, rfl⟩⟩ := installLeaf_ok h
  · obtain ⟨_, _, _, he⟩ := tlbInstall_eq s ag.core t
    rw [he]
    exact ⟨rfl, rfl, rfl, fun _ _ => rfl⟩
  · rw [markDirtyKey_of_dlog_off at_ hlog] at hmark
    obtain rfl : s = v := (Prod.mk.inj hmark).2
    obtain ⟨_, _, _, he⟩ := tlbInstall_eq (s.poke at_ bs) ag.core t
    rw [he]
    exact ⟨rfl, rfl, rfl, fun x hx => (getByte_poke hm).trans (if_neg (by omega))⟩

/-- The leaf at `at_` serves a translation of `va`: that of the TLB entry found, or that of the walk. -/
def ServesLeaf (s : State) (ag : Agent) (va : Word) (at_ : Nat) : Prop :=
  (∃ t, s.tlbFind ag va.toNat = some t ∧ t.entryAt = at_) ∨ ∃ n e ts, walkChecked s ag va.toNat = .leaf n e at_ ts

/-- Continuing from a check of a leaf continues from the state that was checked. -/
theorem throughLeaf_bind_ok {s u : State} {ag : Agent} {k : AKind} {va : Word} {level : Nat} {e : Word} {l : Loc}
    {f : Loc → State → Act Loc} (h : (throughLeaf s ag k va level e).bind f = .ok l u) : ∃ r, f r s = .ok l u := by
  have hs := throughLeaf_state s ag k va level e
  cases hx : throughLeaf s ag k va level e with
  | ok r t =>
    rw [hx] at h hs
    obtain rfl : t = s := hs
    exact ⟨r, h⟩
  | trap | fault | wait => rw [hx] at h; cases h

theorem walkInstall_ok {s u : State} {ag : Agent} {k : AKind} {va : Word} {l : Loc} (h : walkInstall ag k va s = .ok l u) :
    ∃ level at_ d, ServesLeaf s ag va at_ ∧ installLeaf s ag va.toNat level at_ d = (true, u) := by
  unfold walkInstall at h
  split at h
  · split at h <;> cases h
  next hwalk =>
    obtain ⟨r, hr⟩ := throughLeaf_bind_ok h
    split at hr <;> cases hr
    next hinstall => exact ⟨_, _, _, .inr ⟨_, _, _, hwalk⟩, hinstall⟩

/-- A translation that succeeds leaves the state as it is, or installs the leaf that serves it. -/
theorem translate_ok {s u : State} {ag : Agent} {k : AKind} {va : Word} {l : Loc} (h : Machine.translate ag k va s = .ok l u) :
    u = s ∨ ∃ level at_ d, ServesLeaf s ag va at_ ∧ installLeaf s ag va.toNat level at_ d = (true, u) := by
  unfold Machine.translate at h
  split at h
  · have hw := translateWalk_state ag k va s
    rw [h] at hw
    exact .inl hw
  split at h
  · exact .inr (walkInstall_ok h)
  next t ht =>
    dsimp only at h
    split at h
    · exact .inr (walkInstall_ok h)
    obtain ⟨r, hr⟩ := throughLeaf_bind_ok h
    split at hr
    · cases hr
      exact .inl rfl
    · split at hr <;> cases hr
      next hinstall => exact .inr ⟨_, _, _, .inl ⟨t, ht, rfl⟩, hinstall⟩

/-- Without dirty logging a translation writes no byte outside the leaves that may serve it, and leaves the rest of the device alone. -/
theorem translate_of_dlog_off {s u : State} {ag : Agent} {k : AKind} {va : Word} {l : Loc}
    (hlog : ∀ c, s.cfg ag.part.val = some c → c.dlog = false) (hm : Memory.wf s.mem = true)
    (h : Machine.translate ag k va s = .ok l u) :
    u.dev.parts = s.dev.parts ∧ u.dev.dies = s.dev.dies ∧ u.dev.stalled = s.dev.stalled ∧
      ∀ x, (∀ at_, ServesLeaf s ag va at_ → x < at_ ∨ at_ + 8 ≤ x) → getByte u.mem x = getByte s.mem x := by
  obtain rfl | ⟨_, at_, _, hserves, hinstall⟩ := translate_ok h
  · exact ⟨rfl, rfl, rfl, fun _ _ => rfl⟩
  · obtain ⟨hparts, hdies, hstalled, hbytes⟩ := installLeaf_of_dlog_off hlog hm hinstall
    exact ⟨hparts, hdies, hstalled, fun x hx => hbytes x (hx at_ hserves)⟩

theorem translated_of_translate {s u : State} {ag : Agent} {k : AKind} {va : Word} {l : Loc}
    (h : Machine.translate ag k va s = .ok l u) : Translated s u := by
  obtain rfl | ⟨_, _, _, _, hinstall⟩ := translate_ok h
  · exact (DeviceWrote.refl u).translated
  · exact translated_installLeaf hinstall

/-- Settles O53: a translation that succeeds installs at most the one leaf that serves it. -/
theorem translationFrame : Obligations.TranslationFrame := by
  unfold Obligations.TranslationFrame
  intro ag k va s u l hm h
  have hquiet := fun hlog => translate_of_dlog_off hlog hm h
  obtain ⟨_, _, _, _, _, _, _, rfl⟩ := translated_of_translate h
  refine ⟨rfl, rfl, rfl, rfl, rfl, rfl, fun hlog => ?_⟩
  obtain ⟨hparts, hdies, hstalled, hbytes⟩ := hquiet hlog
  refine ⟨hparts, hdies, hstalled, fun x htlb hwalk => hbytes x fun at_ hserves => ?_⟩
  obtain ⟨t, ht, rfl⟩ | ⟨n, e, ts, he⟩ := hserves
  · exact htlb t ht
  · exact hwalk n e at_ ts he

end Sys2Proof.Proofs

/-! PROOF. Where a store to the own scratchpad goes (04 R113 R134, 14 R435). -/

namespace Sys2Proof.Proofs

open Sys2Proof.Machine Sys2Proof.Laws

/-- An access of a strand to a scratchpad that is still to be restored waits. -/
theorem locate_own_restoring {ag : Agent} {k : AKind} {load : Bool} {va : Word} {off : Nat} {s : State} (hva : region va = .own off)
    (hk : k ≠ .fetch) (hoff : off < (s.coreAt ag.core).spadSize) (hrest : s.restoring ag.core = true) :
    locate ag k load va s = .wait s := by
  simp only [locate, hva, hk, Nat.not_le.mpr hoff, hrest, decide_false, Bool.or_self, Bool.false_eq_true, if_false, if_true]

/-- The first block of an access that is not empty is at its address. -/
theorem blocksOf_head (va : Word) {n : Nat} (hn : n ≠ 0) : ∃ k rest, blocksOf va n = (va, k) :: rest := by
  simp only [blocksOf, spans, if_neg hn, List.map_cons, BitVec.ofNat_toNat, BitVec.setWidth_eq]
  exact ⟨_, _, rfl⟩

theorem locateAll_of_wait {ag : Agent} {k : AKind} {load : Bool} {va : Word} {n : Nat} {s : State} (hn : n ≠ 0)
    (h : locate ag k load va s = .wait s) : locateAll ag k load va n s = .wait s := by
  obtain ⟨_, _, hb⟩ := blocksOf_head va hn
  simp only [locateAll, hb, Act.mapM, h, Act.map, Act.bind]

/-- A store to the own scratchpad waits while PSWAP has still to restore it, and is not held (14 R435). -/
theorem storePieces_own_restoring {n off : Nat} {va : Word} {bs : List Byte} {s : State} (hlen : bs.length = n) (hn : n ≠ 0)
    (halign : va.toNat % n = 0) (htx : s.core.tx = none) (hva : region va = .own off) (hoff : off < s.core.spadSize)
    (hrest : s.restoring s.core.id = true) : storePieces none n n [(va, bs)] s = .wait s := by
  have hcheck : pieceFault none n va n = none := by simp [pieceFault, hva, halign]
  have haperture : s.txAperture none n [(va, n)] = false := by simp [State.txAperture, htx]
  have hlocate : locate (strandAgent s s.scopeNow) .write false va s = .wait s :=
    locate_own_restoring hva (by decide) (by rwa [strandAgent, coreAt_self]) hrest
  simp only [storePieces, storeAt, List.map_cons, List.map_nil, hlen, haperture, Bool.false_eq_true, if_false, locatePieces,
    Act.mapM, hcheck, locateAll_of_wait hn hlocate, Act.map, Act.bind]

/-- A machine whose first core's scratchpad is still to be restored. -/
def restoringState : State := State.reset.modPart 0 fun p => { p with restoring := [(firstCore, 0)] }

/-- Refutes O55: the statement leaves out that the scratchpad may still have to be restored after a PSWAP; a store to it then waits (14 R435),
where the statement has it held. -/
theorem not_storeFrame : ¬ Obligations.StoreFrame := by
  unfold Obligations.StoreFrame
  rintro ⟨hheld, -⟩
  have hva : region 0xF000000000000000 = .own 0 := by decide
  have hoff : 0 < restoringState.core.spadSize := by decide
  have hwaits : storePieces none 1 1 [(0xF000000000000000, [0])] restoringState = .wait restoringState :=
    storePieces_own_restoring rfl Nat.one_ne_zero (by decide) rfl hva hoff (by decide)
  have hok := hheld 1 0xF000000000000000 [0] 0 restoringState (by simp) rfl (by decide) rfl hva hoff (by decide)
  rw [hwaits] at hok
  cases hok

end Sys2Proof.Proofs

/-! PROOF. The events of the units, and of faults and writes that wait for software (04 R118 R119 R122 R125 R126 R128, 07 R222, 14 R435 R436
R458). -/

namespace Sys2Proof.Proofs

open Sys2Proof.Machine Sys2Proof.Laws

/-- Settles O27: each event is the branch of its meaning that its condition selects. -/
theorem unitEvents : Obligations.UnitEvents := by
  unfold Obligations.UnitEvents
  intro s
  refine ⟨?waits, ?completes, fun _ => rfl, ?restores⟩
  case waits => exact fun hwaits => if_pos hwaits
  case completes => exact fun hfree => ⟨_, rfl, if_neg (Bool.eq_false_iff.mp hfree)⟩
  case restores =>
    intro p c k rest g w hpart hrest hcfg harea
    change execPswapScratchpadRestore s = _
    simp only [execPswapScratchpadRestore, hpart, hrest, hcfg, harea, Option.map_some]

/-! The translation-fault ring (04 R119, 14 R436). -/

/-- A reply of 1 lets the access be made again. -/
theorem execFaultReplyPoll_retry {w : Waiter} {s : State} {f : PendingFault} {i : Nat} (hw : waiterPending w s = some f)
    (hring : f.ring = some i) (hreply : (replyOf (waiterPart w s) i s).1 = 1) :
    execFaultReplyPoll w s = .next (waiterRetry w (replyOf (waiterPart w s) i s).2) := by
  simp only [execFaultReplyPoll, hw, hring, hreply, Nat.one_ne_zero, if_true, if_false]

/-- Any other reply than 0 and 1 delivers the fault. -/
theorem execFaultReplyPoll_deliver {w : Waiter} {s : State} {f : PendingFault} {i : Nat} (hw : waiterPending w s = some f)
    (hring : f.ring = some i) (hreply : 2 ≤ (replyOf (waiterPart w s) i s).1) :
    execFaultReplyPoll w s = .next (waiterDeliver w f (replyOf (waiterPart w s) i s).2) := by
  have hzero : (replyOf (waiterPart w s) i s).1 ≠ 0 := by omega
  have hone : (replyOf (waiterPart w s) i s).1 ≠ 1 := by omega
  simp only [execFaultReplyPoll, hw, hring, hzero, hone, if_false]

theorem repost_done {f : PendingFault} {unit i : Nat} {keep : PendingFault → State → State} {s u : State} (hf : f.ring = none)
    (hpost : postRing s s.core.partOf 1 false (tfEntry s f unit) = (.done i, u)) :
    repost f unit keep s = keep { f with ring := some i } u := by
  simp only [repost, hf, hpost, Option.isSome_none, Bool.false_eq_true, if_false]

theorem stallFetch_done {p : Fin 8} {k i : Nat} {f : PendingFault} {q : CmdQueue} {s u : State} (hq : s.cq p k = some q)
    (hpost : postRing s p 1 false (fetchEntry q f s.clock) = (.done i, u)) :
    stallFetch p k f s = u.modCq p k fun q => { q with fault := some { f with ring := some i } } := by
  simp only [stallFetch, hq, hpost]

theorem stallPickup_done {p : Fin 8} {pipe k i : Nat} {at_ : Word} {f : PendingFault} {s u : State}
    (hpost : postRing s p 1 false (unitEntry (unitId k 0) f s.clock) = (.done i, u)) :
    stallPickup p pipe at_ k f s = u.modPipe p pipe fun x =>
      { x with misses := (x.misses.filter fun m => m.1 != at_) ++ [(at_, k, { f with ring := some i })] } := by
  simp only [stallPickup, hpost]

/-! Stalled writes, areas and notifications (04 R118 R125 R126 R128, 14 R458). -/

/-- A dirty ring that was full and has room lets the stalled write go on (04 R128). -/
theorem execDirtyRingResume_room {s u : State} {c : PartCfg} {k : Nat} (hcfg : s.cfg s.core.partOf.val = some c)
    (harea : areaKey s s.core.partOf 4 (c.areas.getD 4 0) = (some k, u)) (hfull : (u.part s.core.partOf.val).dringFull = true)
    (hroom : u.peekNat k 8 - u.peekNat (k + 8) 8 < (2 ^ c.log2s.getD 4 0 - 64) / 8) :
    execDirtyRingResume s = execWriteBlockRetry (u.modPart s.core.partOf.val fun q => { q with dringFull := false }) := by
  simp only [execDirtyRingResume, hcfg, harea, hfull, Nat.not_le.mpr hroom, Bool.not_true, Bool.false_eq_true, or_self, if_false]

theorem execConfigAreaWalkRetry_down {p : Fin 8} {a : Fin 6} {s : State} {c : PartCfg} (hcfg : s.cfg p.val = some c)
    (hdown : (s.part p.val).areaDown.getLsbD a.val = true) :
    execConfigAreaWalkRetry p a s = .next (areaKey s p a (c.areas.getD a 0)).2 := by
  simp only [execConfigAreaWalkRetry, hcfg, hdown, if_true]

/-- A die's monitor with entry `idx` as given. -/
def putMonitor (die : Fin 4) (idx : Fin 4096) (e : MonEntry) (s : State) : State :=
  s.modDie die fun d => { d with monitor := sput d.monitor idx e }

/-- The entry of a crossed counter in the tier-notification ring (04 R126). -/
def tierEntry (die : Fin 4) (idx : Fin 4096) (e : MonEntry) : List Byte :=
  b8 (BitVec.ofNat 64 (e.page.toNat / 65536 * 65536)) ++ toBytes 2 e.count.toNat ++ [BitVec.ofNat 8 e.part, BitVec.ofNat 8 die] ++
    toBytes 4 idx

/-- A crossing that has been notified before posts nothing. -/
theorem execTierNotify_again {die : Fin 4} {idx : Fin 4096} {s : State} {e : MonEntry} (hfind : sfind (s.die die).monitor idx = some e)
    (hcrossed : e.crossed = true) (hnotified : e.notified = true) :
    execTierNotify die idx s = .next (putMonitor die idx { e with crossed := false } s) := by
  simp only [execTierNotify, hfind, hcrossed, hnotified, Bool.not_true, Bool.false_eq_true, if_false, if_true, putMonitor]

/-- The first crossing posts one entry. -/
theorem execTierNotify_first {die : Fin 4} {idx : Fin 4096} {s : State} {e : MonEntry} (hfind : sfind (s.die die).monitor idx = some e)
    (hcrossed : e.crossed = true) (hnotified : e.notified = false) : execTierNotify die idx s =
      .next (putMonitor die idx { e with notified := true, crossed := false } (postRing s e.part 2 true (tierEntry die idx e)).2) := by
  simp only [execTierNotify, hfind, hcrossed, hnotified, Bool.not_true, Bool.false_eq_true, if_false, putMonitor, tierEntry]

/-- Settles O36, event by event: the reply decides, a post that finds room keeps its place in the ring, and what waited goes on. UNIT in a
strand's entry (log 17) and in a pickup's (log 124) is the model's choice. -/
theorem faultEvents : Obligations.FaultEvents := by
  unfold Obligations.FaultEvents
  intro s w f
  refine ⟨?reply, ?post, fun hclosing => if_pos hclosing, fun hopen => if_neg (Bool.eq_false_iff.mp hopen), ?resume, ?area, ?notify⟩
  case reply => exact fun hw i hring => ⟨execFaultReplyPoll_retry hw hring, execFaultReplyPoll_deliver hw hring⟩
  case post =>
    intro i u hring
    refine ⟨fun hf hpost => ?strand, fun q hf hpost => ?engine, fun p k q hq hf hpost => ?fetcher,
      fun p pipe at_ k z hz hmiss hpost => ?pickup⟩
    case strand =>
      change execTfringPostRetry .strand s = _
      simp only [execTfringPostRetry, waiterPending, hf, repost_done hring hpost]
    case engine =>
      change execTfringPostRetry (.engine q) s = _
      simp only [execTfringPostRetry, waiterPending, hf, repost_done hring hpost]
    case fetcher =>
      change execTfringPostRetry (.fetcher p k) s = _
      simp only [execTfringPostRetry, waiterPending, hq, Option.bind_some, hf, hring, stallFetch_done hq hpost,
        Option.isSome_none, Bool.false_eq_true, if_false]
    case pickup =>
      change execTfringPostRetry (.pickup p pipe at_) s = _
      simp only [execTfringPostRetry, waiterPending, hz, Option.bind_some, hmiss, Option.map_some, hring, stallPickup_done hpost,
        Option.isSome_none, Bool.false_eq_true, if_false]
  case resume =>
    intro c k u hcfg harea hfull hroom v
    have hresume : exec .dirtyRingResume s = execWriteBlockRetry v := execDirtyRingResume_room hcfg harea hfull hroom
    rw [hresume, execWriteBlockRetry]
    split <;> rfl
  case area => exact fun p a c => execConfigAreaWalkRetry_down
  case notify =>
    intro die idx e hfind hcrossed put
    exact ⟨execTierNotify_again hfind hcrossed, execTierNotify_first hfind hcrossed⟩

end Sys2Proof.Proofs

/-! PROOF. What the accesses of the L slot leave of their strand: its mode, its beat, what its x fields read, and its replay. -/

namespace Sys2Proof.Proofs

open Sys2Proof.Machine Sys2Proof.Laws Sys2Proof.Safety

/-- The strand reads the same from its x fields, and replays the same. -/
structure SameStrand (s u : State) : Prop where
  mode : u.core.mode = s.core.mode
  beat : u.core.beat = s.core.beat
  y : u.core.y = s.core.y
  x : u.core.r.x = s.core.r.x
  replay : u.core.replay = s.core.replay

namespace SameStrand

variable {s t u : State}

theorem refl (s : State) : SameStrand s s := ⟨rfl, rfl, rfl, rfl, rfl⟩

theorem trans (h : SameStrand s t) (h' : SameStrand t u) : SameStrand s u :=
  ⟨h'.mode.trans h.mode, h'.beat.trans h.beat, h'.y.trans h.y, h'.x.trans h.x, h'.replay.trans h.replay⟩

theorem of_core (h : u.core = s.core) : SameStrand s u := by constructor <;> rw [h]

theorem x_eq (h : SameStrand s u) (b : Fin 64) : u.x b = s.x b := by
  unfold State.x Core.readX Core.xname Core.yLive
  rw [h.mode, h.beat, h.y, h.x]

theorem of_deviceWrote (h : DeviceWrote s u) : SameStrand s u := by
  obtain ⟨_, _, _, _, rfl⟩ := h
  exact of_core rfl

theorem of_translated (h : Translated s u) : SameStrand s u := by
  obtain ⟨_, _, _, _, _, _, _, rfl⟩ := h
  exact ⟨rfl, rfl, rfl, rfl, rfl⟩

theorem modCir (s : State) (w : Word) : SameStrand s { s with core := { s.core with cir := w } } := ⟨rfl, rfl, rfl, rfl, rfl⟩
theorem modTx (s : State) (tx : Option Tx) : SameStrand s { s with core := { s.core with tx := tx } } := ⟨rfl, rfl, rfl, rfl, rfl⟩
theorem modSr (s : State) (f : StrandRegs → StrandRegs) : SameStrand s (s.modSr f) := ⟨rfl, rfl, rfl, rfl, rfl⟩
theorem modWin (s : State) (f : Window → Window) : SameStrand s (s.modWin f) := ⟨rfl, rfl, rfl, rfl, rfl⟩

theorem foldl {α : Type} {f : State → α → State} (hf : ∀ s a, SameStrand s (f s a)) (l : List α) (s : State) :
    SameStrand s (l.foldl f s) := by
  induction l generalizing s with
  | nil => exact refl s
  | cons a l ih => exact (hf s a).trans (ih _)

theorem ite {c : Prop} [Decidable c] (h : SameStrand s t) (h' : SameStrand s u) : SameStrand s (if c then t else u) :=
  ite_both h h'

end SameStrand

/-! The L1s and the accesses of others (04 R127 R145, 12 R386). -/

theorem markBack_core (ks : List Nat) (s : State) : (s.markBack ks).core = s.core := by
  unfold State.markBack
  induction ks generalizing s with
  | nil => rfl
  | cons k ks ih =>
    refine (ih _).trans ?_
    dsimp only
    split
    · obtain ⟨_, _, _, _, h⟩ := DeviceWrote.markPosted 3 true ‹_› s [k]
      rw [h]
    · rfl

theorem SameStrand.writeBackL1 (s : State) (inside p : Nat → Bool) : SameStrand s (s.writeBackL1 inside p) := by
  unfold State.writeBackL1
  dsimp only
  split
  · exact refl s
  · rw [markBack_core]
    split <;> exact ⟨rfl, rfl, rfl, rfl, rfl⟩

theorem SameStrand.noteAccess (s : State) (core : Nat) (self : Option Nat) (sc key : Nat) (write : Bool) :
    SameStrand s (noteAccess s core self sc key write) := by
  unfold Machine.noteAccess
  dsimp only
  have hclean : SameStrand s (if write && sc != 0 then s.cleanBlock (fun _ => true) key else s) := ite (writeBackL1 ..) (refl s)
  refine hclean.trans ?_
  generalize (if write && sc != 0 then s.cleanBlock (fun _ => true) key else s) = t
  split
  · exact refl t
  · split <;> exact ⟨rfl, rfl, rfl, rfl, rfl⟩

/-! The transaction's footprint and promotion (04 R145, 12 R384 R386). -/

theorem SameStrand.txDue (s : State) (reason : Fin 8) (code cause : BitVec 8) : SameStrand s (s.txDue reason code cause) := by
  obtain ⟨tx, h⟩ := txDue_eq s reason code cause
  rw [h]
  exact modTx s tx

theorem SameStrand.txTouch (s : State) (write : Bool) (key : Nat) : SameStrand s (s.txTouch write key) := by
  unfold State.txTouch
  split
  · exact refl s
  · dsimp only
    exact ite ((modTx s _).trans ((modSr ..).trans (txDue ..))) ((modTx s _).trans (modSr ..))

theorem SameStrand.txPlace (s : State) (va : Word) (l : Loc) : SameStrand s (s.txPlace va l) := by
  unfold State.txPlace
  split
  · exact txDue ..
  · exact ite (txDue ..) (refl s)

theorem SameStrand.promote (s : State) (key : Nat) : SameStrand s (s.promote key) :=
  ite (writeBackL1 ..) (refl s)

theorem SameStrand.touchRead (ag : Agent) (bs : List (Word × Loc)) (s : State) : SameStrand s (touchRead ag bs s) := by
  have hcount : ∀ t, SameStrand t (countReads ag bs t) := fun t => foldl (fun s _ => ite (of_core (by rfl)) (refl s)) bs t
  refine trans (foldl (fun s x => ?_) bs s) (hcount (noteReads ag bs s))
  have hnote : SameStrand s (if s.core.tx.isSome then s else Machine.noteAccess s ag.core (some ag.core) ag.scope x.2.key false) :=
    ite (refl s) (noteAccess ..)
  exact ((hnote.trans (txTouch ..)).trans (txPlace ..)).trans (promote ..)

/-! Loads (06 R190, 12 R362). -/

theorem SameStrand.consume (s : State) (bit : Nat) : SameStrand s (s.consume bit) := modCir s _

theorem SameStrand.notePoison (ls : List (Word × Nat × Loc)) (s : State) : SameStrand s (notePoison ls s) := by
  unfold Machine.notePoison
  dsimp only
  have hnear : ∀ near : Bool, SameStrand s (if near then s.consume 0 else s) := fun _ => ite (consume s 0) (refl s)
  split
  · exact ((hnear _).trans (consume _ 2)).trans (of_deviceWrote (.report ..))
  · exact hnear _

theorem SameStrand.keepLoads (s : State) (ls : List (Word × Nat × Nat)) : SameStrand s (s.keepLoads ls) := by
  unfold State.keepLoads
  split
  · exact modTx s _
  · exact modWin s fun w => { w with held := w.held ++ ls.map fun x => s.loadItem x.1 x.2.1 x.2.2 }

theorem SameStrand.noteLoad (s : State) (va : Word) (bs : List Byte) : SameStrand s (s.noteLoad va bs) := by
  unfold State.noteLoad
  split
  · exact modTx s _
  · exact refl s

theorem SameStrand.recordInput (s : State) (sub : Nat) (data : List Byte) : SameStrand s (s.recordInput sub data) :=
  ite (modWin ..) (refl s)

/-- An access that goes on leaves the strand as it was. -/
def Stands {α : Type} (s : State) (a : Act α) : Prop := ∀ v u, a = .ok v u → SameStrand s u

namespace Stands

variable {α β : Type} {s : State}

theorem ok {v : α} {u : State} (h : SameStrand s u) : Stands s (.ok v u) := fun _ _ he => by cases he; exact h

theorem bind {a : Act α} {f : α → State → Act β} (ha : Stands s a) (hf : ∀ v u, Stands u (f v u)) : Stands s (a.bind f) := by
  cases a with
  | ok v t => exact fun w u he => (ha v t rfl).trans (hf v t w u he)
  | trap | fault | wait => intro _ _ he; cases he

theorem map {a : Act α} {f : α → β} (ha : Stands s a) : Stands s (a.map f) := ha.bind fun _ u => ok (.refl u)

theorem mapM {f : α → State → Act β} (hf : ∀ x t, Stands t (f x t)) (l : List α) (s : State) : Stands s (Act.mapM f l s) := by
  induction l generalizing s with
  | nil => exact ok (.refl s)
  | cons x l ih => exact (hf x s).bind fun _ t => (ih t).map

end Stands

theorem stands_locate {ag : Agent} {k : AKind} {load : Bool} {va : Word} {s : State} : Stands s (locate ag k load va s) := by
  intro l u h
  unfold locate at h
  split at h
  · cases h
  · exact .of_translated (translated_of_translate h)
  · split at h
    · cases h
    · split at h <;> cases h
      exact .refl s
  · dsimp only at h
    split at h
    · cases h
    · split at h <;> cases h
      exact .refl s

theorem stands_locatePieces {ag : Agent} {k : AKind} {load : Bool} {base : Option Word} {al : Nat} {ps : List (Word × Nat)}
    {s : State} : Stands s (locatePieces ag k load base al ps s) := by
  refine Stands.map (Stands.mapM (fun p t => ?_) ps s)
  split
  · intro _ _ h; cases h
  · exact Stands.mapM (fun _ _ => stands_locate.map) (blocksOf p.1 p.2) t

theorem stands_watch {ps : List (Word × Nat)} {rd wr : Bool} {s : State} : Stands s (watch ps rd wr s) := by
  unfold watch
  split
  · intro _ _ h; cases h
  · exact .ok (.refl s)

theorem stands_loadPieces {base : Option Word} {al : Nat} {ps : List (Word × Nat)} {s : State} : Stands s (loadPieces base al ps s) :=
  stands_locatePieces.bind fun ls _ => stands_watch.bind fun _ u =>
    Stands.ok (((SameStrand.notePoison ls u).trans (.touchRead ..)).trans (.keepLoads ..))

theorem out_of_ok {α : Type} {a : Act α} {v : α} {u : State} (h : a = .ok v u) (kind : AKind) (f : α → State → Ends) :
    a.out kind f = f v u := by rw [h]; rfl

/-- A load whose bytes are met goes on with them, and leaves the strand as its access does (12 R362 R374 R388). -/
theorem loadMeets_goesOn {va : Word} {a : State → Act (List Byte)} {s u : State} {bs : List Byte}
    (h : loadMeets va a s = some (bs, u)) (f : List Byte → State → Ends) :
    loadOut va a s f = f bs u ∧ ((∀ t, Stands t (a t)) → SameStrand s u) := by
  unfold loadMeets at h
  unfold loadOut withInput
  extract_lets plain at h
  have hplain : ∀ {r}, plain = some r → a s = .ok r.1 r.2 := by
    unfold plain
    intro r hr
    split at hr <;> cases hr
    assumption
  by_cases htx : s.core.tx.isSome = true
  · rw [if_pos htx] at h ⊢
    cases hgiven : txGiven s <;> rw [hgiven] at h
    all_goals
      obtain ⟨r, hr, hbs⟩ := Option.map_eq_some_iff.mp h
      cases hbs
      exact ⟨out_of_ok (hplain hr) .read _, fun hs => (hs s _ _ (hplain hr)).trans (.noteLoad ..)⟩
  rw [if_neg htx] at h ⊢
  by_cases hscope : s.loadScope va = 4
  · rw [if_pos hscope] at h ⊢
    cases hin : s.input 3 <;> rw [hin] at h
    case live =>
      obtain ⟨r, hr, hbs⟩ := Option.map_eq_some_iff.mp h
      cases hbs
      exact ⟨out_of_ok (hplain hr) .read _, fun hs => (hs s _ _ (hplain hr)).trans (.recordInput ..)⟩
    case given => cases h; exact ⟨rfl, fun _ => .recordInput ..⟩
    case diverged => cases h
  · rw [if_neg hscope] at h ⊢
    exact ⟨out_of_ok (hplain h) .read _, fun hs => hs s bs u (hplain h)⟩

theorem loadOut_of_meets {va : Word} {a : State → Act (List Byte)} {s u : State} {bs : List Byte}
    (h : loadMeets va a s = some (bs, u)) (f : List Byte → State → Ends) : loadOut va a s f = f bs u := (loadMeets_goesOn h f).1

theorem SameStrand.of_meets {va : Word} {a : State → Act (List Byte)} {s u : State} {bs : List Byte}
    (h : loadMeets va a s = some (bs, u)) (ha : ∀ t, Stands t (a t)) : SameStrand s u := (loadMeets_goesOn h fun _ => .next).2 ha

end Sys2Proof.Proofs

/-! PROOF. Loads and stores of the L slot (06 R188 to R196). -/

namespace Sys2Proof.Proofs

open Sys2Proof.Machine Sys2Proof.Laws Sys2Proof.Safety

/-! Scalar loads and stores (06 R188 R192). -/

/-- A word of 64 bits is its own extension. -/
theorem sext64_word : sext64 64 = BitVec.ofNat 64 := by
  funext v
  apply BitVec.eq_of_toNat_eq
  simp only [sext64, sint, BitVec.toNat_ofInt, BitVec.toNat_ofNat]
  split <;> omega

theorem exec_of_loadForm {i : Instr} {n : Nat} {ext : Nat → Word} {d b : Fin 64} {disp : Fin 4096}
    (h : loadForm i = some (n, ext, d, b, disp)) (s : State) : exec i s = loadScalar i n ext d b disp s := by
  cases i with
  | ldB | ldH | ldW | ldnB | ldnH | ldnW => cases h; unfold exec; rfl
  | ldD => cases h; rw [← sext64_word]; unfold exec; rfl
  | _ => cases h

theorem exec_of_storeForm {i : Instr} {n : Nat} {d b : Fin 64} {disp : Fin 4096}
    (h : storeForm i = some (n, d, b, disp)) (s : State) : exec i s = storeScalar i n d b disp s := by
  cases i with
  | stB | stH | stW | stD => cases h; unfold exec; rfl
  | _ => cases h

theorem loadScalar_of_meets {i : Instr} {n : Nat} {ext : Nat → Word} {d b : Fin 64} {disp : Fin 4096} {s t u : State} {bs : List Byte}
    (hpass : slotPasses i s = true) (ht : staleReads s i = t)
    (hname : (∀ k, t.core.xname d ≠ .y k) ∨ isOwn (t.ea b disp n) = true)
    (hmeets : loadMeets (t.ea b disp n) (loadPieces none n [(t.ea b disp n, n)]) t = some (bs, u)) :
    loadScalar i n ext d b disp s = xresult (loadLat (t.ea b disp n)) d (ext (ofBytes bs)) u := by
  rw [loadScalar, slotOp_passes hpass, ht]
  dsimp only
  split
  next k _ hk =>
    have hown : isOwn (t.ea b disp n) = true := hname.resolve_left fun h => h k hk
    rw [if_neg (by simp [hown]), loadOut_of_meets hmeets]
  next => exact loadOut_of_meets hmeets _

/-- Settles O4: each scalar load is `loadScalar` of its form. -/
theorem scalarLoads : Obligations.ScalarLoads := by
  unfold Obligations.ScalarLoads
  intro i s u n ext d b disp bs hpass hform t va hname hmeets
  exact (exec_of_loadForm hform s).trans (loadScalar_of_meets hpass rfl hname hmeets)

/-- Settles O5: each scalar store is `storeScalar` of its form. -/
theorem scalarStores : Obligations.ScalarStores := by
  unfold Obligations.ScalarStores
  intro i s u n d b disp hpass hform t hstore
  rw [exec_of_storeForm hform, storeScalar, slotOp_passes hpass]
  exact out_of_ok hstore .write _

/-! Tags (06 R193). -/

/-- Settles O6: LDTAG is a load of the metadata word, STTAG holds its store where a place for the tag is found. -/
theorem tagAccesses : Obligations.TagAccesses := by
  unfold Obligations.TagAccesses
  intro g d b disp s u
  refine ⟨?ldtag, ?sttag⟩
  case ldtag =>
    intro bs hpass t va hname hmeets
    rw [show exec (.ldtag g d b disp) s = execLdtag g d b disp s from rfl, execLdtag, slotOp_passes hpass]
    dsimp only
    split
    next k _ hk =>
      have hown : isOwn va = true := hname.resolve_left fun h => h k hk
      exact (if_neg (show ¬(!isOwn va) = true by rw [hown]; decide)).trans (loadOut_of_meets hmeets _)
    next => exact loadOut_of_meets hmeets _
  case sttag =>
    intro l hpass t va hplace
    rw [show exec (.sttag g d b disp) s = execSttag g d b disp s from rfl, execSttag, slotOp_passes hpass]
    exact out_of_ok hplace .write _

/-! Lines (06 R194). -/

/-- A line load reads its pieces and delivers one element to each lane; LDV finds its base as it was before its accesses. -/
theorem exec_lineLoad {i : Instr} {s u : State} {m : Line} {va base : Word} {ps : List (Word × Nat)} {bs : List Byte}
    (hpass : slotPasses i s = true) (hi : isLineLoad i = true) (hform : lineForm i (staleReads s i) = some (m, va, base, ps))
    (hmeets : loadMeets va (loadPieces (some base) 4 ps) (staleReads s i) = some (bs, u)) :
    exec i s = .next (u.result (loadLat base)
      (.cells m.m ((List.range 32).map fun j => (lineKey m j, (BitVec.ofNat 32 (field bs (4 * j) 4) : W32)))) []) := by
  cases i with
  | ldv g m b disp =>
    cases hform
    rw [show exec (.ldv g m b disp) s = execLdv g m b disp s from rfl, execLdv, slotOp_passes hpass]
    refine (loadOut_of_meets hmeets _).trans ?_
    rw [(SameStrand.of_meets hmeets fun _ => stands_loadPieces).x_eq b]
  | ldvs | ldg =>
    cases hform
    unfold exec
    exact (slotOp_passes hpass _).trans (loadOut_of_meets hmeets _)
  | _ => cases hi

theorem exec_lineStore {i : Instr} {s : State} {m : Line} {va base : Word} {ps : List (Word × Nat)} (hpass : slotPasses i s = true)
    (hi : isLineLoad i = false) (hform : lineForm i (staleReads s i) = some (m, va, base, ps)) :
    exec i s = storeLine base m ps (staleReads s i) := by
  cases i with
  | stv | stvs | stg => cases hform; unfold exec; exact slotOp_passes hpass _
  | ldv | ldvs | ldg => cases hi
  | _ => cases hform

/-- Settles O7: the three line loads differ in their pieces only. -/
theorem lineLoads : Obligations.LineLoads := by
  unfold Obligations.LineLoads
  intro i s u m va base ps bs hpass hi hform hmeets
  exact exec_lineLoad hpass hi hform hmeets

/-- Settles O8: the three line stores differ in their pieces only. -/
theorem lineStores : Obligations.LineStores := by
  unfold Obligations.LineStores
  intro i s u m va base ps hpass hi hform hstore
  rw [exec_lineStore hpass hi hform, storeLine]
  exact out_of_ok hstore .write _

/-- Settles O9: LDX with a sound pattern is a load of the bytes that hold some used bit. -/
theorem extractionLoads : Obligations.ExtractionLoads := by
  unfold Obligations.ExtractionLoads
  intro g m b k s u bs hpass t lanes hpattern hmeets
  rw [show exec (.ldx g m b k) s = execLdx g m b k s from rfl, execLdx, slotOp_passes hpass]
  exact (if_neg (by simpa using hpattern)).trans (loadOut_of_meets hmeets _)

end Sys2Proof.Proofs

/-! PROOF. Atomics of the L slot (06 R197 R198, 12 R357 R384 R386). -/

namespace Sys2Proof.Proofs

open Sys2Proof.Machine Sys2Proof.Laws Sys2Proof.Safety

/-- What an atomic on an old value writes, if anything, and its events. -/
def atomicStep (i : Instr) (s : State) (old : Nat) : Option Nat × List LogEvent := (atomicValue i s old).getD (none, [])

theorem exec_of_atomicForm {i : Instr} {n : Nat} {d b : Fin 64} {disp : Fin 4096} (h : atomicForm i = some (n, d, b, disp))
    (s : State) : exec i s = atomic i n d b disp (atomicStep i) s := by
  cases i with
  | aadd | aand | aor | axor | amin | amax | aminn | amaxn | axchg | acas | afadd => cases h; unfold exec; rfl
  | _ => cases h

theorem atomicStep_of_value {i : Instr} {s : State} {old : Nat} {r : Option Nat × List LogEvent} (h : atomicValue i s old = some r) :
    atomicStep i s old = r := by
  rw [atomicStep, h, Option.getD_some]

section
variable {i : Instr} {s t u : State} {n : Nat} {d b : Fin 64} {disp : Fin 4096} {f : State → Nat → Option Nat × List LogEvent}

/-- A transaction's atomic in the cluster aperture aborts it as UNSUPPORTED (12 R384). -/
theorem atomic_aperture (hpass : slotPasses i s = true) (ht : staleReads s i = t)
    (h : t.txAperture none n [(t.ea b disp n, n)] = true) : atomic i n d b disp f s = .next (t.txDue 4 0 0) := by
  rw [atomic, slotOp_passes hpass, ht]
  exact if_pos h

theorem txAtomic_live (h : s.core.replay = none) (x : Tx) : txAtomic s x = none := by
  rw [txAtomic, h]
  rfl

end

/-! An atomic outside a replay whose place is found (12 R357 R386). -/

section
variable {i : Instr} {s u : State} {n : Nat} {d b : Fin 64} {disp : Fin 4096} {f : State → Nat → Option Nat × List LogEvent}
variable {l : Loc} {es : List LogEvent} {new : Nat}

/-- The atomic's place is found, and nothing of a record stands in for what it meets. -/
structure FindsPlace (i : Instr) (s : State) (n : Nat) (va : Word) (l : Loc) (u : State) : Prop where
  pass : slotPasses i s = true
  aperture : (staleReads s i).txAperture none n [(va, n)] = false
  place : atomicPlace va n (staleReads s i) = .ok l u
  replay : u.core.replay = none

theorem FindsPlace.goesOn {va : Word} (h : FindsPlace i s n va l u) (aborts : Ends) (f : Loc → State → Ends) :
    (if (staleReads s i).txAperture none n [(va, n)] then aborts else (atomicPlace va n (staleReads s i)).out .atomic f) = f l u :=
  (if_neg (Bool.eq_false_iff.mp h.aperture)).trans (out_of_ok h.place .atomic f)

/-- The old value, as the strand sees it. -/
def oldValue (n : Nat) (l : Loc) (u : State) : Nat := ofBytes (u.viewBytes l.key n)

/-- The old value is the atomic's interlocked result. -/
def returnsOld (n : Nat) (l : Loc) (u : State) (d : Fin 64) (es : List LogEvent) (v : State) : Ends :=
  .next (v.result none (.x d (BitVec.ofNat 64 (oldValue n l u))) es)

/-- What a transaction's atomic leaves: its write held for the commit, or an entry of it that holds no bytes (12 R386). -/
def heldAtomic (va : Word) (n : Nat) (l : Loc) (written : Option Nat) (r : State) : State :=
  match written with
  | none => r.hold [atomicStore va l n [] r]
  | some new => (touchWrite [(va, l)] r).hold [atomicStore va l n (toBytes n new) r]

theorem atomic_inTx {written : Option Nat} (h : FindsPlace i s n ((staleReads s i).ea b disp n) l u) (htx : u.core.tx.isSome = true)
    (hf : f u (oldValue n l u) = (written, es)) :
    let va := (staleReads s i).ea b disp n
    atomic i n d b disp f s = returnsOld n l u d es (heldAtomic va n l written (touchRead u.agent [(va, l)] u)) := by
  unfold oldValue at hf
  rw [atomic, slotOp_passes h.pass]
  refine (h.goesOn _ _).trans ((dif_pos htx).trans ?_)
  simp only [txAtomic_live h.replay, hf]
  cases written <;> rfl

section
variable (h : FindsPlace i s n ((staleReads s i).ea b disp n) l u) (htx : u.core.tx = none)
include h htx

/-- Outside a transaction a comparison that fails writes nothing (06 R198). -/
theorem atomic_unmatched (hf : f u (oldValue n l u) = (none, es)) :
    let va := (staleReads s i).ea b disp n
    atomic i n d b disp f s =
      returnsOld n l u d es ((touchRead u.agent [(va, l)] u).noteAtomic va n l.far (oldValue n l u) (oldValue n l u)) := by
  have hnow : ¬u.core.tx.isSome = true := by simp [htx]
  unfold oldValue at hf
  rw [atomic, slotOp_passes h.pass]
  refine (h.goesOn _ _).trans ((dif_neg hnow).trans ?_)
  simp only [h.replay, hf, Option.isSome_none, Bool.false_and, Bool.false_eq_true, if_false]
  rfl

/-- Outside a transaction a write that no dirty bit holds up is performed at once (06 R197, 12 R357). -/
theorem atomic_performed {v : State} (hf : f u (oldValue n l u) = (some new, es)) :
    let va := (staleReads s i).ea b disp n
    let r := touchRead u.agent [(va, l)] u
    performRun r.agent (some r.core.id) l.key (toBytes n new) (r.noteL1 r.core.id (mayCache r.scopeNow l) l.key n) = (true, v) →
    atomic i n d b disp f s = returnsOld n l u d es (v.noteAtomic va n l.far (oldValue n l u) new) := by
  intro va r hrun
  have hnow : ¬u.core.tx.isSome = true := by simp [htx]
  have hr : (touchRead u.agent [((staleReads s i).ea b disp n, l)] u).core.replay = none :=
    (SameStrand.touchRead ..).replay.trans h.replay
  unfold oldValue at hf
  rw [atomic, slotOp_passes h.pass]
  refine (h.goesOn _ _).trans ((dif_neg hnow).trans ?_)
  simp only [h.replay, hr, hf, Option.isSome_none, Bool.false_and, Bool.false_eq_true, if_false]
  rw [hrun]
  rfl

end

end

/-- Settles O10: each atomic is `atomic` of its form; inside a transaction its write is held, outside one it is performed at once. -/
theorem atomics : Obligations.Atomics := by
  unfold Obligations.Atomics
  intro i s u n d b disp l es hpass hform t va
  have hexec := exec_of_atomicForm hform s
  refine ⟨fun haperture => hexec.trans (atomic_aperture hpass rfl haperture), fun haperture hplace hreplay => ?_⟩
  intro old r returns
  have h : FindsPlace i s n va l u := ⟨hpass, haperture, hplace, hreplay⟩
  refine ⟨fun new hvalue => ⟨fun v htx hrun => ?_, fun htx => ?_⟩, fun hvalue => ⟨fun htx => ?_, fun htx => ?_⟩⟩
  · exact hexec.trans (atomic_performed h htx (atomicStep_of_value hvalue) hrun)
  · exact hexec.trans (atomic_inTx h htx (atomicStep_of_value hvalue))
  · exact hexec.trans (atomic_unmatched h htx (atomicStep_of_value hvalue))
  · exact hexec.trans (atomic_inTx h htx (atomicStep_of_value hvalue))

end Sys2Proof.Proofs

/-! PROOF. Fences, caches and barriers (06 R200 to R206). -/

namespace Sys2Proof.Proofs

open Sys2Proof.Machine Sys2Proof.Laws Sys2Proof.Safety

/-! Fences, promotion, prefetch and flush (06 R200 to R203). -/

/-- A FENCE reads no register, so no y name either. -/
theorem staleReads_fenceOp (g : Fin 8) (sc : Fin 5) (s : State) : staleReads s (.fenceOp g sc) = s := rfl

section
variable {g : Fin 8} {b : Fin 64} {disp : Fin 4096} {s t u : State} {l : Loc}

theorem execPromote_of_glob {sc : Fin 4} (hpass : slotPasses (.promote g sc b disp) s = true)
    (ht : staleReads s (.promote g sc b disp) = t) (hsteals : t.core.steals = true) (hglob : region (t.ea b disp 64) = .glob)
    (htranslate : translate (strandAgent t sc.val) .read (blockBase (t.ea b disp 64)) t = .ok l u) :
    execPromote g sc b disp s =
      .next ((noteAccess u u.core.id (some u.core.id) sc.val l.key false).cleanBlock (sameInstance sc.val u.core.id) l.key) := by
  rw [execPromote, slotOp_passes hpass, ht]
  simp only [hsteals, hglob, Bool.not_true, Bool.false_eq_true, if_false]
  exact out_of_ok htranslate .read _

theorem execPrefetch_of_glob {l2 : Fin 2} (hpass : slotPasses (.prefetch g l2 b disp) s = true)
    (ht : staleReads s (.prefetch g l2 b disp) = t) (hglob : region (t.ea b disp 64) = .glob)
    (halign : (t.ea b disp 64).toNat % 64 = 0) (htranslate : translate t.agent .read (t.ea b disp 64) t = .ok l u) :
    execPrefetch g l2 b disp s = .next (if l.far then u.countFar (dieOf u.core.id) u.core.partOf (t.ea b disp 64) 1 else u) := by
  rw [execPrefetch, slotOp_passes hpass, ht]
  simp only [hglob, halign, htranslate, ne_eq, not_true_eq_false, if_false]

theorem cflush_of_located {i : Instr} {k : Fin 3} {x : Word × Nat × Loc} {r : List (Word × Nat × Loc)}
    (hpass : slotPasses i s = true) (ht : staleReads s i = t)
    (hlocate : locatePieces t.agent .read false none 64 [(t.ea b disp 64, 64)] t = .ok (x :: r) u) : cflush i k b disp s =
      .next (if isOwn (t.ea b disp 64) then u else u.modWin fun w => { w with held := w.held ++ [.flush k x.2.2.key] }) := by
  rw [cflush, slotOp_passes hpass, ht]
  exact out_of_ok hlocate .read _

end

/-- Settles O11, instruction by instruction; what a FENCE ends is the model's reading (log 7). -/
theorem fencesAndCaches : Obligations.FencesAndCaches := by
  unfold Obligations.FencesAndCaches
  intro g b disp s
  refine ⟨?fence, ?promote, ?prefetch, ?cflush⟩
  case fence =>
    intro sc hpass
    exact (slotOp_passes hpass fun t => .next (if sc.val = 0 then t else t.releaseL1)).trans (by rw [staleReads_fenceOp])
  case promote => exact fun sc l u hpass hsteals hglob htranslate => execPromote_of_glob hpass rfl hsteals hglob htranslate
  case prefetch => exact fun l2 l u hpass hglob halign htranslate => execPrefetch_of_glob hpass rfl hglob halign htranslate
  case cflush =>
    intro i k x r u hi hpass t va hlocate
    have hexec : exec i s = cflush i k b disp s := by
      simp only [List.mem_cons, Prod.mk.injEq, List.not_mem_nil, or_false] at hi
      rcases hi with ⟨rfl, rfl⟩ | ⟨rfl, rfl⟩ | ⟨rfl, rfl⟩ <;> rfl
    exact hexec.trans (cflush_of_located hpass rfl hlocate)

/-! Barriers (06 R204 to R206). -/

/-- An interlocked result goes to the x register of its field (02 R64). -/
theorem xresult_of_interlocked {i : Instr} {s t u : State} {d : Fin 64} (hpass : slotPasses i s = true) (hi : interlocked i = true)
    (hd : d ∈ xWrites i) (ht : staleReads s i = t) (hu : SameStrand t u) (l : Option Nat) (v : Word) :
    xresult l d v u = .next (u.result l (.x d v) []) := by
  obtain ⟨es, hes⟩ := staleReads_eq s i
  obtain ⟨_, _, _, hform, _, _⟩ := guarded_iff.mp (guarded_of_slotPasses hpass)
  have hmode : u.core.mode = s.core.mode := by rw [hu.mode, ← ht, hes]
  rw [xresult_eq, xWrite_congr hmode, xWrite, xname_of_interlocked hform hi hd]

section
variable {g : Fin 8} {d b : Fin 64} {disp : Fin 4096} {s t : State}

theorem execBarinit_of_fits (hpass : slotPasses (.barinit g d b disp) s = true) (ht : staleReads s (.barinit g d b disp) = t)
    (hindex : t.index b disp ≤ 31) (hpos : (t.x d).toNat ≠ 0) (hmax : (t.x d).toNat ≤ 1024)
    (hnone : (t.barrier (barrierKey t.core.id (t.index b disp))).arrived = 0) :
    let k := barrierKey t.core.id (t.index b disp)
    execBarinit g d b disp s = .next (t.setBarrier k ⟨(t.x d).toNat, 0, (t.barrier k).gen⟩) := by
  rw [execBarinit, slotOp_passes hpass, ht]
  exact if_neg (by simp only [hnone]; omega)

/-- The state after an arrival: the barrier, the earlier stores of the core in L2, and a window that has acted (06 R205). -/
def arrived (k : Nat) (t : State) : State :=
  (t.setBarrier k (t.barrier k).arrive).releaseL1.modWin fun w => { w with acted := true }

theorem SameStrand.arrived (k : Nat) (t : State) : SameStrand t (arrived k t) :=
  ((of_core (setBarrier_core t k _)).trans (writeBackL1 ..)).trans (modWin ..)

theorem execBararr_of_expected (hpass : slotPasses (.bararr g d b disp) s = true) (ht : staleReads s (.bararr g d b disp) = t)
    (hindex : t.index b disp ≤ 31) (hlive : t.core.replay = none)
    (hexpect : (t.barrier (barrierKey t.core.id (t.index b disp))).expect ≠ 0) :
    let k := barrierKey t.core.id (t.index b disp)
    let gen := (t.barrier k).gen
    execBararr g d b disp s = .next (((arrived k t).recordInput 6 (n8 gen.toNat)).result none (.x d (gen.setWidth 64)) []) := by
  intro k gen
  rw [execBararr, slotOp_passes hpass, ht]
  refine (if_neg (Nat.not_lt.mpr hindex)).trans ((withInput_live hlive _ _).trans ((if_neg hexpect).trans ?_))
  exact xresult_of_interlocked hpass rfl (List.mem_singleton_self d) ht ((SameStrand.arrived k t).trans (.recordInput ..)) none _

theorem execBarwait_of_reached (hpass : slotPasses (.barwait g d b disp) s = true) (ht : staleReads s (.barwait g d b disp) = t)
    (hindex : t.index b disp ≤ 31)
    (hreached : genReached (t.barrier (barrierKey t.core.id (t.index b disp))).gen ((t.x d).setWidth 32 + 1) = true) :
    execBarwait g d b disp s = .next t := by
  rw [execBarwait, slotOp_passes hpass, ht]
  exact (if_neg (Nat.not_lt.mpr hindex)).trans (if_pos hreached)

end

/-- Settles O12, instruction by instruction. That an arrival leaves the core's earlier stores in L2 is the model's reading of a fence of
cluster scope (log 7). -/
theorem barriers : Obligations.Barriers := by
  unfold Obligations.Barriers
  intro g d b disp s
  refine ⟨?init, ?arrive, ?wait⟩
  case init => exact fun hpass hindex hpos hmax hnone => execBarinit_of_fits hpass rfl hindex hpos hmax hnone
  case arrive => exact fun hpass hindex hlive hexpect => execBararr_of_expected hpass rfl hindex hlive hexpect
  case wait => exact fun hpass hindex hreached => execBarwait_of_reached hpass rfl hindex (decide_eq_true hreached)

end Sys2Proof.Proofs

/-! PROOF. Stage queues, messages and tiles (06 R207 to R215). -/

namespace Sys2Proof.Proofs

open Sys2Proof.Machine Sys2Proof.Laws Sys2Proof.Safety

/-- A result that another state of the same strand delivers goes where the strand's own would. -/
theorem xresult_of_same {s u : State} (h : SameStrand s u) (l : Option Nat) (d : Fin 64) (v : Word) :
    xresult l d v u = .next (u.result l (xWrite s d v) []) := by
  rw [xresult_eq, xWrite_congr h.mode]

/-! Stage queues (06 R207 to R210). -/

theorem SameStrand.claimEntry (s : State) (p pipe q seq core : Nat) : SameStrand s (claimEntry s p pipe q seq core) := by
  unfold Machine.claimEntry State.modQueue State.modPipe
  split <;> exact of_core rfl

theorem execQpush_of_room {g q : Fin 8} {b : Fin 64} {s t u : State} {id : Nat} {v v' : SQueue} {r : List Byte × List (BitVec 25)}
    (hpass : slotPasses (.qpush g q b) s = true) (ht : staleReads s (.qpush g q b) = t) (hport : portOf q true t = some (id, v))
    (hread : readEntry (t.x b) v.esize t = .ok r u) (hlive : u.core.replay = none) (hopen : v.closed = false)
    (hroom : v.reserve = some v') : execQpush g q b s =
      .next ((u.modQueue u.core.partOf.val u.core.pipeOf id fun _ => v').holdItem (.push id r.1 r.2 v.chipRoom) v.esize) := by
  rw [execQpush, slotOp_passes hpass, ht]
  simp only [hport]
  refine (out_of_ok hread .read _).trans ?_
  simp only [hlive, hopen, hroom, Option.isSome_none, Bool.false_eq_true, if_false]

section
variable {i : Instr} {block : Bool} {d b : Fin 64} {q : Fin 8} {s t : State} {id : Nat} {v : SQueue}

/-- The state after a claim: the entry is claimed in its queue, and held by the window (06 R209). -/
def claimed (t u : State) (id seq : Nat) : State :=
  (claimEntry u t.core.partOf.val t.core.pipeOf id seq u.core.id).modWin fun w => { w with held := w.held ++ [.claim id seq] }

theorem SameStrand.claimed (t u : State) (id seq : Nat) : SameStrand u (claimed t u id seq) :=
  (claimEntry ..).trans (modWin ..)

/-- A pop outside a replay whose port names a queue, and whose address is aligned. -/
structure Pops (i : Instr) (s t : State) (q : Fin 8) (b : Fin 64) (id : Nat) (v : SQueue) : Prop where
  pass : slotPasses i s = true
  reads : staleReads s i = t
  port : portOf q false t = some (id, v)
  sound : pieceFault none 16 (t.x b) v.esize = none
  live : t.core.replay = none

/-- A pop claims the oldest entry, and holds its store. -/
theorem pop_of_oldest {u : State} {e : QEntry} (h : Pops i s t q b id v) (holdest : v.oldest = some e)
    (hstore : storeAt (t.queueScope t.core.partOf.val t.core.pipeOf) none 16 v.esize [(t.x b, e.bytes)] t = .ok () u) :
    pop i block d q b s = .next (((claimed t u id e.seq).recordInput 4 (n8 e.seq ++ e.bytes)).result none
      (xWrite u d (BitVec.ofNat 64 e.seq)) []) := by
  rw [pop, slotOp_passes h.pass, h.reads]
  simp only [h.port, h.sound, withInput_live h.live, holdest]
  refine (out_of_ok hstore .write _).trans ?_
  exact xresult_of_same ((SameStrand.claimed t u id e.seq).trans (.recordInput ..)) none d _

/-- What a pop of an empty queue returns: QTRY all ones where the queue is closed, else 0 (06 R209). -/
def emptyWord (block : Bool) (v : SQueue) : Word := if v.closed ∧ block = false then BitVec.allOnes 64 else 0

/-- A pop of an empty queue that is closed answers, and QTRY answers always. -/
theorem pop_of_empty (h : Pops i s t q b id v) (hnone : v.oldest = none) (hring : v.ringCount = 0)
    (hanswers : v.closed = true ∨ block = false) :
    pop i block d q b s = .next ((t.recordInput 4 (b8 (emptyWord block v))).result none (xWrite t d (emptyWord block v)) []) := by
  have hsame := fun data => xresult_of_same (SameStrand.recordInput t 4 data) none d
  rw [pop, slotOp_passes h.pass, h.reads]
  simp only [h.port, h.sound, withInput_live h.live, hnone, hring, Nat.lt_irrefl, if_false]
  cases hclosed : v.closed
  · obtain rfl : block = false := hanswers.resolve_left (by simp [hclosed])
    simp only [emptyWord, hclosed, Bool.false_eq_true, false_and, if_false]
    exact hsame _ _
  · have hword : emptyWord block v = if block then 0 else BitVec.allOnes 64 := by cases block <;> simp [emptyWord, hclosed]
    rw [hword]
    exact (if_pos rfl).trans (hsame _ _)

end

/-- Settles O13: a push by its reservation, a pop by the oldest entry or by none. That a queue whose entries are all claimed is empty for a
pop is the model's choice (log 109). -/
theorem stageQueues : Obligations.StageQueues := by
  unfold Obligations.StageQueues
  intro g q d b s id v
  refine ⟨?push, ?pop⟩
  case push => exact fun r u v' hpass hport hread hlive hopen hroom => execQpush_of_room hpass rfl hport hread hlive hopen hroom
  case pop =>
    intro i hi hpass t p pipe hport hsound hlive
    have h : Pops i s t q b id v := ⟨hpass, rfl, hport, hsound, hlive⟩
    simp only [List.mem_cons, List.not_mem_nil, or_false] at hi
    rcases hi with rfl | rfl
    · refine ⟨fun e u holdest hstore => pop_of_oldest (block := true) h holdest hstore, fun hnone hring hanswers => ?_⟩
      have hclosed : v.closed = true := hanswers.resolve_right Instr.noConfusion
      rw [show exec (.qpop g d q b) s = pop (.qpop g d q b) true d q b s from rfl, pop_of_empty h hnone hring (.inl hclosed)]
      simp [emptyWord]
    · refine ⟨fun e u holdest hstore => pop_of_oldest (block := false) h holdest hstore, fun hnone hring _ => ?_⟩
      rw [show exec (.qtry g d q b) s = pop (.qtry g d q b) false d q b s from rfl, pop_of_empty h hnone hring (.inr rfl)]
      simp [emptyWord]

/-! Messages (06 R211 to R213). -/

theorem execRsend_of_credit {g : Fin 8} {d b : Fin 64} {k : Fin 4} {s t u : State} {c : Nat} {r : List Byte × BitVec 25}
    (hpass : slotPasses (.rsend g d k b) s = true) (ht : staleReads s (.rsend g d k b) = t)
    (hsound : pieceFault none 64 (t.x b) 64 = none) (hreach : t.reachable t.core.id (bits (t.x d) 0 4) = true) :
    let site := bits (t.x d) 0 4
    let target := coreNumber (clusterId t.core.id) site
    let key := 9 * k.val + site
    let held := u.holdItem (.send target k r.1 r.2) 64
    ringSize (t.coreAt target) (if target = t.core.id then (t.coreAt target).tileView else (t.coreAt target).tiles) k = some c →
    9 ≤ c → readMessage (t.x b) t = .ok r u → u.core.replay = none → 0 < sget u.core.credits 0 key → u.restoring target = false →
    execRsend g d k b s =
      .next { held with core := { held.core with credits := sset held.core.credits 0 key (sget u.core.credits 0 key - 1) } } := by
  intro site target key held hring hsize hread hlive hcredit hrestored
  have hplaces : c / 9 ≠ 0 := by omega
  rw [execRsend, slotOp_passes hpass, ht]
  simp only [hsound, hreach, Bool.not_true, Bool.false_eq_true, if_false]
  rw [hring]
  refine (if_neg hplaces).trans ((out_of_ok hread .read _).trans ?_)
  have hgoes : ¬((sget u.core.credits 0 key = 0 || u.restoring target) = true) := by simp [hrestored]; omega
  simp only [hlive, Option.isSome_none, Bool.false_eq_true, if_false]
  exact if_neg hgoes

/-- The state after a message is received: its store is held, and its place in the ring is claimed (06 R213). -/
def received (k : Fin 4) (r : MsgRing) (sender : Nat) (u : State) : State :=
  ({ u with core := { u.core with rings := u.core.rings.set k { r with claimed := r.claimed + 1 } } } : State).modWin
    fun w => { w with held := w.held ++ [.receive k sender] }

theorem execRrecv_of_message {g : Fin 8} {d b : Fin 64} {k : Fin 4} {s t u : State} {c : Nat} {hs : List HStore}
    (hpass : slotPasses (.rrecv g d k b) s = true) (ht : staleReads s (.rrecv g d k b) = t)
    (hsound : pieceFault none 64 (t.x b) 64 = none) (hring : ringSize t.core t.core.tileView k = some c)
    (hlive : t.core.replay = none) (hfull : (t.core.rings.get k).claimed < (t.core.rings.get k).tail - (t.core.rings.get k).head) :
    let r := t.core.rings.get k
    let e := t.core.tileView.toList.getD (60 + k.val) zeroTile
    let key := scratchKey t.core.id ((e.base.toNat + (r.head + r.claimed) % c) * 64)
    let sender := r.senders.getD r.claimed 0
    let h := received k r sender (u.holdMessage hs (t.mdata key))
    storeMessage (t.x b) (t.peek key 64) (t.mdata key) t = .ok hs u →
    execRrecv g d k b s = .next ((h.recordInput 5 (n8 sender ++ t.peek key 64 ++ n8 (t.mdata key).toNat)).result none
      (xWrite h d (BitVec.ofNat 64 sender)) []) := by
  intro r e key sender h hstore
  rw [execRrecv, slotOp_passes hpass, ht]
  simp only [hsound, hring, withInput_live hlive]
  refine (if_neg (Nat.not_le.mpr hfull)).trans ((out_of_ok hstore .write _).trans ?_)
  exact xresult_of_same (.recordInput h 5 _) none d _

/-- Settles O14: a send by its credit, a receive by the oldest message that is not claimed. -/
theorem messages : Obligations.Messages := by
  unfold Obligations.Messages
  intro g d b k s u c
  refine ⟨fun r hpass => ?send, fun hs hpass => ?receive⟩
  case send => exact execRsend_of_credit hpass rfl
  case receive =>
    intro t r e key sender hsound hring hlive hfull hstore
    exact execRrecv_of_message hpass rfl hsound hring hlive hfull hstore

/-! Tiles (06 R214 R215, 01 R35). -/

theorem withTile_of_index {b : Fin 64} {disp : Fin 4096} {t : State} {k : Fin 64} (h : t.index b disp = k.val)
    (f : Fin 64 → Tile → Ends) : withTile b disp t f = f k (t.core.tileView.get k) := by
  obtain ⟨n, hn⟩ := k
  obtain rfl : t.index b disp = n := h
  exact dif_pos hn

section
variable {g : Fin 8} {d b : Fin 64} {disp : Fin 4096} {s t : State} {k : Fin 64} {i : Instr}

/-- A tile instruction that passes its checks acts on the tile its index names. -/
theorem tileSlot_of_index (hpass : slotPasses i s = true) (ht : staleReads s i = t) (hindex : t.index b disp = k.val)
    (f : State → Fin 64 → Tile → Ends) :
    (slotOp i s fun s => withTile b disp s (f s)) = f t k (t.core.tileView.get k) := by
  rw [slotOp_passes hpass, ht, withTile_of_index hindex]

theorem execTtdef_of_empty (hpass : slotPasses (.ttdef g d b disp) s = true) (ht : staleReads s (.ttdef g d b disp) = t)
    (hindex : t.index b disp = k.val) (hempty : (t.core.tileView.get k).state = .empty)
    (h5 : (Tile.ofWord (t.x d)).owner ≠ 5) (h6 : (Tile.ofWord (t.x d)).owner ≠ 6)
    (hfits : ((Tile.ofWord (t.x d)).base.toNat + (Tile.ofWord (t.x d)).size.toNat) * 64 ≤ t.core.spadSize)
    (hring : 60 ≤ k.val → ringBusy t (k.val - 60) = false) : execTtdef g d b disp s =
      .next (t.tileChange (.define k { Tile.ofWord (t.x d) with state := .empty, phase := false, readers := 0 })) := by
  have hring' : (decide (60 ≤ k.val) && ringBusy t (k.val - 60)) = false := by simpa using hring
  rw [execTtdef, tileSlot_of_index hpass ht hindex]
  simp only [hempty, h5, h6, Nat.not_lt.mpr hfits, hring', ne_eq, not_true_eq_false, or_self, Bool.false_eq_true, if_false]

theorem releaseTile_of_held (hpass : slotPasses i s = true) (ht : staleReads s i = t) (hindex : t.index b disp = k.val)
    (hsize : (t.core.tileView.get k).size ≠ 0) (howner : 5 ≤ (t.core.tileView.get k).owner.toNat)
    (hstate : (t.core.tileView.get k).state = .ready ∨ (t.core.tileView.get k).state = .draining) :
    releaseTile i b disp s = .next (t.tileChange (.release k)) := by
  have hfault : releaseFault (t.core.tileView.get k) = none := by
    rw [releaseFault, if_neg hsize, if_neg (by omega)]
    rcases hstate with h | h <;> rw [h]
  rw [releaseTile, tileSlot_of_index hpass ht hindex, hfault]

theorem execTtsetReady_of_owned (hpass : slotPasses (.ttsetReady g b disp) s = true) (ht : staleReads s (.ttsetReady g b disp) = t)
    (hindex : t.index b disp = k.val) (hsize : (t.core.tileView.get k).size ≠ 0) (howner : 5 ≤ (t.core.tileView.get k).owner.toNat)
    (hstate : (t.core.tileView.get k).state = .empty ∨ (t.core.tileView.get k).state = .ready) :
    execTtsetReady g b disp s = .next (t.tileChange (.setReady k)) := by
  have howned : ¬(t.core.tileView.get k).owner.toNat ≤ 4 := by omega
  rw [execTtsetReady, tileSlot_of_index hpass ht hindex, if_neg hsize]
  rcases hstate with h | h <;> simp [h, howned]

end

/-- Settles O15, instruction by instruction. -/
theorem tileInstructions : Obligations.TileInstructions := by
  unfold Obligations.TileInstructions
  intro g d b disp s i k hpass t e w hindex
  refine ⟨?define, ?release, ?ready, ?status⟩
  case define =>
    rintro rfl hempty h5 h6 hfits hring
    exact execTtdef_of_empty hpass rfl hindex hempty h5 h6 hfits hring
  case release =>
    rintro (rfl | rfl) hsize howner hstate
    · exact releaseTile_of_held hpass rfl hindex hsize howner hstate
    · exact releaseTile_of_held hpass rfl hindex hsize howner hstate
  case ready =>
    rintro rfl hsize howner hstate
    exact execTtsetReady_of_owned hpass rfl hindex hsize howner hstate
  case status =>
    rintro rfl
    rw [show exec (.ttstat g d b disp) s = execTtstat g d b disp s from rfl, execTtstat, tileSlot_of_index hpass rfl hindex]
    exact xresult_of_interlocked hpass rfl (List.mem_singleton_self d) rfl (.refl t) none _

end Sys2Proof.Proofs

/-! PROOF. The vector unit's instructions, and the units of its macro engine (07 R219 R221 R224 R226 to R238 R242 to R244, 08 R270). -/

namespace Sys2Proof.Proofs

open Sys2Proof.Machine Sys2Proof.Laws Sys2Proof.Safety

/-! Ports and destinations (07 R221 R225 R226). -/

/-- A port's move changes its indices alone. -/
theorem iss_of_portTake {k : Nat} {s u : State} {as : List (Word × Nat)} (h : portTake k s = .ok as u) : u.core.iss = s.core.iss := by
  unfold portTake at h
  dsimp only at h
  split at h
  · cases h
  · obtain ⟨-, rfl⟩ := Act.ok.inj h
    rfl

/-- A destination that can be written takes its result: no trap comes, and the bundle's issue goes on. -/
theorem vresult_next {d : VOp} {u : State} (h : destOk d u = true) (l : Nat) (act : W32) (vs : List (W32 × Flags)) (es : List LogEvent) :
    ∃ t, vresult l d act vs es u = .next t ∧ t.core.iss = { u.core.iss with stale := [] } := by
  cases d with
  | line | mask => exact ⟨_, rfl, rfl⟩
  | port k =>
    unfold destOk at h
    dsimp only at h
    split at h
    · next as w htake =>
      simp only [vresult, htake, Act.out]
      exact ⟨_, rfl, by rw [result_core, iss_of_portTake htake]⟩
    · cases h
  | _ => cases h

/-! Sources (07 R226). -/

section
variable {i : Instr} {s u w : State} {ty : VType} {a b : VOp} {va vb : List W32 × List LogEvent}

/-- A slot that passes its checks and whose source gives its lanes goes on with them. -/
theorem slotOp_source (hpass : slotPasses i s = true) (ha : vsource ty a (staleReads s i) = .ok va u)
    (f : State → List W32 × List LogEvent → State → Ends) :
    (slotOp i s fun t => (vsource ty a t).out .read (f t)) = f (staleReads s i) va u :=
  (slotOp_passes hpass _).trans (out_of_ok ha .read _)

/-- The same for two sources, a before b. -/
theorem slotOp_sources (hpass : slotPasses i s = true) (ha : vsource ty a (staleReads s i) = .ok va u)
    (hb : vsource ty b u = .ok vb w) (f : State → List W32 × List LogEvent → List W32 × List LogEvent → State → Ends) :
    (slotOp i s fun t => (vsource ty a t).out .read fun va u => (vsource ty b u).out .read (f t va)) = f (staleReads s i) va vb w :=
  (slotOp_source hpass ha _).trans (out_of_ok hb .read _)

end

/-- Goes on in `k` with the lanes and the events of sources read in order, after those that are read already. -/
def overSources (ty : VType) (k : List (List W32) → List LogEvent → State → Ends) :
    List VOp → List (List W32) → List LogEvent → State → Ends
  | [], vs, es, s => k vs es s
  | o :: r, vs, es, s => (vsource ty o s).out .read fun v u => overSources ty k r (vs ++ [v.1]) (es ++ v.2) u

theorem overSources_of_laneSources {ty : VType} {k : List (List W32) → List LogEvent → State → Ends} {src : List VOp} {s u : State}
    {ws : List (List W32)} {fs : List LogEvent} (h : laneSources ty src s = some (ws, fs, u)) (vs : List (List W32))
    (es : List LogEvent) : overSources ty k src vs es s = k (vs ++ ws) (es ++ fs) u := by
  induction src generalizing s ws fs vs es with
  | nil =>
    cases h
    simp only [overSources, List.append_nil]
  | cons o r ih =>
    unfold laneSources at h
    split at h
    case h_1 v t hv =>
      obtain ⟨⟨ws', fs', w⟩, hr, hrest⟩ := Option.map_eq_some_iff.mp h
      simp only [Prod.mk.injEq] at hrest
      obtain ⟨rfl, rfl, rfl⟩ := hrest
      calc overSources ty k (o :: r) vs es s = overSources ty k r (vs ++ [v.1]) (es ++ v.2) t := out_of_ok hv .read _
        _ = k (vs ++ v.1 :: ws') (es ++ (v.2 ++ fs')) w := by rw [ih hr]; simp only [List.append_assoc, List.singleton_append]
    case h_2 => cases h

/-! Lane-wise instructions (07 R227 to R235). -/

/-- What a lane-wise instruction does once its slot's checks pass: it reads its sources in order and delivers the lanes that `f` makes of
them. -/
def laneBody (l : Nat) (ty : VType) (d : VOp) (src : List VOp) (f : State → List (List W32) → List (W32 × Flags)) (s : State) : Ends :=
  overSources ty (fun vs es u => vresult l d u.active (f u vs) es u) src [] [] s

theorem laneBody_of_laneSources {ty : VType} {src : List VOp} {s u : State} {vs : List (List W32)} {es : List LogEvent}
    (h : laneSources ty src s = some (vs, es, u)) (l : Nat) (d : VOp) (f : State → List (List W32) → List (W32 × Flags)) :
    laneBody l ty d src f s = vresult l d u.active (f u vs) es u :=
  overSources_of_laneSources h [] []

/-- ISHL multiplies its lane by a power of two (07 R230). -/
theorem execIshl_eq (g : Fin 8) (d a b : VOp) (sz : Fin 2) (s : State) : execIshl g d a b sz s =
    int2 2 (.ishl g d a b sz) d a b (fun x y => narrow32 sz (x.toInt * 2 ^ (y.toNat % 32))) s := by
  simp only [execIshl, Nat.cast_pow, Nat.cast_ofNat]

/-- An entry of `laneOp` is what its instruction does once its slot's checks pass. -/
def EntryHolds (i : Instr) (s : State) :
    Option (Nat × VType × VOp × List VOp × (State → List (List W32) → List (W32 × Flags))) → Prop
  | some (l, ty, d, src, f) => exec i s = slotOp i s (laneBody l ty d src f)
  | none => True

theorem entryHolds_laneOp (i : Instr) (s : State) : EntryHolds i s (laneOp i s) := by
  cases i with
  | fadd | fsub | fmul | fmax | fmin | fcpys | fcmpeq | fcmplt | fcmple | fcmpun | hadd | hmul | hmax | iadd | isub | imul | imulh
  | imax | imin | imaxn | iminn | iand | ior | ixor | ishr | isra | icmpeq | icmplt | icmpltn | qnt | dqnt | ffma | ffms | hfma | imad
  | fabs | fneg | frcp | frsq | flog2 | fexp2 | frint | iabs | cvt | vmov | plpack | plunpk | vbcast | vshuf | vrot | vscan =>
    exact @rfl Ends _
  | ishl g d a b sz => exact execIshl_eq g d a b sz s
  | _ => exact True.intro

theorem exec_laneOp {i : Instr} {s : State} {l : Nat} {ty : VType} {d : VOp} {src : List VOp}
    {f : State → List (List W32) → List (W32 × Flags)} (h : laneOp i s = some (l, ty, d, src, f)) :
    exec i s = slotOp i s (laneBody l ty d src f) := by
  have hentry := entryHolds_laneOp i s
  rwa [h] at hentry

/-- Settles O22: every entry reads its sources in order and delivers its lanes. That the result of ISUB is exposed with latency 2 is the
model's reading of R72 (log 130). -/
theorem laneResults : Obligations.LaneResults := by
  unfold Obligations.LaneResults
  intro i s u l ty d src f vs es hpass hop hsrc hdest
  obtain ⟨t, hresult, hiss⟩ := vresult_next hdest l u.active (f u vs) es
  refine ⟨t, ?_, hresult, hiss⟩
  calc exec i s = slotOp i s (laneBody l ty d src f) := exec_laneOp hop
    _ = laneBody l ty d src f (staleReads s i) := slotOp_passes hpass _
    _ = vresult l d u.active (f u vs) es u := laneBody_of_laneSources hsrc l d f
    _ = .next t := hresult

/-! Results that no lane-wise instruction gives (07 R232 R234 R235 R236). -/

/-- A result whose destination can be written leads to a next state. -/
theorem next_of_vresult {i : Instr} {s u : State} {l : Nat} {d : VOp} {act : W32} {vs : List (W32 × Flags)} {es : List LogEvent}
    (hd : destOk d u = true) (h : exec i s = vresult l d act vs es u) :
    exec i s = vresult l d act vs es u ∧ ∃ t, exec i s = .next t := by
  obtain ⟨t, ht, _⟩ := vresult_next hd l act vs es
  exact ⟨h, t, h.trans ht⟩

/-- No x field is a destination of lanes. -/
theorem not_xdest_of_destOk {d : VOp} {u : State} (h : destOk d u = true) : ¬ d.within [.D] = true := by
  cases d with
  | line | mask | port => exact Bool.false_ne_true
  | _ => cases h

section
variable {g : Fin 8} {d a b : VOp} {s u w : State} {va vb : List W32} {es eb : List LogEvent}

theorem execVext_of_sources {r : Fin 64} {sz : Fin 2} (hpass : slotPasses (.vext g (.xdest r) a b sz) s = true)
    (ha : vsource .int a (staleReads s (.vext g (.xdest r) a b sz)) = .ok (va, es) u) (hb : vsource .int b u = .ok (vb, eb) w) :
    let v := va.getD ((vb.getD 0 0).toNat % 32) 0
    execVext g (.xdest r) a b sz s = .next (w.result (some 3) (xWrite w r (if sz = 1 then v.signExtend 64 else v.setWidth 64))
      (firstConditions (es.filter fun e => w.active.getLsbD e.lane.val))) := by
  intro v
  rw [execVext, slotOp_sources hpass ha hb]
  rfl

theorem execVsel_of_sources (hpass : slotPasses (.vsel g d a b) s = true)
    (ha : vsource .int a (staleReads s (.vsel g d a b)) = .ok (va, es) u) (hb : vsource .int b u = .ok (vb, eb) w) :
    let t := staleReads s (.vsel g d a b)
    let sel := t.core.r.vm.get (Fin.ofNat 8 (bits t.core.r.sr.vctl 4 3))
    execVsel g d a b s =
      vresult 2 d 0xFFFFFFFF ((va.zip vb).mapIdx fun j p => (if sel.getLsbD j then p.1 else p.2, noFlags)) (es ++ eb) w :=
  slotOp_sources hpass ha hb _

theorem execViota_of_sources (hpass : slotPasses (.viota g d a b) s = true)
    (ha : vsource .int a (staleReads s (.viota g d a b)) = .ok (va, es) u) (hb : vsource .int b u = .ok (vb, eb) w) :
    execViota g d a b s =
      vresult 2 d w.active ((va.zip vb).mapIdx fun j p => (p.1 + BitVec.ofNat 32 j * p.2, noFlags)) [] w :=
  slotOp_sources hpass ha hb _

theorem execVred_of_source {f : Fin 256} (hpass : slotPasses (.vred g d a f) s = true)
    (ha : vsource .int a (staleReads s (.vred g d a f)) = .ok (va, es) u) :
    let tree := redTree f.val (orIdentity f.val u.active va)
    let v := (tree.getD 0 (0, noFlags)).1
    let ev := (es.filter fun e => u.active.getLsbD e.lane.val) ++ tree.zipIdx.flatMap fun v => laneEvent u v.2 v.1.2
    execVred g d a f s = if d.within [.D] then dresult 3 d (redExtend f.val v) ev u
      else vresult 3 d 0xFFFFFFFF (List.replicate 32 (v, noFlags)) ev u :=
  slotOp_source hpass ha _

theorem execBscale_of_source {sz : Fin 2} (hpass : slotPasses (.bscale g d a b sz) s = true)
    (ha : vsource .int a (staleReads s (.bscale g d a b sz)) = .ok (va, es) u) :
    let chosen := blockScale ((va.zipIdx.filter fun v => u.active.getLsbD v.2).map Prod.fst) (quantL (u.xop b))
    let e := if sz = 1 then max chosen (u.prevScale d) else chosen
    let ev := es.filter fun v => u.active.getLsbD v.lane.val
    execBscale g d a b sz s = if d.within [.D] then dresult 3 d (BitVec.ofInt 64 e) ev u
      else vresult 3 d u.active (List.replicate 32 (BitVec.ofInt 32 e, noFlags)) ev u :=
  slotOp_source hpass ha _

end

/-- Settles O23, instruction by instruction; VRED and BSCALE by the kind of their destination. -/
theorem otherVectorResults : Obligations.OtherVectorResults := by
  unfold Obligations.OtherVectorResults
  intro i g d a b s u va es hpass t ha
  refine ⟨?vext, ?vsel, ?viota, ?vred, ?bscale⟩
  case vext =>
    rintro r sz rfl rfl vb eb w hb
    exact execVext_of_sources hpass ha hb
  case vsel =>
    rintro rfl vb eb w hb hd
    exact next_of_vresult hd (execVsel_of_sources hpass ha hb)
  case viota =>
    rintro rfl vb eb w hb hd
    exact next_of_vresult hd (execViota_of_sources hpass ha hb)
  case vred =>
    rintro f rfl
    refine ⟨?_, fun hd => next_of_vresult hd ((execVred_of_source hpass ha).trans (if_neg (not_xdest_of_destOk hd)))⟩
    rintro r rfl
    exact execVred_of_source hpass ha
  case bscale =>
    rintro sz rfl
    refine ⟨?_, fun hd => next_of_vresult hd ((execBscale_of_source hpass ha).trans (if_neg (not_xdest_of_destOk hd)))⟩
    rintro r rfl
    exact execBscale_of_source hpass ha

/-! Masks and scalars (07 R236). -/

section
variable {g : Fin 8} {d a b : VOp} {s u : State} {va : List W32} {es : List LogEvent} {sz : Fin 2}

theorem execVmask_masks {k m n : Fin 8} (hpass : slotPasses (.vmask g (.mask k) (.mask m) (.mask n) sz) s = true) :
    let t := staleReads s (.vmask g (.mask k) (.mask m) (.mask n) sz)
    let v := if sz = 1 then t.core.r.vm.get m ||| t.core.r.vm.get n else t.core.r.vm.get m &&& t.core.r.vm.get n
    execVmask g (.mask k) (.mask m) (.mask n) sz s = .next (t.result (some 2) (.vm k v 0xFFFFFFFF) []) :=
  slotOp_passes hpass _

theorem execVmask_word {k : Fin 8} {r : Fin 64} (hpass : slotPasses (.vmask g (.mask k) (.xreg r) b sz) s = true) :
    let t := staleReads s (.vmask g (.mask k) (.xreg r) b sz)
    execVmask g (.mask k) (.xreg r) b sz s = .next (t.result (some 2) (.vm k ((t.x r).setWidth 32) 0xFFFFFFFF) []) :=
  slotOp_passes hpass _

theorem execVmask_toField {r : Fin 64} {m : Fin 8} (hpass : slotPasses (.vmask g (.xdest r) (.mask m) b sz) s = true) :
    let t := staleReads s (.vmask g (.xdest r) (.mask m) b sz)
    execVmask g (.xdest r) (.mask m) b sz s =
      .next (t.result (some 2) (xWrite t r ((t.core.r.vm.get m).setWidth 64)) []) :=
  slotOp_passes hpass _

theorem execVmask_toMask {k : Fin 8} (hpass : slotPasses (.vmask g (.mask k) a b sz) s = true) (hmask : ∀ m, a ≠ .mask m)
    (hreg : ∀ r, a ≠ .xreg r) (ha : vsource .int a (staleReads s (.vmask g (.mask k) a b sz)) = .ok (va, es) u) :
    execVmask g (.mask k) a b sz s = vresult 2 (.mask k) 0xFFFFFFFF (va.map fun v => (v, noFlags)) es u := by
  rw [execVmask, slotOp_passes hpass]
  cases a with
  | mask m => exact absurd rfl (hmask m)
  | xreg r => exact absurd rfl (hreg r)
  | line | port | imm | xdest => exact out_of_ok ha .read _

/-- The lane of a mask's bit: all ones where it is set. -/
theorem truth_ne_zero (v : W32) : truth (v != 0) noFlags = (if v = 0 then 0 else 0xFFFFFFFF, noFlags) := by
  by_cases h : v = 0 <;> simp [truth, h]

theorem execVmask_toLanes (hpass : slotPasses (.vmask g d a b sz) s = true) (hmask : ∀ k, d ≠ .mask k)
    (ha : vsource .int a (staleReads s (.vmask g d a b sz)) = .ok (va, es) u) (hd : destOk d u = true) :
    execVmask g d a b sz s =
      vresult 2 d 0xFFFFFFFF (va.map fun v => (if v = 0 then 0 else 0xFFFFFFFF, noFlags)) es u := by
  rw [execVmask, slotOp_passes hpass]
  simp only [← truth_ne_zero]
  cases d with
  | mask k => exact absurd rfl (hmask k)
  | line | port => exact out_of_ok ha .read _
  | _ => cases hd

theorem execVpopc_toField {r : Fin 64} {m : Fin 8} (hpass : slotPasses (.vpopc g (.xdest r) (.mask m)) s = true) :
    let t := staleReads s (.vpopc g (.xdest r) (.mask m))
    execVpopc g (.xdest r) (.mask m) s =
      .next (t.result (some 3) (xWrite t r (BitVec.ofNat 64 (ones (t.core.r.vm.get m)))) []) :=
  slotOp_passes hpass _

theorem execVpopc_toLanes (hpass : slotPasses (.vpopc g d a) s = true)
    (ha : vsource .int a (staleReads s (.vpopc g d a)) = .ok (va, es) u) (hd : destOk d u = true) :
    execVpopc g d a s = vresult 3 d u.active (va.map fun v => (BitVec.ofNat 32 (ones v), noFlags)) es u := by
  rw [execVpopc, slotOp_passes hpass, if_neg (not_xdest_of_destOk hd)]
  exact out_of_ok ha .read _

end

/-! Matrix registers (07 R222 R237). -/

theorem execMmr_of_sources {g : Fin 8} {m : Fin 16} {a b : VOp} {sz : Fin 2} {s u w : State} {va vb : List W32 × List LogEvent}
    (hpass : slotPasses (.mmr g m a b sz) s = true)
    (ha : vsource (if sz = 0 then .f32 else .int) a (staleReads s (.mmr g m a b sz)) = .ok va u)
    (hb : vsource (if sz = 0 then .f32 else .int) b u = .ok vb w) :
    let es := mmrElems sz w.rm w.ftz (w.core.r.m.get m) va.1 vb.1
    execMmr g m a b sz s = .next (w.result (some 4) (.mreg m (regOf (es.map Prod.fst)))
      (va.2 ++ vb.2 ++ es.zipIdx.flatMap fun e => laneEvent w (e.2 / 32) e.1.2)) :=
  slotOp_sources hpass ha hb _

section
variable {g : Fin 8} {m : Fin 16} {s t : State} (hpass : slotPasses (.mwake g m) s = true) (ht : staleReads s (.mwake g m) = t)
include hpass ht

theorem execMwake_of_on (hp : (t.core.r.m.get m).power = .on) : execMwake g m s = .next (t.result (some 1) (.wake m) []) := by
  rw [execMwake, slotOp_passes hpass, ht, hp]

theorem execMwake_of_drowsy (hp : (t.core.r.m.get m).power = .drowsy) :
    execMwake g m s = .next ((startWake [m] t).result (some 1) (.wake m) []) := by
  rw [execMwake, slotOp_passes hpass, ht, hp]

theorem execMwake_of_gated (hp : (t.core.r.m.get m).power = .gated) :
    execMwake g m s = .next (t.result (some 1) (.mreg m ⟨[], false, .on⟩) []) := by
  rw [execMwake, slotOp_passes hpass, ht, hp]

end

/-- Settles O24, form by form and power state by power state. -/
theorem maskAndMatrixResults : Obligations.MaskAndMatrixResults := by
  unfold Obligations.MaskAndMatrixResults
  intro g s i hpass t
  refine ⟨?masks, ?word, ?field, ?toMask, ?toLanes, ?count, ?counts, ?mmr, ?mwake⟩
  case masks => rintro k m n sz rfl; exact execVmask_masks hpass
  case word => rintro k r b sz rfl; exact execVmask_word hpass
  case field => rintro r m b sz rfl; exact execVmask_toField hpass
  case toMask =>
    rintro k a b sz va es u rfl hmask hreg ha
    exact next_of_vresult rfl (execVmask_toMask hpass hmask hreg ha)
  case toLanes =>
    rintro d a b sz va es u rfl hmask ha hd
    exact next_of_vresult hd (execVmask_toLanes hpass hmask ha hd)
  case count => rintro r m rfl; exact execVpopc_toField hpass
  case counts =>
    rintro d a va es u rfl ha hd
    exact next_of_vresult hd (execVpopc_toLanes hpass ha hd)
  case mmr =>
    rintro m a b sz va vb u w rfl ha hb
    exact execMmr_of_sources hpass ha hb
  case mwake =>
    rintro m rfl
    exact ⟨execMwake_of_on hpass rfl, execMwake_of_drowsy hpass rfl, execMwake_of_gated hpass rfl⟩

/-! Units of the vector macro engine (07 R242 to R244, 08 R270). -/

section
variable {s u : State} {c : Cmd} {ph : Phase} {run : List (Word × Loc)}

theorem execVsort_of_phase (hready : vmacroReady s = some c) (hsort : isSort c.instr = true)
    (hphase : s.phaseOf 3 0 (s.mark 3 0) = some ph) (hrun : runBlocks c (s.work 3).prm (sortPos s) s = .ok run u) :
    execVsortRunSegment none s =
      if sortPoisoned ph run u then .next (faultHead 3 Cause.poisonTrap 0 (u.consume 1))
      else vmacroWrite c (sortOut c ph u).1 (sortOut c ph u).2 u := by
  simp only [execVsortRunSegment, hready, hsort, hphase, hrun, Act.eng, Bool.not_true, Bool.false_eq_true, if_false]

theorem execRow_of_phase (hready : vmacroReady s = some c) (hrow : isSort c.instr = false)
    (hphase : s.phaseOf 3 0 (s.prog 3 3).toNat = some ph) :
    execRowOperation none s = vmacroWrite c (rowOut c ph s).1 (rowOut c ph s).2 s := by
  simp only [execRowOperation, hready, hrow, hphase, Bool.false_eq_true, if_false]

theorem execVsort_strikes (hready : vmacroReady s = some c) (hsort : isSort c.instr = true) (k : Nat) :
    execVsortRunSegment (some k) s = .next (strikeTile 3 k c s) := by
  simp only [execVsortRunSegment, hready, hsort, Bool.not_true, Bool.false_eq_true, if_false]

theorem execRow_strikes (hready : vmacroReady s = some c) (hrow : isSort c.instr = false) (k : Nat) :
    execRowOperation (some k) s = .next (strikeTile 3 k c s) := by
  simp only [execRowOperation, hready, hrow, Bool.false_eq_true, if_false]

end

/-- Settles O32, unit by unit. That a phase holds one row, or one run or segment, is the model's reading of R241 (log 37). -/
theorem vmacroEvents : Obligations.VmacroEvents := by
  unfold Obligations.VmacroEvents
  intro s c ph x hready ag
  refine ⟨?sort, ?row, ?strike⟩
  case sort =>
    intro hsort hphase run u hrun
    have hexec := execVsort_of_phase hready hsort hphase hrun
    refine ⟨fun hclean hwrites => ?_, fun hpoison => hexec.trans (if_pos hpoison)⟩
    exact hexec.trans ((if_neg (ne_true_of_eq_false hclean)).trans (vmacroWrite_of_writes hwrites))
  case row =>
    exact fun hrow hphase hwrites => (execRow_of_phase hready hrow hphase).trans (vmacroWrite_of_writes hwrites)
  case strike => exact fun k => ⟨fun hsort => execVsort_strikes hready hsort k, fun hrow => execRow_strikes hready hrow k⟩

end Sys2Proof.Proofs

/-! PROOF. The chunks of the copy engine and the pages of CMIGRATE (08 R252 to R262 R265 R267, 04 R122). -/

namespace Sys2Proof.Proofs

open Sys2Proof.Machine Sys2Proof.Laws Sys2Proof.Safety

/-! How a chunk goes on and how it ends. -/

/-- An access of an engine that succeeds goes on with its value. -/
theorem eng_of_ok {α : Type} {a : Act α} {v : α} {u : State} {q : Nat} {c : Cmd} {kind : AKind} {f : α → State → EngEnds}
    (h : a = .ok v u) : a.eng q c kind f = f v u := by
  rw [h, Act.eng]

/-- Writes that can be performed end their chunk, and CHUNK advances (08 R264 R265). -/
theorem finishChunk_of_commits {c : Cmd} {ag : Agent} {o : ChunkOut} {s t : State}
    (h : commits 2 c ag o.writes (chunkMoves o (s.prog 2 4)) (chunkMoves o (s.prog 2 4)) s t) :
    finishChunk c ag o s = .next t :=
  commitUnit_of_commits h

/-! Lists of side entries and of sub-tiles. -/

/-- A map that succeeds on a list succeeds on each element of it, and gives their values. -/
theorem isSome_and_eq_map_of_mapM {α β : Type} {f : α → Option β} (d : β) {l : List α} {xs : List β} (h : l.mapM f = some xs) :
    (∀ a ∈ l, (f a).isSome = true) ∧ xs = l.map fun a => (f a).getD d := by
  induction l generalizing xs with
  | nil => exact ⟨by simp, by simpa using h.symm⟩
  | cons a l ih =>
    simp only [List.mapM_cons, Option.pure_def, Option.bind_eq_bind, Option.bind_eq_some_iff, Option.some.injEq] at h
    obtain ⟨y, hy, ys, hys, rfl⟩ := h
    obtain ⟨hsome, rfl⟩ := ih hys
    exact ⟨by simpa [hy] using hsome, by simp [hy]⟩

/-- The blocks that side entries set: each at its place, with the tag and the poison of its entry (08 R261). -/
theorem map_zip_sideEntries {β : Type} {rs : List β} {es : List (Nat × Bool × Bool)} {xs : List (BitVec 24 × Bool)}
    (hxs : xs = es.map fun e => (sideEntry e.1).getD (0, false)) (f : β → BitVec 24 × Bool → Bool → BWrite) :
    ((rs.zip es).map fun r => f r.1 ((sideEntry r.2.1).getD (0, false)) r.2.2.1) =
      (rs.zip (xs.zip es)).map fun r => f r.1 r.2.1 r.2.2.2.1 := by
  have hpairs : xs.zip es = es.map fun e => ((sideEntry e.1).getD (0, false), e) := by
    simpa [hxs] using List.zip_map' (f := fun e : Nat × Bool × Bool => (sideEntry e.1).getD (0, false)) (g := id) (l := es)
  rw [hpairs, List.zip_map_right, List.map_map]
  rfl

/-- What nothing in a list raises, nothing raises with its place beside it. -/
theorem findSome?_map_eq_none {α β γ : Type} {l : List α} {p : α → Option β} (h : l.findSome? p = none) (f : α → β → γ) :
    (l.findSome? fun x => (p x).map (f x)) = none :=
  List.findSome?_eq_none_iff.mpr fun x hx => by rw [List.findSome?_eq_none_iff.mp h x hx, Option.map_none]

/-! One chunk of each form. -/

section
variable {s u v w t : State} {c : Cmd} {b : List Byte} {k : Nat} {ue : Option ReadError} {ag : Agent} {A C : Shape}

/-- The indices of a chunk read, its rows move as elements do (08 R254). -/
theorem indexedChunk_of_indices {sc : Bool} {X O : Shape} {ix : SMap (Int × Bool)} {ks : List Nat}
    (hX : (if sc then c.shape 2 else c.shape 0) = X) (hO : (if sc then c.shape 0 else c.shape 2) = O)
    (hks : ((chunkRange k O.count O.ebytes).map fun n => n / X.rowSize).dedup = ks)
    (hix : readIndices c b X.outer ue ks s = .ok ix u) :
    indexedChunk c b ue sc k s =
      moveChunk c b (laterError (indexBlocks c ks).length ue) O.ebytes (indexedMoves c sc ix (chunkRange k O.count O.ebytes)) u := by
  subst hX hO hks
  exact eng_of_ok hix

/-- The top blocks of a chunk's sub-tiles found, and their planes inside the region, the chunk is run (08 R256 R257). The tag of a
flat block is free (log 32). -/
theorem unplaneChunk_of_tops {nb ask : Nat} {ts : List Nat} {tops : List (Word × Loc)} {ps : List (Nat × Nat)}
    (hA : c.shape 0 = A) (hC : c.shape 2 = C) (hag : cmdAgent s (scopeCode (field b 0 1)) (tierOf b) = ag)
    (hnb : subTiles A.rows A.cols = nb) (hts : subRange C A k = ts) (hask : (if isFlat c.instr then 0 else field b 11 1) = ask)
    (htops : locateBlocks ag .read (ts.map fun t => A.base + BitVec.ofNat 64 (64 * t)) s = .ok tops u)
    (hps : ((ts.zip tops).map fun x => (x.1, topPlanes A x.2 u)) = ps)
    (hspan : (ps.findSome? fun x => planarSpan u A (planesRead ask x.2)) = none) :
    unplaneChunk c b ue k s =
      runChunk c ag (planarFarTag A nb) ue (ps.flatMap fun x => subBlocks A nb x.2 ask x.1) (ts.flatMap (subAddrs C))
        (unplaneBuild c b ask ps (if isFlat c.instr then BitVec.ofNat 24 u.fresh.1.toNat else mkTag (field b 13 1) 1 0 0 false))
        (if isFlat c.instr then u.fresh.2 else u) := by
  subst hA hC hag hnb hts hask hps
  refine (eng_of_ok htops).trans ?_
  simp only [findSome?_map_eq_none hspan]

/-- A page whose destination is near and whose side entries are read is run, unless an error meets a far source (08 R258). -/
theorem pageinChunk_of_read {src dst : Word} {side : List Word} {later : Option ReadError} {es : List (Nat × Bool × Bool)}
    (hag : cmdAgent s (scopeCode (field b 0 1)) 0 = ag)
    (hsrc : fw b 8 + BitVec.ofNat 64 (65536 * k) = src) (hdst : fw b 16 + BitVec.ofNat 64 (65536 * k) = dst)
    (hside : (if field b 32 8 = 0 then [] else (List.range 1024).map fun j => fw b 32 + BitVec.ofNat 64 (4096 * k + 4 * j)) = side)
    (hlater : laterError (sideBlocks side).length ue = later)
    (hdest : pageinDest ag dst s = .ok () u) (hread : readSide ag c ue side u = .ok es v)
    (hnear : later = none ∨ ∀ l w, locate ag .read false src v = .ok l w → l.far = false) :
    pageinChunk c b ue k s = runChunk c ag (fun _ => 0) later (pageBlocks src) (pageBlocks dst) (pageBuild b src dst es) v := by
  subst hag hsrc hdst hside hlater
  refine (eng_of_ok hdest).trans ((eng_of_ok hread).trans (if_neg ?_))
  rw [Bool.and_eq_true]
  rintro ⟨herr, hfar⟩
  rcases hnear with hnone | hnear
  · simp [hnone] at herr
  · split at hfar
    next l w hloc => simp [hnear l w hloc] at hfar
    next => cases hfar

/-- CTAGS toward metadata, its entries read and in order and its blocks found near, ends with the entries' tags and poison (08 R261). -/
theorem applyChunk_of_read {js : List Nat} {es : List (Nat × Bool × Bool)} {rs : List (Word × Loc)} {xs : List (BitVec 24 × Bool)}
    (hag : cmdAgent s (scopeCode (field b 0 1)) (tierOf b) = ag) (hjs : tagRange b k = js)
    (hread : readSide ag c ue (js.map fun j => fw b 32 + BitVec.ofNat 64 (4 * j)) s = .ok es u)
    (hfound : locateBlocks ag .write (js.map fun j => fw b 16 + BitVec.ofNat 64 (64 * j)) u = .ok rs v)
    (hnear : (rs.find? fun r => r.2.far) = none) (hxs : (es.mapM fun e => sideEntry e.1) = some xs) :
    applyChunk c b ue k s = finishChunk c ag
      ⟨(rs.zip (xs.zip es)).map fun r => wholeBlock r.1 (v.peek r.1.2.key 64) r.2.1.1 (r.2.1.2 || r.2.2.2.1),
        zeroCounts, es.any fun e => e.2.1, false⟩ v := by
  subst hag hjs
  obtain ⟨hsome, hvals⟩ := isSome_and_eq_map_of_mapM (0, false) hxs
  have hordered : ((tagRange b k).zip es).find? (fun x => (sideEntry x.2.1).isNone) = none :=
    List.find?_eq_none.mpr fun x hx => by simp [← Option.not_isSome, hsome x.2 (List.of_mem_zip hx).2]
  refine (eng_of_ok hread).trans ((eng_of_ok hfound).trans ?_)
  simp only [hnear, hordered,
    map_zip_sideEntries hvals fun r e bad => wholeBlock r (v.peek r.2.key 64) e.1 (e.2 || bad)]

/-- CTAGS toward a side array, its region and its entries' places found, ends with an entry for each block (08 R261 R267). -/
theorem extractChunk_of_found {js : List Nat} {rs : List (Word × Loc)} {hit : Option (ReadError × Word × Loc)} {es : List EElem}
    {ds : List ((Word × Loc) × List EElem)}
    (hag : cmdAgent s (scopeCode (field b 0 1)) (tierOf b) = ag) (hjs : tagRange b k = js)
    (hfound : locateBlocks ag .read (js.map fun j => fw b 16 + BitVec.ofNat 64 (64 * j)) s = .ok rs u)
    (hnoted : rs.foldl (fun s r => if r.2.far then s else noteAccess s ag.core none ag.scope r.2.key false) u = w)
    (hhit : (ue.bind fun e => (rs[e.request]?).map fun x => (e, x)) = hit)
    (hes : (js.zip rs).mapIdx (fun i x => ⟨fw b 32 + BitVec.ofNat 64 (4 * x.1),
      toBytes 4 (if x.2.2.far then 0 else (w.mdata x.2.2.key).toNat), none, hit.any fun h => h.1.request == i && h.1.again⟩) = es)
    (hplaces : locateElems ag es w = .ok ds v) :
    extractChunk c b ue k s = finishChunk c ag
      ⟨ds.map fun d => writeElems (.fixed 0) d.1 d.2 v, zeroCounts, es.any fun e => e.poison, false⟩
      (match hit with
        | some h => sourceUe 3 h.2 h.1.l2 c v
        | none => v) := by
  subst hag hjs hnoted hhit hes
  exact (eng_of_ok hfound).trans (eng_of_ok hplaces)

end

/-! COPY_CHUNK: the running command performs a chunk of its own form (08 R262). -/

section
variable {s t : State} {c : Cmd} {k : Nat} (hready : copyReady s = some (c, k)) (ue : Option ReadError)
include hready

theorem execCopyChunk_moves {xs : List MoveElem} (hxs : chunkElems c (s.work 2).prm k = some xs) :
    execCopyChunk ue s = moveChunk c (s.work 2).prm ue (c.shape 2).ebytes xs s := by
  rw [execCopyChunk, hready]
  unfold chunkElems at hxs
  split at hxs
  iterate 3
    next hi => obtain rfl := Option.some.inj hxs; simp only [hi]
  next => cases hxs

theorem execCopyChunk_indexed {sc : Bool} (hform : indexedForm c.instr = some sc) :
    execCopyChunk ue s = indexedChunk c (s.work 2).prm ue sc k s := by
  rw [execCopyChunk, hready]
  unfold indexedForm at hform
  split at hform
  iterate 2
    next hi => obtain rfl := Option.some.inj hform; simp only [hi]
  next => cases hform

theorem execCopyChunk_planar {g : Fin 8} {sa sc : Fin 4} {sw : Fin 16} {p : Fin 64} {r : Fin 2}
    (hi : c.instr = .cplane g sa sc sw p r ∨ c.instr = .cflat g sa sc sw p r) :
    execCopyChunk ue s =
      if field (s.work 2).prm 8 1 = 0 then planeChunk c (s.work 2).prm ue k s else unplaneChunk c (s.work 2).prm ue k s := by
  rcases hi with hi | hi <;> simp only [execCopyChunk, hready, hi]

theorem execCopyChunk_cpagein {g : Fin 8} {sw : Fin 16} {p : Fin 64} {r : Fin 2} (hi : c.instr = .cpagein g sw p r) :
    execCopyChunk ue s = pageinChunk c (s.work 2).prm ue k s := by
  simp only [execCopyChunk, hready, hi]

theorem execCopyChunk_ctags {g : Fin 8} {sw : Fin 16} {p : Fin 64} {r : Fin 2} (hi : c.instr = .ctags g sw p r) :
    execCopyChunk ue s =
      if field (s.work 2).prm 8 1 = 0 then extractChunk c (s.work 2).prm ue k s else applyChunk c (s.work 2).prm ue k s := by
  simp only [execCopyChunk, hready, hi]

/-- Both events of a running CMIGRATE take the step of its page (08 R260, log 64). -/
theorem exec_of_migratePage {g : Fin 8} {sw : Fin 16} {p : Fin 64} {r : Fin 2} (hi : c.instr = .cmigrate g sw p r)
    (h : migratePage ue s = .next t) :
    exec (.copyChunk ue) s = .next t ∧ (ue = none → exec .cmigratePage s = .next t) := by
  refine ⟨?_, fun hue => by rw [hue] at h; exact h⟩
  calc exec (.copyChunk ue) s = execCopyChunk ue s := rfl
    _ = migratePage ue s := by simp only [execCopyChunk, hready, hi]
    _ = .next t := h

end

/-! The steps of CMIGRATE (08 R260, log 64). -/

/-- A leaf that is replaced is shot down, and the step goes on (04 R122). -/
theorem putLeaf_of_performed {ag : Agent} {a : Nat} {va e : Word} {s x : State} (f : State → State)
    (h : performRun ag none a (toBytes 8 e.toNat) s = (true, x)) :
    putLeaf ag a va e s f = .next (f (discardTlb x.core.partOf 3 (some va.toNat) x)) := by
  simp only [putLeaf, h]

theorem migStep_of_four_le {n : Nat} (h : 4 ≤ n) : MigStep.of n = .finish := by
  obtain ⟨m, rfl⟩ := Nat.exists_eq_add_of_le' h
  rfl

/-- The page that the running CMIGRATE has come to, at chunk `k`. -/
def migratedVa (s : State) (k : Nat) : Word := fw (s.work 2).prm 16 + BitVec.ofNat 64 (65536 * k)
/-- The frame that the page at chunk `k` moves to. -/
def newFrame (s : State) (k : Nat) : Nat := field (s.work 2).prm 24 5 + k
/-- Whether the frames that the pages move to are far. -/
def newFrameFar (s : State) : Bool := field (s.work 2).prm 8 1 == 1
/-- The leaf that the first step of the page found. -/
def foundLeaf (s : State) : Word := sget (s.work 2).rows 0 0
/-- Where that leaf stands. -/
def leafPlace (s : State) : Nat := (sget (s.work 2).rows 0 1).toNat
/-- The leaf as it stands now. -/
def leafNow (s : State) : Word := BitVec.ofNat 64 (s.peekNat (leafPlace s) 8)
/-- The accesses that used what the last shootdown discards have not all been performed (04 R122). -/
def shootdownOpen (s : State) (k : Nat) : Bool := shootWaits s.core.partOf 3 (some (migratedVa s k).toNat) s

section
variable {s u x t : State} {c : Cmd} {k : Nat} {g : Fin 8} {sw : Fin 16} {p : Fin 64} {r : Fin 2} {ue : Option ReadError}
variable (hready : copyReady s = some (c, k)) (hi : c.instr = .cmigrate g sw p r)
include hready hi

theorem migratePage_of_open (hmark : s.mark 2 0 ≠ 0) (hopen : shootdownOpen s k = true) : migratePage ue s = .next s := by
  have hwaits : (s.mark 2 0 != 0 && shootdownOpen s k) = true := by simp [hmark, hopen]
  rw [migratePage, hready]
  simp only [hi]
  exact if_pos hwaits

/-- The first step sets WB in a leaf without it, once the new frame is known to be the partition's, and keeps the leaf and its place. -/
theorem migratePage_block {leaf : Word × Nat} (hmark : s.mark 2 0 = 0) (hleaf : migrateLeaf (cmdAgent s 3 0) (migratedVa s k) s = .ok leaf u)
    (hframe : newFrameFar s = true ∨
      (newFrame s k * 65536 + 65536 ≤ hbmTop ∧ u.ownsKey u.core.partOf.val (newFrame s k * 65536) = true))
    (hwb : leafWB leaf.1 = false)
    (hrun : performRun (cmdAgent s 3 0) none leaf.2 (toBytes 8 (setBits leaf.1 5 1 1).toNat) u = (true, x)) :
    migratePage ue s = .next ((migrateStep 1 (discardTlb x.core.partOf 3 (some (migratedVa s k).toNat) x)).modWork 2 fun w =>
      { w with rows := [(0, leaf.1), (1, BitVec.ofNat 64 leaf.2)] }) := by
  have hbounds : (!newFrameFar s && (decide (hbmTop < newFrame s k * 65536 + 65536) ||
      !u.ownsKey u.core.partOf.val (newFrame s k * 65536))) = false := by
    rcases hframe with hfar | ⟨htop, howns⟩
    · simp [hfar]
    · simp [howns, htop]
  rw [migratePage, hready]
  simp only [hi, hmark, bne_self_eq_false, Bool.false_and, Bool.false_eq_true, if_false, MigStep.of]
  refine (eng_of_ok hleaf).trans ((if_neg (ne_true_of_eq_false hbounds)).trans ((if_neg (ne_true_of_eq_false hwb)).trans ?_))
  exact putLeaf_of_performed _ hrun

/-- The second step writes the page's blocks into the new frame; it shows CHUNK as the migrated page will leave it. -/
theorem migratePage_copy {ls : List (Word × Loc)} {rd : List EBlock × State} (hmark : s.mark 2 0 = 1) (hclosed : shootdownOpen s k = false)
    (hls : ((List.range 1024).map fun j => (migratedVa s k + BitVec.ofNat 64 (64 * j),
      (⟨leafKey 0 (foundLeaf s) (migratedVa s k).toNat + 64 * j, leafFar (foundLeaf s), foundLeaf s⟩ : Loc))) = ls)
    (hrd : takeStruck 3 (cmdAgent s 3 0) c (fun _ => 0) ue ls s = rd)
    (h : commits 2 c (cmdAgent s 3 0)
      (migrateWrites (s.work 2).prm (migratedVa s k) (foundLeaf s) (newFrame s k) (newFrameFar s) rd.1 rd.2)
      (fun s => s.setProg 2 4 (BitVec.ofNat 64 (k + 1)))
      (fun s => migrateStep 2 (if ue.any fun u => u.again && decide (u.request < 1024) then s.consume 1 else s)) rd.2 t) :
    migratePage ue s = .next t := by
  subst hls hrd
  rw [migratePage, hready]
  simp only [hi, hmark, MigStep.of]
  exact (if_neg (ne_true_of_eq_false hclosed)).trans (commitShown_of_commits h)

/-- The third step switches a leaf that nothing but A and D of has changed. -/
theorem migratePage_switch (hmark : s.mark 2 0 = 2) (hclosed : shootdownOpen s k = false) (hsame : sameLeaf (foundLeaf s) (leafNow s) = true)
    (hrun : performRun (cmdAgent s 3 0) none (leafPlace s)
      (toBytes 8 (migratedLeaf (leafNow s) (newFrame s k) (newFrameFar s)).toNat) s = (true, x)) :
    migratePage ue s = .next (migrateStep 3 (discardTlb x.core.partOf 3 (some (migratedVa s k).toNat) x)) := by
  rw [migratePage, hready]
  simp only [hi, hmark, MigStep.of]
  exact (if_neg (ne_true_of_eq_false hclosed)).trans ((if_pos hsame).trans (putLeaf_of_performed _ hrun))

/-- The fourth step clears WB. -/
theorem migratePage_unblock (hmark : s.mark 2 0 = 3) (hclosed : shootdownOpen s k = false)
    (hrun : performRun (cmdAgent s 3 0) none (leafPlace s) (toBytes 8 (setBits (leafNow s) 5 1 0).toNat) s = (true, x)) :
    migratePage ue s = .next (migrateStep 4 (discardTlb x.core.partOf 3 (some (migratedVa s k).toNat) x)) := by
  rw [migratePage, hready]
  simp only [hi, hmark, MigStep.of]
  exact (if_neg (ne_true_of_eq_false hclosed)).trans (putLeaf_of_performed _ hrun)

/-- The last step, the shootdown of the cleared leaf complete, advances CHUNK. -/
theorem migratePage_finish (hmark : 4 ≤ s.mark 2 0) (hclosed : shootdownOpen s k = false) :
    migratePage ue s = .next ((migrateStep 0 s).setProg 2 4 (BitVec.ofNat 64 (k + 1))) := by
  have hgo : (s.mark 2 0 != 0 && shootdownOpen s k) = false := by simp [hclosed]
  rw [migratePage, hready]
  simp only [hi, migStep_of_four_le hmark]
  exact if_neg (ne_true_of_eq_false hgo)

end

/-- Settles O33: a chunk of each form is the run of its places or the end of its writes, and a page of CMIGRATE goes step by step. The steps
of the page (log 64), the free tag of CFLAT (log 32), indices that cannot be read (log 118) and one request per run of blocks (log 31) are
the model's readings. -/
theorem copyChunks : Obligations.CopyChunks := by
  unfold Obligations.CopyChunks
  intro s c k ue t hready b A C ag move lands planar
  refine ⟨?moves, ?indexed, ?planes, ?unplanes, ?pagein, ?apply, ?extract, ?migrate⟩
  case moves => exact fun xs hxs hmove => (execCopyChunk_moves hready ue hxs).trans (runChunk_of_done hmove)
  case indexed =>
    intro sc ix u hform X O ns ks hix hmove
    exact (execCopyChunk_indexed hready ue hform).trans ((indexedChunk_of_indices rfl rfl rfl hix).trans (runChunk_of_done hmove))
  case planes =>
    rintro ⟨g, sa, sc, sw, p, r, hi⟩ hdir ts hdone
    exact (execCopyChunk_planar hready ue hi).trans ((if_pos hdir).trans (runChunk_of_done hdone))
  case unplanes =>
    rintro tops u ⟨g, sa, sc, sw, p, r, hi⟩ hdir nb ts ask htops ps hspan hdone
    exact (execCopyChunk_planar hready ue hi).trans ((if_neg hdir).trans
      ((unplaneChunk_of_tops rfl rfl rfl rfl rfl rfl htops rfl hspan).trans (runChunk_of_done hdone)))
  case pagein =>
    intro g sw p r u es v hi src dst ag side later hdest hread hnear hdone
    exact (execCopyChunk_cpagein hready ue hi).trans
      ((pageinChunk_of_read rfl rfl rfl rfl rfl hdest hread hnear).trans (runChunk_of_done hdone))
  case apply =>
    intro g sw p r es u rs v xs hi hdir js hread hfound hnear hxs ws hlands
    exact (execCopyChunk_ctags hready ue hi).trans ((if_neg hdir).trans
      ((applyChunk_of_read rfl rfl hread hfound hnear hxs).trans (finishChunk_of_commits hlands)))
  case extract =>
    intro g sw p r rs u ds v hi hdir js hfound w hit es hplaces ws x hlands
    exact (execCopyChunk_ctags hready ue hi).trans ((if_pos hdir).trans
      ((extractChunk_of_found rfl rfl hfound rfl rfl rfl hplaces).trans (finishChunk_of_commits hlands)))
  case migrate =>
    intro g sw p r hi va newFar frame ag old at_ now shot paged
    have hpaged : ∀ t, migratePage ue s = .next t → paged t := fun t => exec_of_migratePage hready ue hi
    refine ⟨?block, ?waits, fun hmark hclosed => ⟨?copy, ?switch, ?unblock, ?finish⟩⟩
    case block =>
      exact fun leaf u x hmark hleaf hframe hwb hrun => hpaged _ (migratePage_block hready hi hmark hleaf hframe hwb hrun)
    case waits => exact fun hmark hopen => hpaged _ (migratePage_of_open hready hi hmark hopen)
    case copy =>
      intro hmark ls rd struck hcommits
      exact hpaged t (migratePage_copy hready hi hmark hclosed rfl rfl hcommits)
    case switch => exact fun x hmark hsame hrun => hpaged _ (migratePage_switch hready hi hmark hclosed hsame hrun)
    case unblock => exact fun x hmark hrun => hpaged _ (migratePage_unblock hready hi hmark hclosed hrun)
    case finish => exact fun hmark => hpaged _ (migratePage_finish hready hi hmark hclosed)

end Sys2Proof.Proofs

/-! PROOF. The steps and retirements of the matrix engine (09 R285 to R287 R293 to R296 R303, 08 R270). -/

namespace Sys2Proof.Proofs

open Sys2Proof.Machine Sys2Proof.Laws Sys2Proof.Safety

/-- A matrix command that a stop does not hold back: none is requested, or its tile is begun and has to be completed (09 R287). -/
theorem not_stopHolds {s : State} (hgoes : (s.work 0).stopReq = 0 ∨ (s.work 0).mid = true) :
    ¬((s.work 0).stopReq ≠ 0 ∧ (!(s.work 0).mid) = true) := by
  rintro ⟨hreq, hmid⟩
  rcases hgoes with hnone | hbegun
  · exact hreq hnone
  · simp [hbegun] at hmid

/-- Elements of the matrix engine whose writes can be performed are retired, poison among them is consumed, and the position moves. -/
theorem retireElems_of_writes {c : Cmd} {ag : Agent} {es : List EElem} {adv : State → State} {s t : State}
    (h : writesElems 0 c ag es (fun s => adv (if es.any EElem.poison then s.consume 1 else s)) s t) :
    retireElems c ag es adv s = .next t := by
  obtain ⟨ds, u, hplaces, hcommits⟩ := h
  exact (eng_of_ok hplaces).trans (commitUnit_of_commits hcommits)

section
variable {s : State} {c : Cmd} (hready : s.engineReady 0 = some c)
include hready

/-! The command's kind decides which step and which retirement the engine's events are. -/

theorem execMatrixTileStep_bankError : execMatrixTileStep (some 0) s = .next (strikeBank c s) := by
  simp only [execMatrixTileStep, matrixReady, hready]

theorem execMatrixTileStep_phaseError (k : Nat) : execMatrixTileStep (some (k + 1)) s = .next (strikeTile 0 k c s) := by
  simp only [execMatrixTileStep, matrixReady, hready]

theorem execMatrixTileStep_gemm (hgemm : isGemm c.instr = true) : execMatrixTileStep none s = gemmNext c s := by
  simp only [execMatrixTileStep, matrixReady, hready, hgemm, if_true]

theorem execMatrixRetirement_gemm (hgemm : isGemm c.instr = true) : execMatrixRetirement s = gemmRetire c s := by
  simp only [execMatrixRetirement, matrixReady, hready, hgemm, if_true]

theorem execMatrixRetirement_attn (hattn : isGemm c.instr = false) : execMatrixRetirement s = attnRetire c s := by
  simp only [execMatrixRetirement, matrixReady, hready, hattn, Bool.false_eq_true, if_false]

/-- The first candidate is visited once its three phases are fetched (09 R293). -/
theorem execMattnKeyTileVisit_of_phases {t : Nat} {r : List Nat} {pq pk pv : Phase} (hattn : isGemm c.instr = false)
    (hbegun : s.mark 0 4 ≠ 0) (hgoes : (s.work 0).stopReq = 0 ∨ (s.work 0).mid = true)
    (hchunk : attnAtChunk (attnOf c (s.work 0).prm) s = false)
    (hcand : candidates c (attnOf c (s.work 0).prm) (s.mark 0 2) s = t :: r)
    (hq : s.phaseOf 0 0 (attnUnit (attnOf c (s.work 0).prm) (s.mark 0 0) (s.mark 0 1) 0) = some pq)
    (hk : s.phaseOf 0 1 (attnUnit (attnOf c (s.work 0).prm) (s.mark 0 0) (s.mark 0 1) t) = some pk)
    (hv : s.phaseOf 0 2 (attnUnit (attnOf c (s.work 0).prm) (s.mark 0 0) (s.mark 0 1) t) = some pv) :
    execMattnKeyTileVisit s = .next (visit c t pq pk pv s) := by
  have hgo : ¬(s.mark 0 4 = 0 ∨ ((s.work 0).stopReq ≠ 0 ∧ (!(s.work 0).mid) = true) ∨
      attnAtChunk (attnOf c (s.work 0).prm) s = true) :=
    not_or.mpr ⟨hbegun, not_or.mpr ⟨not_stopHolds hgoes, ne_true_of_eq_false hchunk⟩⟩
  simp only [execMattnKeyTileVisit, matrixReady, hready, hattn, Bool.false_eq_true, if_false, if_neg hgo, hcand, hq, hk, hv]

end

section
variable {s t : State} {c : Cmd}

/-- A tile step whose two phases are fetched adds them to the bank that is loaded (09 R285). -/
theorem gemmNext_of_phases {pa pb : Phase} {u : State} (hbatch : (posAt s).b < (dimsOf c (s.work 0).prm).nb)
    (hstep : (posAt s).ks < (dimsOf c (s.work 0).prm).kt) (hgoes : (s.work 0).stopReq = 0 ∨ (s.work 0).mid = true)
    (hchunk : atChunk s (s.work 0).prm (posAt s).ks = false)
    (ha : s.phaseOf 0 0 ((dimsOf c (s.work 0).prm).unit (posAt s)) = some pa)
    (hb : s.phaseOf 0 1 ((dimsOf c (s.work 0).prm).unit (posAt s)) = some pb)
    (hload : loadBank c (s.work 0).prm (dimsOf c (s.work 0).prm) (posAt s) s = .ok () u) :
    gemmNext c s = .next (stepBank c pa pb u) := by
  have hgo : ¬((dimsOf c (s.work 0).prm).nb ≤ (posAt s).b ∨ (dimsOf c (s.work 0).prm).kt ≤ (posAt s).ks ∨
      ((s.work 0).stopReq ≠ 0 ∧ (!(s.work 0).mid) = true) ∨ atChunk s (s.work 0).prm (posAt s).ks = true) :=
    not_or.mpr ⟨Nat.not_le.mpr hbatch, not_or.mpr ⟨Nat.not_le.mpr hstep, not_or.mpr ⟨not_stopHolds hgoes, ne_true_of_eq_false hchunk⟩⟩⟩
  simp only [gemmNext, if_neg hgo, ha, hb]
  exact eng_of_ok hload

/-- A tile past its last step retires to C (09 R285). -/
theorem gemmRetire_complete (hmid : (s.work 0).mid = true) (hpast : (dimsOf c (s.work 0).prm).kt ≤ (posAt s).ks) :
    gemmRetire c s = retireElems c (matrixAgent s (s.work 0).prm)
      (bankElems (s.work 0) (outVa c (s.work 0).prm (dimsOf c (s.work 0).prm) (posAt s)) ((dimsOf c (s.work 0).prm).elems (posAt s)))
      (retireTo ((dimsOf c (s.work 0).prm).after (posAt s)) false true) s := by
  simp only [gemmRetire, hmid, hpast, Bool.not_true, Bool.false_eq_true, if_false, if_true]

/-- A tile that a stop meets past a reduction chunk retires to the partial area (09 R286 R287). -/
theorem gemmRetire_chunk (hmid : (s.work 0).mid = true) (hleft : (posAt s).ks < (dimsOf c (s.work 0).prm).kt)
    (hchunk : atChunk s (s.work 0).prm (posAt s).ks = true) :
    gemmRetire c s = retireElems c (matrixAgent s (s.work 0).prm)
      (bankElems (s.work 0) (areaVa (s.work 0).prm) ((dimsOf c (s.work 0).prm).elems (posAt s))) (retireTo (posAt s) true false) s := by
  simp only [gemmRetire, hmid, hchunk, Nat.not_le.mpr hleft, Bool.not_true, Bool.false_eq_true, if_false, if_true]

/-- The misses of a retirement are counted and MISSN moves past their entries (09 R295; log 66). -/
def countMisses (k : Nat) (s : State) : State := (s.addCounts 0 ⟨0, 0, 0, 0, k⟩).setMark 0 5 (s.mark 0 5 + k)

/-- A query tile without candidates left retires its rows and its misses (09 R294 R295). -/
theorem attnRetire_complete (hbegun : s.mark 0 4 ≠ 0) (hbatch : s.mark 0 0 < (attnOf c (s.work 0).prm).nb)
    (hcand : candidates c (attnOf c (s.work 0).prm) (s.mark 0 2) s = []) :
    let a := attnOf c (s.work 0).prm
    let n := s.mark 0 0
    let q := s.mark 0 1
    let m := missElems (s.work 0).prm n q a.tk s
    attnRetire c s = retireElems c (attnAgent s (s.work 0).prm 0) (attnOut c (s.work 0).prm a n q s ++ m.1)
      (fun s => retireTo (if q + 1 < a.tq then ⟨n, q + 1, 0, 0⟩ else ⟨n + 1, 0, 0, 0⟩) false false
        (countMisses m.2 (swapPhase 0 0 (attnUnit a n q 0) s))) s := by
  have hgo : ¬(s.mark 0 4 = 0 ∨ (attnOf c (s.work 0).prm).nb ≤ s.mark 0 0) := not_or.mpr ⟨hbegun, Nat.not_le.mpr hbatch⟩
  simp only [attnRetire, if_neg hgo, hcand, List.isEmpty_nil, if_true]
  rfl

/-- A query tile that a stop meets past a reduction chunk retires its row states and the misses so far (09 R295 R296). -/
theorem attnRetire_chunk (hbegun : s.mark 0 4 ≠ 0) (hbatch : s.mark 0 0 < (attnOf c (s.work 0).prm).nb)
    (hcand : candidates c (attnOf c (s.work 0).prm) (s.mark 0 2) s ≠ []) (hchunk : attnAtChunk (attnOf c (s.work 0).prm) s = true) :
    let a := attnOf c (s.work 0).prm
    let n := s.mark 0 0
    let q := s.mark 0 1
    let k := s.mark 0 2
    let m := missElems (s.work 0).prm n q k s
    attnRetire c s = retireElems c (attnAgent s (s.work 0).prm 0) (attnArea (s.work 0).prm a q s ++ m.1)
      (fun s => retireTo ⟨n, q, k, 0⟩ true false (countMisses m.2 s)) s := by
  have hgo : ¬(s.mark 0 4 = 0 ∨ (attnOf c (s.work 0).prm).nb ≤ s.mark 0 0) := not_or.mpr ⟨hbegun, Nat.not_le.mpr hbatch⟩
  have hleft : (candidates c (attnOf c (s.work 0).prm) (s.mark 0 2) s).isEmpty = false := by simp [hcand]
  simp only [attnRetire, if_neg hgo, hleft, hchunk, Bool.false_eq_true, if_false, if_true]
  rfl

end

/-- Settles O30, event by event. MISS counted where a query tile retires (log 66), what poison of a bitmap reaches in a tile step (log 67)
and the masked elements of PV that a visit leaves out (log 68) are the model's readings. -/
theorem matrixEvents : Obligations.MatrixEvents := by
  unfold Obligations.MatrixEvents
  intro s c hready w d p a ag poisons miss goesOn
  refine ⟨⟨?bankError, ?phaseError⟩, ?tileStep, ?gemmRetires, ?visit, ?attnRetires, ?attnStops⟩
  case bankError => exact execMatrixTileStep_bankError hready
  case phaseError => exact execMatrixTileStep_phaseError hready
  case tileStep =>
    intro pa pb u hgemm hbatch hstep hgoes hchunk ha hb hload
    exact (execMatrixTileStep_gemm hready hgemm).trans (gemmNext_of_phases hbatch hstep hgoes hchunk ha hb hload)
  case gemmRetires =>
    intro t hgemm hmid
    have hexec := execMatrixRetirement_gemm hready hgemm
    refine ⟨fun hpast hwrites => ?complete, fun hleft hchunk hwrites => ?chunk⟩
    case complete => exact hexec.trans ((gemmRetire_complete hmid hpast).trans (retireElems_of_writes hwrites))
    case chunk => exact hexec.trans ((gemmRetire_chunk hmid hleft hchunk).trans (retireElems_of_writes hwrites))
  case visit =>
    intro t pq pk pv r hattn hbegun hgoes hchunk hcand hq hk hv
    exact execMattnKeyTileVisit_of_phases hready hattn hbegun hgoes hchunk hcand hq hk hv
  case attnRetires =>
    intro t hattn hbegun hbatch hcand n q o m next hwrites
    exact (execMatrixRetirement_attn hready hattn).trans
      ((attnRetire_complete hbegun hbatch hcand).trans (retireElems_of_writes hwrites))
  case attnStops =>
    intro t hattn hbegun hbatch hcand hchunk n q k m es hwrites
    exact (execMatrixRetirement_attn hready hattn).trans
      ((attnRetire_chunk hbegun hbatch hcand hchunk).trans (retireElems_of_writes hwrites))

end Sys2Proof.Proofs

/-! PROOF. The units of the scout engine (10 R314 R315 R318 R319 R320 R322 R325, 08 R270). -/

namespace Sys2Proof.Proofs

open Sys2Proof.Machine Sys2Proof.Laws Sys2Proof.Safety

/-- The guard of an event passes a command of its own kind `o` whose further condition holds. -/
theorem guard_passes {o o' : ScoutOp} {r : Prop} (ho : o = o') (hr : ¬r) : ¬(o ≠ o' ∨ r) :=
  not_or.mpr ⟨not_not_intro ho, hr⟩

/-! What sweep 2 writes, and where it leaves the command (10 R315 R321). -/

/-- The f32 that stands at offset `o` of the workspace among the blocks read. -/
def workspaceRead (b : List Byte) (m : SMap EBlock) (o : Nat) : Nat :=
  ofBytes ((blockAt m (fw b 72 + BitVec.ofNat 64 o)).at (fw b 72 + BitVec.ofNat 64 o) 4)

/-- The mask row of a pass: its own bits and those of the batches before it, `prev`. -/
def decidedRow (c : Cmd) (b : List Byte) (p : ScoutPos) (m : SMap EBlock) (prev : List Nat) (s : State) : List Nat :=
  (bitsWords (scoutTk c b) (sweep2Bit c b p s (workspaceRead b m))).zipIdx.map fun w => Nat.lor w.1 (prev.getD w.2 0)

/-- A pass that is decided: the last batch counts the row's bits, and the next batch, the next query tile or the end follows
(log 115). -/
def passDecided (c : Cmd) (b : List Byte) (p : ScoutPos) (ws : List Nat) (s : State) : State :=
  let last := decide (p.b + 1 = field b 92 4)
  let s := if last then s.setProg 1 5 (s.prog 1 5 + BitVec.ofNat 64 (popWords ws)) else s
  let s := (s.setMark 1 4 0).modWork 1 fun w => { w with errors := 0, rows := [], poison := false }
  setScoutPos (if !last then ⟨p.q, p.b + 1, 1, 0⟩ else if p.q + 1 < scoutTq c b then ⟨p.q + 1, 0, 1, 0⟩
    else ⟨p.q, p.b, 2, scoutTk c b⟩) s

/-- A mask row is written: the next one follows, and poison among it is consumed (10 R319 R320). -/
def maskRowDone (p : ScoutPos) (bad : Bool) (s : State) : State := setScoutPos { p with q := p.q + 1 } (if bad then s.consume 1 else s)

section
variable {s : State} {c : Cmd} (hready : scoutReady s = some c)
include hready

/-! SCOUT_SWEEP1_TILE: the branch that the position, a stop or a fault, and the tiles left choose (10 R314 R322 R325). -/

section
variable (hscout : scoutOp c.instr = .scout) (hsweep : (scoutPos s).sweep = 1)
include hscout hsweep

/-- Before a resumed pass has begun again, an error in the row states that it reads back strikes the workspace (10 R325). -/
theorem execScoutSweep1Tile_workspaceError (hunbegun : s.mark 1 4 = 0) (hpast : (scoutPos s).t ≠ 0) :
    execScoutSweep1Tile (some 0) s = .next (workspaceError c (s.work 1).prm (scoutPos s) s) := by
  simp only [execScoutSweep1Tile, hready, if_neg (guard_passes hscout (not_not_intro hsweep)), if_pos hunbegun, true_and, if_pos hpast]

variable (hbegun : s.mark 1 4 ≠ 0)
include hbegun

theorem execScoutSweep1Tile_phaseError (hnone : (s.work 1).deferred = none) (k : Nat) :
    execScoutSweep1Tile (some (k + 1)) s = .next (strikeTile 1 k c s) := by
  simp only [execScoutSweep1Tile, hready, if_neg (guard_passes hscout (not_not_intro hsweep)), if_neg hbegun, hnone,
    Option.isSome_none, Bool.false_eq_true, if_false]

/-- The row states are stored where a stop or a fault waits for them (10 R322; logs 35, 113). -/
theorem execScoutSweep1Tile_waits
    (hwaits : (s.work 1).mid = true ∧ ((s.work 1).stopReq ≠ 0 ∨ (s.work 1).deferred.isSome = true)) :
    execScoutSweep1Tile none s = storeRows c (s.work 1).prm (scoutPos s) s := by
  simp only [execScoutSweep1Tile, hready, if_neg (guard_passes hscout (not_not_intro hsweep)), if_neg hbegun, if_pos hwaits]

variable (hgoes : ¬((s.work 1).mid = true ∧ ((s.work 1).stopReq ≠ 0 ∨ (s.work 1).deferred.isSome = true)))
include hgoes

/-- The first tile that is needed is visited once its phases are fetched (10 R314). -/
theorem execScoutSweep1Tile_visits {t : Nat} {r : List Nat} {pq pk : Phase} (hneeded : needed c (scoutPos s).t s = t :: r)
    (hq : s.phaseOf 1 0 (scoutUnit c (s.work 1).prm (scoutPos s) 0) = some pq)
    (hk : s.phaseOf 1 1 (scoutUnit c (s.work 1).prm (scoutPos s) t) = some pk) :
    execScoutSweep1Tile none s = scoutWrite c (sweepOut c t pq pk s).1 (sweepOut c t pq pk s).2 s := by
  simp only [execScoutSweep1Tile, hready, if_neg (guard_passes hscout (not_not_intro hsweep)), if_neg hbegun, if_neg hgoes,
    hneeded, hq, hk]

/-- Without a tile left the row states are stored and sweep 2 follows (10 R314). -/
theorem execScoutSweep1Tile_ends (hneeded : needed c (scoutPos s).t s = []) (hfilled : s.filling 1 0 = false) :
    execScoutSweep1Tile none s = scoutWrite c (rowElems c (s.work 1).prm (scoutPos s) s)
      (fun u => setScoutPos { scoutPos s with sweep := 2, t := 0 }
        (countSkips (scoutTk c (s.work 1).prm) (swapPhase 1 0 (scoutUnit c (s.work 1).prm (scoutPos s) 0) (rowsStored u)))) s := by
  simp only [execScoutSweep1Tile, hready, if_neg (guard_passes hscout (not_not_intro hsweep)), if_neg hbegun, if_neg hgoes,
    hneeded, hfilled, Bool.false_eq_true, if_false]

end

/-! SCOUT_SWEEP2 (10 R315 R325). -/

section
variable (hscout : scoutOp c.instr = .scout) (hsweep : (scoutPos s).sweep = 2) (hbegun : s.mark 1 4 ≠ 0)
include hscout hsweep hbegun

theorem execScoutSweep2_workspaceError :
    execScoutSweep2 true s = .next (workspaceError c (s.work 1).prm (scoutPos s) s) := by
  simp only [execScoutSweep2, hready, if_neg (guard_passes hscout (not_or.mpr ⟨not_not_intro hsweep, hbegun⟩)), if_true]

/-- The stored values decide every tile of the pass, once they and the row of the batches before are read. -/
theorem execScoutSweep2_decides {m : SMap EBlock} {prev : List Nat} {u v : State}
    (hread : readBlocks (scoutAgent s (s.work 1).prm false) 2 c.pc (fun _ => 0)
      ((List.range (wsBytes (scoutTk c (s.work 1).prm) / 64)).map fun k => fw (s.work 1).prm 72 + BitVec.ofNat 64 (64 * k)) s = .ok m u)
    (hprev : (if (scoutPos s).b = 0 then Act.ok [] u
      else (readMaskRow (scoutAgent s (s.work 1).prm false) 2 (fw (s.work 1).prm 48) (scoutPos s).q
        (scoutTk c (s.work 1).prm) u).map Prod.fst) = .ok prev v) :
    let b := (s.work 1).prm
    let p := scoutPos s
    let ws := decidedRow c b p m prev u
    execScoutSweep2 false s = scoutWrite c (maskElems (fw b 48) p.q (scoutTk c b) ws []) (passDecided c b p ws) v := by
  simp only [execScoutSweep2, hready, if_neg (guard_passes hscout (not_or.mpr ⟨not_not_intro hsweep, hbegun⟩)),
    Bool.false_eq_true, if_false]
  exact (eng_of_ok hread).trans (eng_of_ok hprev)

end

/-! SSCORE_TILE (10 R318, 08 R270). -/

section
variable (hscore : scoutOp c.instr = .sscore) (hbegun : s.mark 1 4 ≠ 0)
include hscore hbegun

theorem execSscoreTile_phaseError (k : Nat) : execSscoreTile (some k) s = .next (strikeTile 1 k c s) := by
  simp only [execSscoreTile, hready, if_neg (guard_passes hscore hbegun)]

/-- A tile whose K rows are needed is scored once its phases are fetched. -/
theorem execSscoreTile_scores {pq pk : Phase} (hneeded : (needed c (scoutPos s).t s).contains (scoutPos s).t = true)
    (hq : s.phaseOf 1 0 (scoutUnit c (s.work 1).prm (scoutPos s) 0) = some pq)
    (hk : s.phaseOf 1 1 (scoutUnit c (s.work 1).prm (scoutPos s) (scoutPos s).t) = some pk) :
    execSscoreTile none s = scoreTile c (s.work 1).prm (scoutPos s) (some (pq, pk)) s := by
  simp only [execSscoreTile, hready, if_neg (guard_passes hscore hbegun), hneeded, if_true, hq, hk]

/-- Any other tile is written without phases; the last one waits while the Q phase is filled. -/
theorem execSscoreTile_blank (hneeded : (needed c (scoutPos s).t s).contains (scoutPos s).t = false)
    (hfilled : (scoutPos s).t + 1 < scoutTk c (s.work 1).prm ∨ s.filling 1 0 = false) :
    execSscoreTile none s = scoreTile c (s.work 1).prm (scoutPos s) none s := by
  have hgo : ¬(scoutTk c (s.work 1).prm ≤ (scoutPos s).t + 1 ∧ s.filling 1 0 = true) := by
    rintro ⟨hlast, hfilling⟩
    rcases hfilled with hmore | hdone
    · omega
    · simp [hdone] at hfilling
  simp only [execSscoreTile, hready, if_neg (guard_passes hscore hbegun), hneeded, Bool.false_eq_true, if_false, if_neg hgo]

end

/-! MASK_ROW (10 R319 R320). -/

theorem execMaskRow_swin (hswin : scoutOp c.instr = .swin) :
    let b := (s.work 1).prm
    let p := scoutPos s
    let tk := scoutTk c b
    execMaskRow s = scoutWrite c (maskElems (fw b 48) p.q tk (bitsWords tk ((scoutExcl c b).anyPair p.q)) []) (maskRowDone p false) s := by
  simp only [execMaskRow, hready, hswin]
  rfl

/-- The two rows of SMASK are combined word by word, once both are read. -/
theorem execMaskRow_smask (hsmask : scoutOp c.instr = .smask) {y z : List Nat × List Bool} {u v : State}
    (hfirst : readMask (scoutAgent s (s.work 1).prm false) 2 (fw (s.work 1).prm 56) (scoutPos s).q (scoutTk c (s.work 1).prm) s = .ok y u)
    (hsecond : readMask (scoutAgent s (s.work 1).prm false) 2 (fw (s.work 1).prm 64) (scoutPos s).q (scoutTk c (s.work 1).prm) u = .ok z v) :
    let b := (s.work 1).prm
    let p := scoutPos s
    let bad := (y.2.zip z.2).map fun x => x.1 || x.2
    execMaskRow s = scoutWrite c
      (maskElems (fw b 48) p.q (scoutTk c b) ((y.1.zip z.1).map fun w => maskOp (field b 90 1) w.1 w.2) bad)
      (maskRowDone p (bad.contains true)) v := by
  simp only [execMaskRow, hready, hsmask]
  exact (eng_of_ok hfirst).trans (eng_of_ok hsecond)

end

/-- Settles O31, event by event. That a stop, and a fault met in sweep 1, wait for the step that stores the row states (logs 35, 113) is the
model's reading, and what the block of a complete SCOUT or SSCORE shows (log 115) is its choice. -/
theorem scoutEvents : Obligations.ScoutEvents := by
  unfold Obligations.ScoutEvents
  intro s c hready b p tk ag rows stored waits
  refine ⟨fun hscout hsweep hbegun => ⟨?stores, ?visits, ?ends, ?phaseError⟩, ?rowsError, ?sweep2Error, ?decides, ?scores, ?blank,
    ?scoreError, ?window, ?combine⟩
  case stores =>
    exact fun x hwaits hwrites => (execScoutSweep1Tile_waits hready hscout hsweep hbegun hwaits).trans (scoutWrite_of_writes hwrites)
  case visits =>
    intro t r pq pk x hgoes hneeded hq hk hwrites
    exact (execScoutSweep1Tile_visits hready hscout hsweep hbegun hgoes hneeded hq hk).trans (scoutWrite_of_writes hwrites)
  case ends =>
    intro x hgoes hneeded hfilled hwrites
    exact (execScoutSweep1Tile_ends hready hscout hsweep hbegun hgoes hneeded hfilled).trans (scoutWrite_of_writes hwrites)
  case phaseError => exact fun k hnone => execScoutSweep1Tile_phaseError hready hscout hsweep hbegun hnone k
  case rowsError => exact execScoutSweep1Tile_workspaceError hready
  case sweep2Error => exact execScoutSweep2_workspaceError hready
  case decides =>
    intro m u prev v x hscout hsweep hbegun hread rd hprev ws last hwrites
    exact (execScoutSweep2_decides hready hscout hsweep hbegun hread hprev).trans (scoutWrite_of_writes hwrites)
  case scores =>
    intro pq pk x hscore hbegun hneeded hq hk hwrites
    exact (execSscoreTile_scores hready hscore hbegun hneeded hq hk).trans (scoutWrite_of_writes hwrites)
  case blank =>
    intro x hscore hbegun hneeded hfilled hwrites
    exact (execSscoreTile_blank hready hscore hbegun hneeded hfilled).trans (scoutWrite_of_writes hwrites)
  case scoreError => exact fun k hscore hbegun => execSscoreTile_phaseError hready hscore hbegun k
  case window => exact fun x hswin hwrites => (execMaskRow_swin hready hswin).trans (scoutWrite_of_writes hwrites)
  case combine =>
    intro y z u v x hsmask hfirst hsecond bad hwrites
    exact (execMaskRow_smask hready hsmask hfirst hsecond).trans (scoutWrite_of_writes hwrites)

end Sys2Proof.Proofs

/-! PROOF. The steps and the messages of the exchange engine (11 R341 to R347, 12 R357). -/

namespace Sys2Proof.Proofs

open Sys2Proof.Machine Sys2Proof.Laws Sys2Proof.Safety

/-! A commit that writes nothing: the sending of a staged message (11 R342, 12 R357 R361). -/

section
variable {q : Nat} {c : Cmd} {ag : Agent} {extra : List LogEnt} {adv : State → State} {s u : State}
  (hlive : s.core.replay = none)
include hlive

/-- Without writes and without irreversible effects that LOGMODE records, the position moves. -/
theorem commitWith_nil_of_unlogged (hquiet : extra = [] ∨ bits s.core.log.mode 0 2 = 0) :
    commitWith q c ag [] extra adv s = .next (adv s) := by
  have hents : (if bits s.core.log.mode 0 2 = 0 then [] else extra) = [] := by
    rcases hquiet with h | h <;> simp [h]
  simp [commitWith, commitShown, dirtyAll, markDirty, tileEnts, sortOn, tileRuns, hlive, hents]

/-- Without writes, the irreversible effects alone are recorded before the position moves. -/
theorem commitWith_nil_of_logged (hextra : extra ≠ []) (hmode : bits s.core.log.mode 0 2 ≠ 0) (hlog : logReady extra s = (none, u)) :
    commitWith q c ag [] extra adv s = .next (adv ((extra.foldl logAppend u).modWork q fun w => { w with logWait := false })) := by
  simp [commitWith, commitShown, dirtyAll, markDirty, tileEnts, sortOn, tileRuns, hlive, hmode, hextra, hlog]

end

/-! EXCHANGE_STEP: the next action of the running command (11 R342). -/

section
variable {s : State} {c : Cmd} (hready : xReady s = some c)
include hready

/-- A staged message that is due, and that no error strikes, is sent as it was staged. -/
theorem execExchangeStep_send {st : Staged}
    (hnext : (collOf c (s.work 4).prm).next c (s.work 4).prm s = some (.send st)) :
    execExchangeStep none s = commitWith 4 c (xAgent s (s.work 4).prm) []
      (if xAway (s.work 4).prm st.msg.dst then [xIrrev c st.msg] else []) (sentOut c (s.work 4).prm st.slot st.msg) s := by
  simp only [execExchangeStep, hready, hnext, sendStaged]

/-- Any other action reads its local elements and commits what it makes of them. -/
theorem execExchangeStep_act {a : XAct} {ls : List (Word × Loc)} {u : State} {o : XOut} {b : List Byte} {k : Coll}
    {x : SMap EBlock × State} (hb : (s.work 4).prm = b) (hk : collOf c b = k)
    (hnext : k.next c b s = some a) (hother : ∀ st, a ≠ .send st)
    (hfound : locateBlocks (xAgent s b) .read
      (oneEach (((List.range (k.reads a).2).map fun i => (c.shape 0).addrOf ((k.reads a).1 + i)).map blockOf)) s = .ok ls u)
    (hread : takeSources 5 (xAgent u b) c (fun _ => (c.shape 0).farTag 0) none ls u = x)
    (hact : k.act c b x.1 a = some o) :
    execExchangeStep none s = commitAct c b k a a.chunk o x.2 := by
  subst hb hk hread
  have hgoes := fun f => eng_of_ok (q := 4) (c := c) (kind := .read) (f := f) hfound
  cases a with
  | send st => exact absurd rfl (hother st)
  | _ => simp only [execExchangeStep, hready, hnext, hgoes, hact]

end

/-- The bookkeeping of an action that stages `m` in `slot`: a wait for its ACK may begin (11 R342 R345). -/
def stagedDone (b : List Byte) (k : Coll) (a : XAct) (chunk : Nat) (o : XOut) (slot : Nat) (m : Message) (s : State) : State :=
  beginWaits k b s (actDone b k a chunk o (modStaged (fun l => l ++ [⟨slot, true, m⟩]) s))

section
variable {c : Cmd} {b : List Byte} {k : Coll} {a : XAct} {chunk : Nat} {o : XOut} {ds : List ((Word × Loc) × List EElem)} {s v t : State}
  (hplaces : locateElems (xAgent s b) o.writes s = .ok ds v)
include hplaces

/-- An action that passes nothing on writes its results. -/
theorem commitAct_of_results (hnone : o.msg = none)
    (hcommits : commits 4 c (xAgent s b) (ds.map fun d => writeElems (k.rule b) d.1 d.2 v)
      (actDone b k a chunk o) (actDone b k a chunk o) v t) :
    commitAct c b k a chunk o s = .next t := by
  refine (eng_of_ok hplaces).trans ?_
  simp only [hnone]
  exact commitUnit_of_commits hcommits

/-- An action that passes a value on writes its results and stages the message in the lowest free slot (log 71). -/
theorem commitAct_of_staged {y : Nat × Nat × List XElem} {slot : Nat} {m : Message} {st : List ((Word × Loc) × List EElem)} {w : State}
    (hmsg : o.msg = some y) (hslot : freeSlot b v = some slot) (hm : actMessage b k chunk y = m)
    (hstage : locateElems (xAgent s b) (stageElems b slot (freeBytes 64 v).1 m) (freeBytes 64 v).2 = .ok st w)
    (hcommits : commits 4 c (xAgent s b)
      (ds.map (fun d => writeElems (k.rule b) d.1 d.2 w) ++ st.map fun d => writeElems .inherit d.1 d.2 w)
      (stagedDone b k a chunk o slot m) (stagedDone b k a chunk o slot m) w t) :
    commitAct c b k a chunk o s = .next t := by
  subst hm
  refine (eng_of_ok hplaces).trans ?_
  simp only [hmsg, hslot]
  exact (eng_of_ok hstage).trans (commitUnit_of_commits hcommits)

end

/-! A message arrives, or is lost (11 R344, 15 R448). -/

/-- What is done at another core ends with the turn back where it was. -/
theorem atCore_of_next {k : Nat} {f : State → EngEnds} {s t : State} (h : f (s.focus k) = .next t) :
    atCore k f s = .next (t.focus s.core.id) := by
  simp only [atCore, h]

theorem onFabric_of_arrive {m : Message} {s u : State} (f : State → EngEnds) (hlost : m.lost = false) (harrive : arrive m s = some u) :
    onFabric m s f = f u := by
  simp only [onFabric, hlost, harrive, Bool.false_eq_true, if_false]

theorem onFabric_of_absent {m : Message} {s : State} (f : State → EngEnds) (hlost : m.lost = false) (habsent : arrive m s = none) :
    onFabric m s f = .next s := by
  simp only [onFabric, hlost, habsent, Bool.false_eq_true, if_false]

theorem onFabric_of_lost {m : Message} {s : State} (f : State → EngEnds) (hlost : m.lost = true) :
    onFabric m s f = .next (if s.dev.fabric.contains { m with lost := false } then
      loseMessage { m with lost := false } (s.dropFabric { m with lost := false }) else s) :=
  if_pos hlost

/-- The four messages differ in what they do where they arrive only. -/
theorem exec_message {m : Message} {i : Instr} (hi : i ∈ [Instr.startMsg m, .dataMsg m, .ackMsg m, .pausedMsg m]) (s : State) :
    ∃ f, exec i s = onFabric m s f := by
  simp only [List.mem_cons, List.not_mem_nil, or_false] at hi
  rcases hi with rfl | rfl | rfl | rfl <;> exact ⟨_, rfl⟩

/-! What a message does at the core `s` whose command `c` is running (11 R341 to R345). -/

/-- The peer is heard from: its timeout is counted from now (11 R345). -/
def heardFrom (m : Message) (s : State) : State := s.modExch fun x => { x with since := sput x.since m.src s.clock }

/-- A staged message that ACK `m` frees: one of its chunk for its sender (11 R342). -/
def ackFrees (m : Message) (z : Staged) : Bool := z.msg.dst == m.src && z.msg.chunk == m.chunk && z.msg.seq == m.seq

/-- DUPS counts a message that was consumed before (11 R343). -/
def countDuplicate (s : State) : State := s.setProg 4 9 (s.prog 4 9 + 1)

/-- DATA is consumed: its step of its chunk stands among the partials (11 R342). -/
def consumeData (m : Message) (s : State) : State :=
  s.modExch fun x => { x with
    consumed := x.consumed ++ [(m.chunk, m.step)], partials := x.partials ++ [⟨m.chunk, m.step, m.payload, m.metas⟩] }

section
variable {m : Message} {s w : State} {c : Cmd} (hrun : s.runningCmd 4 = some c) (hlive : s.core.replay = none)
  (hreceives : ((collOf c (s.work 4).prm).receives (s.work 4).prm m.chunk).contains m.step = true)
include hrun hlive hreceives

/-- DATA of a complete chunk is a duplicate whose ACK was lost: it is acknowledged again (11 R343). -/
theorem takeData_of_done (hdone : s.xDone m.chunk = true) :
    takeData m s = .next (xSend (s.work 4).prm
      (xMessage (collOf c (s.work 4).prm).op (s.work 4).prm .ack m.src m.chunk m.step) (countDuplicate (heardFrom m s))) := by
  simp only [takeData, hrun, hlive, hreceives, hdone, Option.isSome_none, Bool.not_true, Bool.or_self, Bool.false_eq_true,
    if_false, if_true]
  rfl

variable (hopen : s.xDone m.chunk = false)
include hopen

/-- DATA consumed before, of a chunk that is not complete, is discarded (11 R343). -/
theorem takeData_of_consumed (hconsumed : s.core.eng.exch.consumed.contains (m.chunk, m.step) = true) :
    takeData m s = .next (countDuplicate (heardFrom m s)) := by
  simp only [takeData, hrun, hlive, hreceives, hopen, hconsumed, Option.isSome_none, Bool.not_true, Bool.or_self,
    Bool.false_eq_true, if_false, if_true]
  rfl

variable (hnew : s.core.eng.exch.consumed.contains (m.chunk, m.step) = false)
include hnew

theorem takeData_of_unlogged (hlog : s.logFull = false) : takeData m s = .next (consumeData m (heardFrom m s)) := by
  simp only [takeData, hrun, hlive, hreceives, hopen, hnew, hlog, Option.isSome_none, Bool.not_true, Bool.not_false, Bool.or_self,
    Bool.false_eq_true, if_false, if_true]
  rfl

/-- In FULL the delivery is recorded before it is consumed (12 R362). -/
theorem takeData_of_logged (hlog : s.logFull = true) (hroom : logReady [xDelivery c m] (heardFrom m s) = (none, w)) :
    takeData m s = .next (consumeData m (logAppend w (xDelivery c m))) := by
  rw [heardFrom] at hroom
  simp only [takeData, hrun, hlive, hreceives, hopen, hnew, hlog, hroom, Option.isSome_none, Bool.not_true, Bool.or_self,
    Bool.false_eq_true, if_false]
  rfl

end

/-! What each message does where it has arrived, in the state `u`. -/

section
variable {m : Message} {s u : State} (hlost : m.lost = false) (harrive : arrive m s = some u)
include hlost harrive

section
variable (hnone : u.exchangeOf m = none)
include hnone

theorem execStartMsg_held : execStartMsg m s = .next (holdStarts [m] u) :=
  (onFabric_of_arrive _ hlost harrive).trans (by simp only [hnone])

theorem execDataMsg_discarded (hended : u.exchangeEnded m = none) : execDataMsg m s = .next u :=
  (onFabric_of_arrive _ hlost harrive).trans (by simp only [hnone, hended])

/-- DATA at a complete command is discarded and acknowledged (11 R343; log 72). -/
theorem execDataMsg_ended {x : Nat × Nat × List Byte} (hended : u.exchangeEnded m = some x) :
    execDataMsg m s = .next ((lateData x.2.1 x.2.2 m (u.focus x.1)).focus u.core.id) := by
  refine (onFabric_of_arrive _ hlost harrive).trans ?_
  simp only [hnone, hended]
  exact atCore_of_next rfl

/-- ACK at no running command frees the staged messages that a stopped one keeps (11 R347; log 72). -/
theorem execAckMsg_kept : execAckMsg m s = .next { u with dev := { u.dev with xstage := u.dev.xstage.map fun x =>
    if x.1 = m.comm.toNat ∧ x.2.1 = m.dst then
      (x.1, x.2.1, x.2.2.filter fun z => !ackFrees m z) else x } } :=
  (onFabric_of_arrive _ hlost harrive).trans (by simp only [hnone, ackFrees])

/-- PAUSED at no running command takes back the START that is held (11 R345; log 72). -/
theorem execPausedMsg_held : execPausedMsg m s = .next { u with dev := { u.dev with xheld := u.dev.xheld.filter fun a =>
    !(a.comm == m.comm && a.seq == m.seq && a.src == m.src && a.dst == m.dst) } } :=
  (onFabric_of_arrive _ hlost harrive).trans (by simp only [hnone])

end

section
variable {k : Nat} (hat : u.exchangeOf m = some k)
include hat

theorem execStartMsg_taken : execStartMsg m s = .next ((takeStart m (u.focus k)).focus u.core.id) := by
  refine (onFabric_of_arrive _ hlost harrive).trans ?_
  simp only [hat]
  exact atCore_of_next rfl

theorem execDataMsg_taken {t : State} (htake : takeData m (u.focus k) = .next t) : execDataMsg m s = .next (t.focus u.core.id) := by
  refine (onFabric_of_arrive _ hlost harrive).trans ?_
  simp only [hat]
  exact atCore_of_next htake

/-- ACK at the running command frees the staged messages of its chunk for its sender (11 R342). -/
theorem execAckMsg_taken {c : Cmd} (hrun : (u.focus k).runningCmd 4 = some c) :
    let v := u.focus k
    let b := (v.work 4).prm
    execAckMsg m s = .next ((beginWaits (collOf c b) b (heardFrom m v) (acknowledge (opCode c.instr)
      (ackFrees m) (heardFrom m v))).focus u.core.id) := by
  refine (onFabric_of_arrive _ hlost harrive).trans ?_
  simp only [hat]
  refine atCore_of_next ?_
  simp only [hrun]
  rfl

/-- PAUSED at the running command suspends the timeout for its sender, and DATA to it waits (11 R345). -/
theorem execPausedMsg_taken : execPausedMsg m s = .next (((u.focus k).modExch fun x => { x with
    started := x.started.filter fun t => t.src != m.src, pausedBy := addOnce x.pausedBy m.src,
    since := sput x.since m.src (u.focus k).clock }).focus u.core.id) := by
  refine (onFabric_of_arrive _ hlost harrive).trans ?_
  simp only [hat]
  exact atCore_of_next rfl

end

end

/-- Silence of a peer past TIMEOUT stops the command (11 R345). -/
theorem execExchangeTimeout_of_late {peer : Nat} {s : State} (hlate : exchangeLate peer s = true) :
    execExchangeTimeout peer s = .next (xStop Cause.exchangeTimeout peer 0xFF s) := by
  rw [execExchangeTimeout, if_pos hlate]

/-- Settles O34: a step sends or commits its action, and each message is one body where it arrives. That a START is held until a command
takes it, that DATA at a complete command is acknowledged, and that staged messages are kept by COMMID and rank is the model's reading
(log 72); the lowest free slot and the free header bytes are its choice (log 71). -/
theorem exchangeEvents : Obligations.ExchangeEvents := by
  unfold Obligations.ExchangeEvents
  intro s c m
  refine ⟨fun st hready hnext hlive => ⟨?sends, ?sendsLogged⟩, ?acts, ?absent, fun u hlost harrive => ⟨fun hnone => ?unmatched, ?running⟩,
    ?lost, ?late⟩
  case sends =>
    intro hquiet
    refine (execExchangeStep_send hready hnext).trans (commitWith_nil_of_unlogged hlive ?_)
    exact hquiet.imp_left fun hnear => by simp [hnear]
  case sendsLogged =>
    intro u haway hmode hlog
    refine (execExchangeStep_send hready hnext).trans ?_
    rw [if_pos haway]
    exact commitWith_nil_of_logged hlive (List.cons_ne_nil _ _) hmode hlog
  case acts =>
    intro a ls u o t hready b k ag lands hnext hother r hfound x hact
    have hstep : exec (.exchangeStep none) s = commitAct c b k a a.chunk o x.2 :=
      execExchangeStep_act hready rfl rfl hnext hother hfound rfl hact
    refine ⟨?results, ?staged⟩
    case results => exact fun ds v hnone hplaces hlands => hstep.trans (commitAct_of_results hplaces hnone hlands)
    case staged =>
      intro ds v y slot st w hmsg hplaces hslot m hstage hlands
      exact hstep.trans (commitAct_of_staged hplaces hmsg hslot rfl hstage hlands)
  case absent =>
    intro hlost habsent i hi
    obtain ⟨f, hf⟩ := exec_message hi s
    exact hf.trans (onFabric_of_absent f hlost habsent)
  case unmatched =>
    exact ⟨execStartMsg_held hlost harrive hnone, execDataMsg_discarded hlost harrive hnone,
      fun x hended => execDataMsg_ended hlost harrive hnone hended, execAckMsg_kept hlost harrive hnone,
      execPausedMsg_held hlost harrive hnone⟩
  case running =>
    intro k hat v now hrun b
    refine ⟨execStartMsg_taken hlost harrive hat, execAckMsg_taken hlost harrive hat hrun, execPausedMsg_taken hlost harrive hat,
      fun hlive hreceives => ⟨?complete, ?duplicate, fun hopen hnew => ⟨?consumed, ?recorded⟩⟩⟩
    case complete => exact fun hdone => execDataMsg_taken hlost harrive hat (takeData_of_done hrun hlive hreceives hdone)
    case duplicate =>
      exact fun hopen hconsumed => execDataMsg_taken hlost harrive hat (takeData_of_consumed hrun hlive hreceives hopen hconsumed)
    case consumed =>
      exact fun hlog => execDataMsg_taken hlost harrive hat (takeData_of_unlogged hrun hlive hreceives hopen hnew hlog)
    case recorded =>
      exact fun w hlog hroom => execDataMsg_taken hlost harrive hat (takeData_of_logged hrun hlive hreceives hopen hnew hlog hroom)
  case lost =>
    intro hlost sent i hi
    obtain ⟨f, hf⟩ := exec_message hi s
    exact hf.trans (onFabric_of_lost f hlost)
  case late => exact fun peer hlate => execExchangeTimeout_of_late hlate

end Sys2Proof.Proofs

/-! PROOF. Transactions (12 R382 to R387). -/

namespace Sys2Proof.Proofs

open Sys2Proof.Machine Sys2Proof.Laws Sys2Proof.Safety

/-- A slot's reads neither open nor end a transaction. -/
theorem staleReads_tx (s : State) (i : Instr) : (staleReads s i).core.tx = s.core.tx := by
  obtain ⟨es, hreads⟩ := staleReads_eq s i
  rw [hreads]

/-- TXEND commits where nothing has made an abort due (12 R385). -/
theorem execTxend_of_sound {g : Fin 8} {s : State} {x : Tx} (hpass : slotPasses (.txend g) s = true)
    (htx : (staleReads s (.txend g)).core.tx = some x) (hconflict : x.conflict = false) (habort : x.abort = none) :
    execTxend g s = .next (txCommit x (staleReads s (.txend g))) := by
  simp only [execTxend, slotOp_passes hpass, htx, hconflict, habort, Option.isSome_none, Bool.or_self, Bool.false_eq_true, if_false]

/-- TX_ABORT performs the abort whose reason it names (12 R387). -/
theorem execTxAbort_of_due {k : Fin 8} {code cause : BitVec 8} {s : State} (hdue : s.txDueNow = some (k, code, cause)) :
    execTxAbort k s = .next (txAbortNow k code cause s) := by
  simp only [execTxAbort, hdue, if_true]

/-- Settles O16: TXBEGIN finds the transaction closed and TXABORT finds it open, each in the state after its reads, which keep it. That
TXBEGIN saves the boundary before its own bundle is log 23. -/
theorem transactions : Obligations.Transactions := by
  unfold Obligations.Transactions
  intro g k sc c s
  refine ⟨?opens, fun x => execTxend_of_sound, ?aborts, fun code cause => execTxAbort_of_due⟩
  case opens =>
    intro hpass hclosed
    have htx : ¬(staleReads s (.txbegin g k sc)).core.tx.isSome = true := by simp [staleReads_tx, hclosed]
    change execTxbegin g k sc s = _
    rw [execTxbegin, slotOp_passes hpass, if_neg htx]
  case aborts =>
    intro hpass hopen
    have htx : ¬(staleReads s (.txabort g c)).core.tx.isNone = true := by simp [← Option.not_isSome, hopen]
    change execTxabort g c s = _
    rw [execTxabort, slotOp_passes hpass, if_neg htx]

end Sys2Proof.Proofs

/-! PROOF. The operations of the debug queue (12 R368 to R376). -/

namespace Sys2Proof.Proofs

open Sys2Proof.Machine Sys2Proof.Laws Sys2Proof.Safety

/-! A packet at the head of the queue (12 R369). -/

section

variable {p : Fin 8} {op : Nat} {s u v : State} {b : List Byte} {e : DbgEnd} {f : List Byte → State → Option DbgEnd × State}
  (hhead : dbgHead p s = (some b, u)) (hgood : dbgBad b = false) (hop : field b 0 1 = op)
include hhead hgood hop

theorem dbgOp_answered (hact : f b u = (some e, v)) : dbgOp p op f s = .next (dbgAnswer p b e v) := by
  simp only [dbgOp, hhead, hgood, hop, hact, Bool.false_eq_true, ne_eq, not_true_eq_false, if_false]

theorem dbgOp_unanswered (hact : f b u = (none, v)) : dbgOp p op f s = .next v := by
  simp only [dbgOp, hhead, hgood, hop, hact, Bool.false_eq_true, ne_eq, not_true_eq_false, if_false]

end

/-! STOP (12 R370; log 95). -/

/-- A core with DEBUG_HALT pending, once. -/
def haltPending (c : Core) : Core :=
  if c.pend.any fun e => e.1 == Cause.debugHalt then c else { c with pend := c.pend ++ [(Cause.debugHalt, 0)] }

/-- The cores that run the strand which a debug packet names. -/
def runsDebugged (p : Fin 8) (b : List Byte) (s : State) : Nat → Bool := fun k =>
  let c := s.coreAt k
  c.holdsStrand && c.partOf == p && c.crec == fw b 8 && !c.record.isEmpty

section

variable {p : Fin 8} {s u : State} {b : List Byte} (hhead : dbgHead p s = (some b, u)) (hgood : dbgBad b = false)
include hhead hgood

theorem execDbgStop_held (hop : field b 0 1 = 1) (hheld : isHeld p b u = true) :
    execDbgStop p s = .next (dbgAnswer p b .ok u) :=
  dbgOp_answered hhead hgood hop (if_pos hheld)

theorem execDbgStop_running {k : Nat} (hop : field b 0 1 = 1) (hheld : isHeld p b u = false)
    (hcore : u.liveCores.find? (runsDebugged p b u) = some k) : execDbgStop p s = .next (u.modCoreAt k haltPending) := by
  unfold runsDebugged at hcore
  refine dbgOp_unanswered hhead hgood hop ?_
  simp only [hheld, hcore, Bool.false_eq_true, if_false]
  rfl

end

/-! A held strand (12 R370 R372). -/

section

variable {p : Fin 8} {u : State} {b : List Byte} {o : FrameData × List Byte × State} (hheld : isHeld p b u = true)
  (hopen : dbgOpen p b u = o)
include hheld hopen

theorem onHeld_held (f : FrameData → State → Option DbgEnd × State) :
    onHeld p b u f = f o.1 o.2.2 := by
  simp only [onHeld, hheld, hopen, Bool.not_true, Bool.false_eq_true, if_false]

theorem dbgMove_full (target : State → Option Nat) (hfull : bits o.2.2.core.log.mode 0 2 = 2) :
    let t := o.2.2
    let r := moveBack (target t) (field b 1 1 % 2 = 1) (t.core.log.head.toNat / 16 + 1) false t
    dbgMove p b target u = (some r.1, dbgClose p o.1 u false (if r.2.1 then dropCommands r.2.2 else r.2.2)) :=
  (onHeld_held hheld hopen _).trans (if_neg (not_not.mpr hfull))

theorem dbgMove_notFull (target : State → Option Nat) (hfull : bits o.2.2.core.log.mode 0 2 ≠ 2) :
    dbgMove p b target u = (some (.bad 0x81), dbgClose p o.1 u false o.2.2) :=
  (onHeld_held hheld hopen _).trans (if_pos hfull)

end

/-- RSTEP by a number of windows that its packet may name is a movement (12 R372). -/
theorem execDbgRstep_moved {p : Fin 8} {s u v : State} {b : List Byte} {e : DbgEnd} (hhead : dbgHead p s = (some b, u))
    (hgood : dbgBad b = false) (hop : field b 0 1 = 2) (hsome : field b 16 8 ≠ 0) (hmax : field b 16 8 ≤ 2 ^ 32)
    (hmove : dbgMove p b (fun t => (windowsBack (field b 16 8) t).bind fun w => quietTarget w t) u = (some e, v)) :
    execDbgRstep p s = .next (dbgAnswer p b e v) :=
  dbgOp_answered hhead hgood hop ((if_neg (not_or.mpr ⟨hsome, Nat.not_lt.mpr hmax⟩)).trans hmove)

/-- RUNBACK is a movement to a window's boundary. -/
theorem execDbgRunback_moved {p : Fin 8} {s u v : State} {b : List Byte} {e : DbgEnd} (hhead : dbgHead p s = (some b, u))
    (hgood : dbgBad b = false) (hop : field b 0 1 = 3) (hmove : dbgMove p b (quietTarget (field b 16 8)) u = (some e, v)) :
    execDbgRunback p s = .next (dbgAnswer p b e v) :=
  dbgOp_answered hhead hgood hop hmove

/-! REPLAY (12 R374; log 95). -/

/-- A core runs the strand that a debug packet names, in replay. -/
def replaysDebugged (p : Fin 8) (b : List Byte) (s : State) : Bool :=
  s.liveCores.any fun k => let c := s.coreAt k; c.crec == fw b 8 && c.partOf == p && c.replay.isSome

/-- The strand that a debug packet names is to replay from its next pickup. -/
def replayWaits (p : Fin 8) (b : List Byte) (s : State) : Bool := (s.part p.val).replays.any fun e => e.1 == fw b 8

section

variable {p : Fin 8} {s u : State} {b : List Byte} {o : FrameData × List Byte × State} (hhead : dbgHead p s = (some b, u))
  (hgood : dbgBad b = false) (hop : field b 0 1 = 4) (hidle : replaysDebugged p b u = false)
include hhead hgood hop hidle

/-- A strand that was to replay and has ended otherwise answers with what ended it. -/
theorem execDbgReplay_lost {c : BitVec 8} (hwaits : replayWaits p b u = true) (hlost : replayLost p b u = some c) :
    execDbgReplay p s = .next (dbgAnswer p b (.cause c none 0)
      (u.modPart p.val fun v => { v with replays := v.replays.filter fun e => e.1 != fw b 8 })) := by
  refine dbgOp_answered hhead hgood hop ((if_neg (Bool.eq_false_iff.mp hidle)).trans ((if_pos hwaits).trans ?_))
  simp only [hlost]

variable (hwaits : replayWaits p b u = false) (hheld : isHeld p b u = true) (hopen : dbgOpen p b u = o)
include hwaits hheld hopen

theorem execDbgReplay_notFull (hfull : bits o.2.2.core.log.mode 0 2 ≠ 2) : execDbgReplay p s =
    .next (dbgAnswer p b (.bad 0x81) (dbgClose p o.1 u false o.2.2)) :=
  dbgOp_answered hhead hgood hop ((if_neg (Bool.eq_false_iff.mp hidle)).trans ((if_neg (Bool.eq_false_iff.mp hwaits)).trans
    ((onHeld_held hheld hopen _).trans (if_pos hfull))))

variable (hfull : bits o.2.2.core.log.mode 0 2 = 2)
include hfull

theorem execDbgReplay_beyondHorizon (hcut : o.2.2.core.log.cur < o.2.2.core.log.tail) :
    execDbgReplay p s = .next (dbgAnswer p b (.cause Cause.horizonReached none 0)
      (dbgClose p o.1 u false o.2.2)) :=
  dbgOp_answered hhead hgood hop ((if_neg (Bool.eq_false_iff.mp hidle)).trans ((if_neg (Bool.eq_false_iff.mp hwaits)).trans
    ((onHeld_held hheld hopen _).trans ((if_neg (not_not.mpr hfull)).trans (if_pos hcut)))))

variable (hkept : o.2.2.core.log.tail ≤ o.2.2.core.log.cur)
include hkept

theorem execDbgReplay_nothing (hdone : o.2.2.core.log.head ≤ o.2.2.core.log.cur ∨
      (fw b 16 ≠ 0 ∧ fw b 16 ≤ o.2.2.core.r.sr.win)) :
    execDbgReplay p s = .next (dbgAnswer p b .ok (dbgClose p o.1 u false o.2.2)) :=
  dbgOp_answered hhead hgood hop ((if_neg (Bool.eq_false_iff.mp hidle)).trans ((if_neg (Bool.eq_false_iff.mp hwaits)).trans
    ((onHeld_held hheld hopen _).trans ((if_neg (not_not.mpr hfull)).trans ((if_neg (BitVec.not_lt.mpr hkept)).trans (if_pos hdone))))))

/-- A replay with entries ahead makes its strand ready and answers later. -/
theorem execDbgReplay_ready (hahead : o.2.2.core.log.cur < o.2.2.core.log.head)
    (huntil : fw b 16 = 0 ∨ o.2.2.core.r.sr.win < fw b 16) :
    let t := o.2.2
    execDbgReplay p s = .next ((dbgClose p o.1 u true t).modPart p.val fun v =>
      { v with replays := (fw b 8, ⟨t.core.log.cur.toNat, fw b 16, field b 4 4, fw b 32, none, []⟩) :: v.replays }) := by
  have hmore : ¬(o.2.2.core.log.head ≤ o.2.2.core.log.cur ∨
      (fw b 16 ≠ 0 ∧ fw b 16 ≤ o.2.2.core.r.sr.win)) := by
    rintro (hle | ⟨hne, hle⟩)
    · exact BitVec.not_lt.mpr hle hahead
    · exact huntil.elim hne (BitVec.not_lt.mpr hle)
  exact dbgOp_unanswered hhead hgood hop ((if_neg (Bool.eq_false_iff.mp hidle)).trans ((if_neg (Bool.eq_false_iff.mp hwaits)).trans
    ((onHeld_held hheld hopen _).trans ((if_neg (not_not.mpr hfull)).trans ((if_neg (BitVec.not_lt.mpr hkept)).trans (if_neg hmore))))))

end

/-! READ and WRITE (12 R375 R376). -/

section

variable {p : Fin 8} {s u : State} {b : List Byte} {o : FrameData × List Byte × State} {x : Selector}
  (hhead : dbgHead p s = (some b, u)) (hgood : dbgBad b = false)
  (hheld : isHeld p b u = true) (hopen : dbgOpen p b u = o) (hselector : selectorOf o.2.2 (fw b 16) = some x)
  (hsome : field b 24 8 ≠ 0)
include hhead hgood hheld hopen hselector hsome

theorem execDbgRead_held (hop : field b 0 1 = 5) (hmax : field b 24 8 ≤ 32) :
    let r := dbgRead o.1 x (field b 24 8) o.2.2
    execDbgRead p s = .next (dbgAnswer p b r.1 (dbgClose p o.1 u false r.2)) := by
  refine dbgOp_answered hhead hgood hop ((onHeld_held hheld hopen _).trans ?_)
  simp only [hselector, hsome, Nat.not_lt.mpr hmax, or_self, if_false]

theorem execDbgWrite_held (hop : field b 0 1 = 6) (hmax : field b 24 8 ≤ 24) :
    let r := dbgWrite x (slice b 40 (field b 24 8)) o.2.2
    execDbgWrite p s =
      .next (dbgAnswer p b r.1 (dbgClose p o.1 u false (if r.1.status = 0 then cutLog r.2 else r.2))) := by
  refine dbgOp_answered hhead hgood hop ((onHeld_held hheld hopen _).trans ?_)
  simp only [hselector, hsome, Nat.not_lt.mpr hmax, or_self, if_false]

end

/-! The end of a replay that has diverged (12 R374). -/

theorem issueCore_replayOver {s : State} (hrun : s.core.run = .strand) (hheld : heldUp s = false) (hfault : s.core.fault = none)
    (hover : replayOver s = true) : issueCore s = .next (stopReplay s) := by
  simp only [issueCore, hrun, hheld, hfault, hover, ne_eq, not_true_eq_false, Option.isSome_none, Bool.false_eq_true, if_true, if_false]

/-- The open window of a diverged replay is rolled back, LOGCUR stays, and REPLAY is answered with the place of the difference. -/
theorem stopReplay_diverged {s : State} {rp : Replay} (hreplay : s.core.replay = some rp) (hdiverged : rp.diverged.isSome = true)
    (htx : s.core.openTx = none) (hstopped : enginesAtStop (rollback s) = true) :
    let v := rollback s
    let u : State := { v with core := { v.core with replay := none } }
    stopReplay s = replayAnswer u.core.partOf rp u.core.r.sr.win u.core.r.pc
      (leaveCore Status.suspended 0 none false true u.core.r.pc none false u) := by
  have hsettled : replaySettled s rp = true := by simp only [replaySettled, hdiverged, Bool.true_or]
  have hsome : rp.diverged.isNone = false := by rw [← Option.not_isSome, hdiverged]; rfl
  simp only [stopReplay, hreplay, hsettled, hsome, hdiverged, htx, hstopped, Bool.false_and, Bool.not_true, Bool.false_eq_true,
    if_true, if_false]
  split <;> rfl

/-- Settles O43: the packet at the head acts in its own operation, and on a held strand each operation is the branch that LOGMODE, the log
and its arguments select. That a REPLAY goes on at a later pickup and when STOP is answered are log 95, the copy that the debugger works on
is log 39. -/
theorem debugEvents : Obligations.DebugEvents := by
  unfold Obligations.DebugEvents
  refine ⟨?packets, ?diverged⟩
  case packets =>
    intro p s u b hhead hgood
    generalize hopen : dbgOpen p b u = o
    intro op f t full moves n answers waits idle
    refine ⟨fun hop hidle hwaits c => execDbgReplay_lost hhead hgood hop hidle hwaits, execDbgStop_held hhead hgood,
      fun hop hheld k => execDbgStop_running hhead hgood hop hheld,
      fun hheld => ⟨?rstep, ?runback, ?notFull, ?horizon, ?nothing, ?ready, ?read, ?write, ?resume⟩⟩
    case rstep =>
      exact fun hop hsome hmax hfull => execDbgRstep_moved hhead hgood hop hsome hmax (dbgMove_full hheld hopen _ hfull)
    case runback => exact fun hop hfull => execDbgRunback_moved hhead hgood hop (dbgMove_full hheld hopen _ hfull)
    case notFull =>
      exact fun hfull => ⟨
        fun hop hsome hmax => execDbgRstep_moved hhead hgood hop hsome hmax (dbgMove_notFull hheld hopen _ hfull),
        fun hop => execDbgRunback_moved hhead hgood hop (dbgMove_notFull hheld hopen _ hfull),
        fun hop hidle hwaits => execDbgReplay_notFull hhead hgood hop hidle hwaits hheld hopen hfull⟩
    case horizon => exact fun hop hidle hwaits hfull => execDbgReplay_beyondHorizon hhead hgood hop hidle hwaits hheld hopen hfull
    case nothing => exact fun hop hidle hwaits hfull => execDbgReplay_nothing hhead hgood hop hidle hwaits hheld hopen hfull
    case ready => exact fun hop hidle hwaits hfull => execDbgReplay_ready hhead hgood hop hidle hwaits hheld hopen hfull
    case read => exact fun x hop hselector hsome => execDbgRead_held hhead hgood hheld hopen hselector hsome hop
    case write => exact fun x hop hselector hsome => execDbgWrite_held hhead hgood hheld hopen hselector hsome hop
    case resume => exact fun hop => dbgOp_answered hhead hgood hop (onHeld_held hheld hopen _)
  case diverged =>
    intro s rp v u hrun hheld hfault hreplay hdiverged htx hstopped hover
    rw [issueCore_replayOver hrun hheld hfault hover, stopReplay_diverged hreplay hdiverged htx hstopped]

end Sys2Proof.Proofs

/-! PROOF. The packets of a launch unit (13 R390 to R401). -/

namespace Sys2Proof.Proofs

open Sys2Proof.Machine Sys2Proof.Laws Sys2Proof.Safety

/-! A packet that may start (13 R390 R396 R397). -/

/-- A packet of a type that may start at a queue's head has its effect, after the ranges that found room have entered. -/
theorem startOf_canStart {p : Fin 8} {k ty : Nat} {s u : State} {q : CmdQueue} {x : Packet} (hu : enterHead p k s = u)
    (hstart : canStart u p k ty = some (q, x)) (f : CmdQueue → Packet → State → State) :
    startOf p k ty s f = .next (f q x u) := by
  simp only [startOf, hu, hstart]

/-- An access of a launch unit that succeeds goes on with its value. -/
theorem queue_ok {α : Type} {a : Act α} {v : α} {t : State} (ha : a = .ok v t) (p : Fin 8) (k : Nat) (kind : AKind)
    (fault : BitVec 8 → State → State) (f : α → State → State) (who : Fin 8) : a.queue p k kind fault f who = f v t := by
  rw [ha, Act.queue]

/-! The fetch of line 0 (13 R390 R393). -/

/-- A queue with lines left, which waits for nothing, reads line 0 of its next packet. -/
theorem execPacketLine0Poll_reads {p : Fin 8} {k : Fin 64} {s : State} {q : CmdQueue} {bs : List Byte} {v : State} :
    let w := flush p k (s.modCq p k CmdQueue.popped)
    w.cq p k = some q → q.enable = true → q.out = [] → q.fault = none → q.head = none → q.spins < 2 ^ 20 → w.serves p = true →
    (q.ibs ≠ [] ∨ (q.avail ≠ 0 ∧ q.avail ≤ 2 ^ (q.log2 - 6))) → fetchRead (fetchAgent w p q) q.next.1 64 w = .ok bs v →
    execPacketLine0Poll p k s = .next (takeLine0 p k q bs v) := by
  intro w hq henable hout hfault hhead hspins hserves hlines hread
  have hready : (!q.enable || !q.out.isEmpty || q.fault.isSome || q.head.isSome || decide (2 ^ 20 ≤ q.spins) || !w.serves p) = false := by
    simp only [henable, hout, hfault, hhead, hserves, decide_eq_false (Nat.not_le.mpr hspins), List.isEmpty_nil, Option.isSome_none,
      Bool.not_true, Bool.or_self]
  have hholds : (q.ibs.isEmpty && q.overshoot) = false := by
    rcases hlines with hibs | ⟨-, hle⟩
    · simp [hibs]
    · simp [CmdQueue.overshoot, Nat.not_lt.mpr hle]
  have hany : (q.ibs.isEmpty && q.avail == 0) = false := by
    rcases hlines with hibs | ⟨hne, -⟩
    · simp [hibs]
    · simp [hne]
  have hcq : (flush p k (s.modCq p k CmdQueue.popped)).cq p k = some q := hq
  simp only [execPacketLine0Poll, hcq]
  rw [if_neg (Bool.eq_false_iff.mp hready), if_neg (Bool.eq_false_iff.mp hholds), if_neg (Bool.eq_false_iff.mp hany), queue_ok hread]

/-! WAITV (13 R396; log 80). -/

theorem execWaitvSatisfied_met {p : Fin 8} {k : Fin 64} {s v : State} {q : CmdQueue} {x : Packet} {bs : List Byte}
    (hq : s.cq p k = some q) (hstarted : startedOf q 2 = some x) (hfault : q.fault = none)
    (hread : fetchRead (fetchAgent s p q) (fw x.bytes 32) 8 s = .ok bs v) (hmet : waitvMet x.bytes (fw bs 0) = true) :
    execWaitvSatisfied p k s = .next (completePacket p k x.order v) := by
  simp only [execWaitvSatisfied, hq, hstarted, hfault, queue_ok hread, hmet, Option.isSome_none, Bool.false_eq_true, if_false, if_true]

theorem execIbSpinWatchdog_due {p : Fin 8} {k : Fin 64} {s : State} {q : CmdQueue} (hq : s.cq p k = some q) (hspins : 2 ^ 20 ≤ q.spins) :
    execIbSpinWatchdog p k s = .next (queueFault p k Cause.watchdog s) := by
  simp only [execIbSpinWatchdog, hq, Nat.not_lt.mpr hspins, if_false]

/-! What each type does at its start (13 R396 R400 R401). -/

section

variable {p : Fin 8} {k : Fin 64} {s u v : State} {q : CmdQueue} {x : Packet} (hu : enterHead p k s = u)
include hu

theorem execPacketNop_starts (hstart : canStart u p k 0 = some (q, x)) : execPacketNop p k s = .next (startAndEnd p k x u) :=
  startOf_canStart hu hstart _

/-- WAITV reads once at its start, and completes there if its condition holds. -/
theorem execWaitv_reads {bs : List Byte} (hstart : canStart u p k 2 = some (q, x))
    (hread : fetchRead (fetchAgent u p q) (fw x.bytes 32) 8 u = .ok bs v) :
    execWaitv p k s = .next
      (if waitvMet x.bytes (fw bs 0) then completePacket p k x.order (startHead p k v) else startHead p k v) := by
  simp only [execWaitv, startOf_canStart hu hstart, queue_ok hread]

theorem execSignalPacket_adds (hstart : canStart u p k 3 = some (q, x)) (hop : field x.bytes 48 1 = 1)
    (hadd : fetchAdd (fetchAgent u p q) (fw x.bytes 32) (fw x.bytes 40) u = .ok () v) :
    execSignalPacket p k s = .next (startAndEnd p k x v) := by
  simp only [execSignalPacket, startOf_canStart hu hstart, hop, if_true, queue_ok hadd]

theorem execSignalPacket_stores (hstart : canStart u p k 3 = some (q, x)) (hop : field x.bytes 48 1 ≠ 1)
    (hwrite : fetchWrite (fetchAgent u p q) (fw x.bytes 32) (b8 (fw x.bytes 40)) u = .ok () v) :
    execSignalPacket p k s = .next (startAndEnd p k x v) := by
  simp only [execSignalPacket, startOf_canStart hu hstart, hop, if_false, queue_ok hwrite]

theorem execIbcall_enters (hstart : canStart u p k 4 = some (q, x)) (hdepth : q.ibs.length < 4) :
    execIbcall p k s = .next ((startAndEnd p k x u).modCq p k fun q =>
      { q with ibs := (fw x.bytes 32, field x.bytes 40 4, 0) :: q.ibs }) := by
  simp only [execIbcall, startOf_canStart hu hstart, Nat.not_le.mpr hdepth, if_false]

theorem execIbcall_tooDeep (hstart : canStart u p k 4 = some (q, x)) (hdepth : 4 ≤ q.ibs.length) :
    execIbcall p k s = .next (queueFault p k Cause.ibDepth u) := by
  simp only [execIbcall, startOf_canStart hu hstart, hdepth, if_true]

theorem execIbjump_inBuffer (hstart : canStart u p k 5 = some (q, x)) (hibs : q.ibs ≠ []) :
    execIbjump p k s = .next ((startAndEnd p k x u).modCq p k fun q =>
      { q with ibs := (fw x.bytes 32, field x.bytes 40 4, 0) :: q.ibs.drop 1 }) := by
  simp only [execIbjump, startOf_canStart hu hstart, List.isEmpty_iff, hibs, if_false]

theorem execPacketFence_starts (hstart : canStart u p k 6 = some (q, x)) :
    execPacketFence p k s = .next (endFence p k (startHead p k u)) := by
  simp only [execPacketFence, startOf_canStart hu hstart]

theorem execCapstart_closed (hstart : canStart u p k 7 = some (q, x)) (hcapture : q.capture = none) :
    execCapstart p k s = .next ((startAndEnd p k x u).modCq p k fun q =>
      { q with capture := some ⟨0, List.replicate 5 0, 0, u.clock, !(u.part p).resident⟩ }) := by
  simp only [execCapstart, startOf_canStart hu hstart, hcapture, Option.isSome_none, Bool.false_eq_true, if_false]

theorem execCapstop_open {c : Capture} (hstart : canStart u p k 8 = some (q, x)) (hcapture : q.capture = some c)
    (hwrite : fetchWrite (fetchAgent u p q) (fw x.bytes 32) (c.bytes (u.part p).resident u.clock) u = .ok () v) :
    execCapstop p k s = .next ((startAndEnd p k x v).modCq p k fun q => { q with capture := none }) := by
  simp only [execCapstop, startOf_canStart hu hstart, hcapture, queue_ok hwrite]

/-- ZERO writes where every page it covers is found and marked. -/
theorem execZeroPacket_marked {ls : List (Word × Nat × Loc)} {w : State} (hstart : canStart u p k 9 = some (q, x))
    (hpages : ((globalRange (fw x.bytes 32) (field x.bytes 40 8) u).bind fun _ s => Act.mapM (fun (y : Word × Nat) s =>
      (locate (fetchAgent u p q) .write false y.1 s).map fun l => (y.1, y.2, l)) (pagesOf (fw x.bytes 32) (field x.bytes 40 8)) s) =
      .ok ls v)
    (hmark : markDirty v p (ls.map fun y => y.2.2.key) = (true, w)) :
    execZeroPacket p k s = .next (startAndEnd p k x (zeroPages (fetchAgent u p q) ls w)) := by
  simp only [execZeroPacket, startOf_canStart hu hstart, queue_ok hpages, hmark]

end

/-- Settles O37: each packet that may start is the branch of its type that its fields, its queue and its accesses select. What WAITV does
after a fault is log 80. -/
theorem packetEvents : Obligations.PacketEvents := by
  unfold Obligations.PacketEvents
  intro p k s q x bs v u ag starts
  exact ⟨execPacketLine0Poll_reads, execPacketNop_starts rfl, execWaitv_reads rfl, execWaitvSatisfied_met,
    fun hstart => ⟨execSignalPacket_adds rfl hstart, execSignalPacket_stores rfl hstart⟩, execIbcall_enters rfl, execIbcall_tooDeep rfl,
    execIbjump_inBuffer rfl, execIbSpinWatchdog_due, execPacketFence_starts rfl, execCapstart_closed rfl, fun c => execCapstop_open rfl,
    fun ls w => execZeroPacket_marked rfl⟩

end Sys2Proof.Proofs

/-! PROOF. Pipelines, their switch, and CKPT (13 R402 to R410 R417 to R419, 14 R442 R443, 12 R367). -/

namespace Sys2Proof.Proofs

open Sys2Proof.Machine Sys2Proof.Laws Sys2Proof.Safety

/-! LAUNCH and its end (13 R405 R406; logs 45, 81). -/

section

variable {p : Fin 8} {k : Fin 64} {s u v : State} {q : CmdQueue} {x : Packet}

/-- A LAUNCH whose image and records are in order activates its pipeline, each of its records in the age order. -/
theorem execLaunch_ofImage {c : PartCfg} {im : Image} {rs : List (List Byte)} (hu : enterHead p k s = u)
    (hstart : canStart u p k 1 = some (q, x)) (hcfg : u.cfg p = some c) (hroom : (u.part p).pipes.length < 8)
    (hread : ((readImage (fetchAgent u p q) c (fw x.bytes 32) ((u.part p).pipes.map Prod.fst) u).bind fun im s =>
      (readTable (fetchAgent u p q) im.rectab im.nrec 64 s).map fun rs => (im, rs)) = .ok (im, rs) v)
    (hsound : recordsCause rs p im.pipe = none) :
    let gid := (rs.map fun b => field b 20 4).foldl max 0 + 1
    let w := startHead p k (activate p im (newPipeline im k x.order (field x.bytes 40 4) (pipeSlot (u.part p).pipes) gid) v)
    execLaunch p k s = .next (updateClosed (w.modPipe p im.pipe.pipe fun z =>
      { z with recs := (rectabOf im).map fun a => (a, some w.clock) }) p im.pipe.pipe) := by
  simp only [execLaunch, startOf_canStart hu hstart, hcfg, Nat.not_le.mpr hroom, if_false, queue_ok hread, hsound]

theorem execLaunchComplete_ended {pipe : Nat} {z : Pipeline} (hz : s.pipeline p pipe = some z)
    (hstopped : (s.strandsOf p pipe).isEmpty = true)
    (hend : z.cause.isSome = true ∨ (z.switch = none ∧ pipelineEnded s p z = true)) :
    let cause := z.cause.or (if z.poison then some Cause.poisonAtEnd else none)
    let w := endPacket p z.queueK z.packet cause z.unit z.causePc (logCompletion p z cause s)
    let w := match z.switch with
      | some y => endPacket p y.queueK y.packet cause none 0 w
      | none => w
    execLaunchComplete p pipe s = .next (w.modPart p fun y => { y with pipes := sdel y.pipes pipe }) := by
  have hdone : (z.cause.isSome || (z.switch.isNone && pipelineEnded s p z)) = true := by
    rcases hend with hcause | ⟨hswitch, hended⟩
    · simp [hcause]
    · simp [hswitch, hended]
  simp only [execLaunchComplete, hz, hstopped, hdone, Bool.not_true, Bool.or_self, Bool.false_eq_true, if_false]
    <;> rfl

/-! The switch of a pipeline's image (13 R419; log 82). -/

theorem execPswitch_pending {z : Pipeline} {im : PipeImage} (hu : enterHead p k s = u)
    (hstart : canStart u p k 10 = some (q, x)) (hz : u.pipeline p (field x.bytes 40 2) = some z) (hswitch : z.switch = none)
    (hread : readPipe (fetchAgent u p q) (fw x.bytes 32) (spadOf z.l1n) u = .ok im v)
    (hpipe : im.pipe = field x.bytes 40 2)
    (hkeep : switchOk (decide (field x.bytes 42 1 % 2 = 1)) z.queues im.queues = true) :
    execPswitch p k s = .next ((startHead p k v).modPipe p (field x.bytes 40 2) fun y =>
      { y with switch := some ⟨k, x.order, decide (field x.bytes 42 1 % 2 = 1), im⟩ }) := by
  simp only [execPswitch, startOf_canStart hu hstart, hz, Option.bind_some, hswitch, Option.isSome_none, queue_ok hread, hpipe, hkeep,
    ne_eq, not_true_eq_false, Bool.not_true, Bool.false_eq_true, or_self, if_false]

variable {pipe : Nat} {z : Pipeline} {w : Switch} (hz : s.pipeline p pipe = some z) (hswitch : z.switch = some w)
  (hstopped : (s.strandsOf p pipe).isEmpty = true) (hcause : z.cause = none)
include hz hswitch hstopped hcause

/-- Without KEEPQ the new image simply stands in for the old one. -/
theorem execPswitchActivate_empty (hkeep : w.keep = false) :
    execPswitchActivate p pipe s = .next (completePacket p w.queueK w.packet
      (updateClosed (s.modPipe p pipe fun y => { y with toPipeImage := w.image, switch := none }) p pipe)) := by
  simp only [execPswitchActivate, hz, hswitch, hstopped, hcause, hkeep, Option.isSome_none, Bool.not_true, Bool.or_self,
    Bool.false_eq_true, if_false, List.foldl_nil]

/-- The entries of a pipeline's queues, each with its queue's number, as a switch with KEEPQ takes them. -/
def keptQueues (p : Fin 8) (pipe : Nat) (z : Pipeline) (s : State) : List (Nat × QEntry) × State :=
  z.queues.zipIdx.foldl (fun (a : List (Nat × QEntry) × State) q =>
    let e := allEntries a.2 p pipe q.1
    (a.1 ++ e.1.map fun e => (q.2, e), e.2)) ([], s)

/-- With KEEPQ the entries of the old queues enter those of the new image. -/
theorem execPswitchActivate_kept (hkeep : w.keep = true) :
    execPswitchActivate p pipe s = .next (completePacket p w.queueK w.packet (updateClosed
      ((keptQueues p pipe z s).1.foldl (fun s e => enterQueue s p pipe e.1 e.2.bytes e.2.mdata true)
        ((keptQueues p pipe z s).2.modPipe p pipe fun y => { y with toPipeImage := w.image, switch := none })) p pipe)) := by
  simp only [execPswitchActivate, hz, hswitch, hstopped, hcause, hkeep, Option.isSome_none, Bool.not_true, Bool.or_self,
    Bool.false_eq_true, if_false, if_true, keptQueues]

end

/-! CKPT (14 R442; log 87). -/

/-- CKPT stops strands only where its MODE has STATE, and ends as soon as none that it stopped is left. -/
theorem execCkpt_starts {p : Fin 8} {k : Fin 64} {s u : State} {q : CmdQueue} {x : Packet} (hu : enterHead p k s = u)
    (hstart : canStart u p k 11 = some (q, x)) :
    let v := startHead p k u
    execCkpt p k s = .next (ckptEnd p k (if field x.bytes 40 1 = 0 then v else ckptStop p (v.modCq p k fun q =>
      { q with packets := q.packets.map fun y => if y.order = x.order then { y with acted := true } else y }))) := by
  simp only [execCkpt, startOf_canStart hu hstart]

/-- Settles O38: LAUNCH and PSWITCH of what their checks accept, the ends that their conditions select, and CKPT by its MODE. Readings: what
the checks of an image leave open (log 81), a second PSWITCH and a failing pipeline's (log 82), the details of CKPT (log 87). -/
theorem launchEvents : Obligations.LaunchEvents := by
  unfold Obligations.LaunchEvents
  intro p k s q x v u starts
  refine ⟨fun c im rs => execLaunch_ofImage rfl, fun pipe z => execLaunchComplete_ended, fun z im => execPswitch_pending rfl, ?activate,
    ?memory, ?state⟩
  case activate =>
    exact fun pipe z w hz hswitch hstopped hcause =>
      ⟨execPswitchActivate_empty hz hswitch hstopped hcause, execPswitchActivate_kept hz hswitch hstopped hcause⟩
  case memory => exact fun hstart hmode => (execCkpt_starts rfl hstart).trans (by rw [if_pos hmode])
  case state => exact fun hstart hmode => (execCkpt_starts rfl hstart).trans (by rw [if_neg hmode])

end Sys2Proof.Proofs

/-! PROOF. The Regulator's events (13 R411 to R416, 05 R187, 06 R216). -/

namespace Sys2Proof.Proofs

open Sys2Proof.Machine Sys2Proof.Laws Sys2Proof.Safety

theorem execBlockedReevaluation_running {p : Fin 8} {pipe : Nat} {s : State} {z : Pipeline} (hz : s.pipeline p pipe = some z) :
    execBlockedReevaluation p pipe s = .next ((readRecs s p z).foldl (fun s r =>
      if field r.2.2 24 1 == Status.blocked && field r.2.2 18 1 / 4 % 2 == 0 && blockedMet s p z r.2.2 then
        makeReady p pipe r.1 r.2.2 s else s) s) := by
  simp only [execBlockedReevaluation, hz]

theorem execSuspendedPoll_running {p : Fin 8} {pipe : Nat} {s : State} {z : Pipeline} (hz : s.pipeline p pipe = some z) :
    execSuspendedPoll p pipe s = .next ((readRecs s p z).foldl (fun s r =>
      if r.2.1.isNone && field r.2.2 24 1 == Status.ready && field r.2.2 18 1 / 4 % 2 == 0 &&
          field r.2.2 60 4 == crc32c (r.2.2.take 60) then
        s.readyTime p.val pipe r.1 (some s.clock) else s) s) := by
  simp only [execSuspendedPoll, hz]

/-- Settles O39: a decision and a refill are the operations `decideFirst` and `refill`; the records of a running pipeline are gone through in
order. The orders of partitions and cores, and the details of gangs and starts, are logs 5, 50, 83 and 84. -/
theorem regulatorEvents : Obligations.RegulatorEvents := by
  unfold Obligations.RegulatorEvents
  intro p pipe n s z
  exact ⟨rfl, fun hz => ⟨execBlockedReevaluation_running hz, execSuspendedPoll_running hz⟩, rfl⟩

end Sys2Proof.Proofs

/-! PROOF. Accesses and requests of the host (13 R390, 14 R433, 15 R444 to R446 R451 R453, 04 R129 R146). -/

namespace Sys2Proof.Proofs

open Sys2Proof.Machine Sys2Proof.Laws Sys2Proof.Safety

/-! Doorbells and requests (13 R390, 15 R446; logs 88, 90). -/

/-- A partition after a change of it. -/
theorem part_modPart (s : State) (p : Fin 8) (f : Partition → Partition) : (s.modPart p f).part p = f (s.part p) := by
  simp [State.part, State.modPart]

section

variable {p : Fin 8} {v : Word} {s : State} (hvalid : s.blockValid p = true)
include hvalid

/-- The state after a doorbell's value has been stored. -/
def doorbell (p : Fin 8) (k : Fin 64) (v : Word) (s : State) : State :=
  (s.modPart p fun q => { q with dbs := sset q.dbs 0 k (BitVec.ofNat 64 (bits v 0 32)) }).modCq p k fun q =>
    { q with widx := BitVec.ofNat 32 v.toNat }

/-- A doorbell that claims more lines than its ring holds stops its queue. -/
theorem execDb_overshoots {k : Fin 64} {q : CmdQueue} (hq : (doorbell p k v s).cq p k = some q) (henable : q.enable = true)
    (hmore : 2 ^ (q.log2 - 6) < (q.widx - q.ridx).toNat) :
    execDb p k v s = .next (stopQueue p k Cause.packetMalformed 0 (doorbell p k v s)) := by
  have hover : q.overshoot = true := decide_eq_true hmore
  rw [doorbell] at hq
  simp only [execDb, hvalid, hq, henable, hover, Bool.not_true, Bool.and_self, Bool.false_eq_true, if_false, if_true, queueFaultOf,
    doorbell]

theorem execDb_stored {k : Fin 64}
    (hholds : ∀ q, (doorbell p k v s).cq p k = some q → q.enable = true → (q.widx - q.ridx).toNat ≤ 2 ^ (q.log2 - 6)) :
    execDb p k v s = .next (doorbell p k v s) := by
  cases hq : (doorbell p k v s).cq p k with
  | none =>
    rw [doorbell] at hq
    simp only [execDb, hvalid, hq, Bool.not_true, Bool.false_eq_true, if_false, doorbell]
  | some q =>
    have hsound : (q.enable && q.overshoot) = false := by
      cases henable : q.enable with
      | false => rfl
      | true => exact decide_eq_false (Nat.not_lt.mpr (hholds q hq henable))
    rw [doorbell] at hq
    simp only [execDb, hvalid, hq, hsound, Bool.not_true, Bool.false_eq_true, if_false, doorbell]

/-- The debug doorbell is stored and the firmware told; no area is walked again that is not down. -/
theorem execDbgdb_areaUp (hup : s.cfg p = none ∨ (s.part p).areaDown.getLsbD 5 = false) :
    execDbgdb p v s = .next ((s.modPart p fun q => { q with dbgW := BitVec.ofNat 64 (bits v 0 32) }).fwEvent 0 0) := by
  have hcfg : (s.modPart p fun q => { q with dbgW := BitVec.ofNat 64 (bits v 0 32) }).cfg p = s.cfg p := by
    rw [State.cfg, part_modPart]; rfl
  simp only [execDbgdb, hvalid, hcfg, part_modPart, Bool.not_true, Bool.false_eq_true, if_false]
  rcases hup with hnone | hup
  · rw [hnone]
  · simp only [hup, Bool.false_eq_true, if_false]
    split <;> rfl

section

variable {n : Nat} {c : PartCfg} (hcfg : s.cfg p = some c) (hcluster : n / 9 < c.clusters.length)
  (hwork : isFirmware (coreNumber (c.clusters.getD (n / 9) 0) (n % 9)) = false)
  (hspare : isSpare (coreNumber (c.clusters.getD (n / 9) 0) (n % 9)) = false)
include hcfg hcluster hwork hspare

/-- The state after the value of HREQ n has been stored. -/
def hreqStored (p : Fin 8) (n : Nat) (v : Word) (s : State) : State :=
  s.modPart p fun q => { q with hreq := sset q.hreq 0 n (v ||| (sget q.hreq 0 n &&& 1)) }

theorem execHreq_unasked (hbit : bitAt v 0 = false) : execHreq p n v s = .next (hreqStored p n v s) := by
  simp only [execHreq, hvalid, hcfg, Nat.not_le.mpr hcluster, hwork, hspare, hbit, Bool.not_true, Bool.not_false, Bool.false_eq_true,
    or_self, if_false, if_true, hreqStored]

theorem execHreq_resident (hbit : bitAt v 0 = true) (hresident : ((hreqStored p n v s).part p).resident = true) :
    execHreq p n v s =
      .next ((hreqStored p n v s).modCoreAt (coreNumber (c.clusters.getD (n / 9) 0) (n % 9)) Core.hostRequest) := by
  rw [hreqStored] at hresident
  simp only [execHreq, hvalid, hcfg, Nat.not_le.mpr hcluster, hwork, hspare, hbit, hresident, Bool.not_true, Bool.false_eq_true,
    or_self, if_false, if_true, hreqStored]

end

end

/-- CFGREQ reads back the address and its pending bit (15 R446). -/
theorem readDevice_cfgreq (s : State) : s.readDevice 0x10 8 = some s.dev.cfgreq := rfl

/-- Only aligned reads of 8 bytes are answered. -/
theorem readDevice_refused {off n : Nat} (s : State) (hform : n ≠ 8 ∨ off % 8 ≠ 0) : s.readDevice off n = none := if_pos hform

/-! Requests that the firmware of die 0 carries out (14 R433, 15 R453; logs 13, 88, 89). -/

theorem execPartitionConfiguration_unready {s : State} (hready : s.dev.ready = false) : execPartitionConfiguration s = .next s := by
  simp only [execPartitionConfiguration, hready, Bool.not_false, Bool.or_true, if_true]

section

variable {s : State} {req : List Byte} (hpending : bitAt s.dev.cfgreq 0 = true) (hready : s.dev.ready = true)
  (hreq : s.peek (hostKey (bits s.dev.cfgreq 6 50 * 64)) 64 = req)
include hpending hready hreq

theorem execPartitionConfiguration_report {r : Nat × List Byte} (hreport : Config.requestReport req = some r) :
    execPartitionConfiguration s = .next (answer none (s.poke (hostKey r.1) (s.attestation r.2))) := by
  simp only [execPartitionConfiguration, hpending, hready, hreq, hreport, Bool.not_true, Bool.or_self, Bool.false_eq_true, if_false]

variable {i : Fin 8} {u : State} {w : Word} (hnone : Config.requestReport req = none) (hi : Config.requestPart req = i)
  (hfree : (s.dev.newCfg.get i).isSome = false) (hu : loadTiers i (Config.requestTiers req) s = u)
  (hw : vget (u.die 0).pcfg i.val = w)
include hnone hi hfree hu hw

/-- A partition whose PCFG is not VALID loses its configuration. -/
theorem execPartitionConfiguration_removes (hvalid : bitAt w 0 = false) :
    execPartitionConfiguration s = .next (answer none (u.modPart i.val fun _ => resetPartition)) := by
  simp only [execPartitionConfiguration, hpending, hready, hreq, hnone, hi, hfree, hu, hw, hvalid, Bool.not_true, Bool.not_false,
    Bool.or_self, Bool.false_eq_true, if_false, if_true]

variable {r : List Byte × PartCfg} (hvalid : bitAt w 0 = true) (hr : readPartRecord u (BitVec.ofNat 64 (bits w 6 50 * 64)) = r)
include hvalid hr

/-- A record is taken if its fields and its owners are in order, and refused if not. -/
theorem execPartitionConfiguration_record : execPartitionConfiguration s = .next
    (if recordFieldsOk i r.1 r.2 && ownersOk u i r.2 then acceptRecord i r.2 u else answer (some Cause.partitionBounds) u) := by
  simp only [execPartitionConfiguration, hpending, hready, hreq, hnone, hi, hfree, hu, hw, hvalid, hr, Bool.not_true, Bool.or_self,
    Bool.false_eq_true, if_false]
  exact (apply_ite Host.Outcome.next _ _ _).symm

end

/-! Zeroing of granules (04 R129). -/

section

variable {gran : Nat} {z : Nat × Nat} {s : State} (hzero : (s.dev.zeroing.find? fun z => z.1 == gran) = some z)
include hzero

theorem execGranuleZeroingComplete_held (hheld : granuleInUse gran s = true) : execGranuleZeroingComplete gran s = .next s := by
  simp only [execGranuleZeroingComplete, hzero, hheld, if_true]

/-- The state after a granule has been zeroed and left the list of those to be. -/
def granuleZeroed (gran : Nat) (s : State) : State :=
  let u := dropMapped gran (s.zeroBlocks (gran * 2 ^ 30) (2 ^ 24))
  { u with dev := { u.dev with zeroing := u.dev.zeroing.filter fun x => x.1 != gran } }

variable (hheld : granuleInUse gran s = false)
include hheld

theorem execGranuleZeroingComplete_more (hmore : ((granuleZeroed gran s).dev.zeroing.any fun x => x.2 == z.2) = true) :
    execGranuleZeroingComplete gran s = .next (granuleZeroed gran s) := by
  rw [granuleZeroed] at hmore
  simp only [execGranuleZeroingComplete, hzero, hheld, hmore, Bool.false_eq_true, if_false, if_true, granuleZeroed]

/-- With the last granule of a record zeroed, the record takes effect. -/
theorem execGranuleZeroingComplete_last {c : PartCfg} (hlast : ((granuleZeroed gran s).dev.zeroing.any fun x => x.2 == z.2) = false)
    (hnew : (granuleZeroed gran s).dev.newCfg.get (Fin.ofNat 8 z.2) = some c) :
    let u := granuleZeroed gran s
    let w := applyRecord (Fin.ofNat 8 z.2) c { u with dev := { u.dev with newCfg := u.dev.newCfg.set (Fin.ofNat 8 z.2) none } }
    execGranuleZeroingComplete gran s = .next { w with dev := { w.dev with cfgresp := 256 } } := by
  rw [granuleZeroed] at hlast hnew
  simp only [execGranuleZeroingComplete, hzero, hheld, hlast, hnew, Bool.false_eq_true, if_false, granuleZeroed]

end

/-! CXL.mem and CXL.cache (04 R146, 15 R444 R445; log 90). -/

section

variable {hpa k : Nat} {s : State} (hblock : s.hostBlock hpa = some k) (hgoes : s.hostWaits k = false)
include hblock hgoes

theorem execHostCxlMemRead_block : execHostCxlMemRead hpa s = .next (s.sendHost hpa (s.peek k 64) (s.poisonAt k)) := by
  simp only [execHostCxlMemRead, hblock, hgoes, Bool.false_eq_true, if_false]

variable {bytes : List Byte} {a : Nat} (haddr : s.hdmAddr hpa = some a)
include haddr

/-- A host write of a block that no partition owns. -/
theorem execHostCxlMemWrite_unowned (howner : s.ownerOf k = none) : execHostCxlMemWrite hpa bytes s =
    .next (((s.cleanBlock (fun _ => true) k).writeRun (k + a % 64) (bytes.take (64 - a % 64))).clearZ k) := by
  simp only [execHostCxlMemWrite, hblock, haddr, hgoes, howner, Bool.false_eq_true, if_false]

/-- A host write marks its block in the dirty log of the partition that owns it. -/
theorem execHostCxlMemWrite_owned {i : Fin 8} {u : State} (howner : s.ownerOf k = some i) (hmark : markDirty s i [k] = (true, u)) :
    execHostCxlMemWrite hpa bytes s =
      .next (((u.cleanBlock (fun _ => true) k).writeRun (k + a % 64) (bytes.take (64 - a % 64))).clearZ k) := by
  simp only [execHostCxlMemWrite, hblock, haddr, hgoes, howner, hmark, Bool.false_eq_true, if_false]

end

theorem execHostSnoop_unready {hpa : Nat} {bytes : List Byte} {s : State} (hready : s.dev.ready = false) :
    execHostSnoop hpa bytes s = .next s := by
  simp only [execHostSnoop, hready, Bool.not_false, if_true]

theorem execHostSnoop_ready {hpa : Nat} {bytes : List Byte} {s : State} (hready : s.dev.ready = true) :
    let k := hostKey (hpa / 64 * 64)
    execHostSnoop hpa bytes s =
      .next ((s.sendHost hpa (s.peek k 64) false).poke (k + hpa % 64) (bytes.take (64 - hpa % 64))) := by
  simp only [execHostSnoop, hready, Bool.not_true, Bool.false_eq_true, if_false]

/-- Settles O40: what the host asks for has the effect that its address, its value and the device's state select, and waits for READY. Where
records lie, what a request says and how, and what waits, are logs 13, 88, 89, 90 and 128. -/
theorem hostEvents : Obligations.HostEvents := by
  unfold Obligations.HostEvents
  intro p v s
  refine ⟨fun k hvalid => ⟨fun q => execDb_overshoots hvalid, execDb_stored hvalid⟩, execDbgdb_areaUp, ?hreq, ⟨rfl, ?reads⟩,
    fun off n => readDevice_refused s, fun _ => rfl, fun _ _ => rfl, fun _ _ => rfl,
    fun hready => ⟨execPartitionConfiguration_unready hready, fun hpa bytes => execHostSnoop_unready hready⟩, ?configures,
    fun gran z => execGranuleZeroingComplete_held, ?zeroed, ?cxlMem, fun hpa bytes => execHostSnoop_ready⟩
  case hreq =>
    exact fun n c hvalid hcfg hcluster hwork hspare =>
      ⟨execHreq_unasked hvalid hcfg hcluster hwork hspare, execHreq_resident hvalid hcfg hcluster hwork hspare⟩
  case reads =>
    rw [readDevice_cfgreq]
    split <;> rfl
  case configures =>
    intro hpending hready req
    refine ⟨fun r => execPartitionConfiguration_report hpending hready rfl, fun hnone hfree => ⟨?removes, ?accepts, ?refuses⟩⟩
    case removes => exact execPartitionConfiguration_removes hpending hready rfl hnone rfl hfree rfl rfl
    case accepts =>
      intro hvalid hsound
      refine (execPartitionConfiguration_record hpending hready rfl hnone rfl hfree rfl rfl hvalid rfl).trans ?_
      rw [if_pos hsound]
    case refuses =>
      intro hvalid hunsound
      refine (execPartitionConfiguration_record hpending hready rfl hnone rfl hfree rfl rfl hvalid rfl).trans ?_
      rw [if_neg (Bool.eq_false_iff.mp hunsound)]
  case zeroed =>
    exact fun gran z hzero hheld =>
      ⟨execGranuleZeroingComplete_more hzero hheld, fun c => execGranuleZeroingComplete_last hzero hheld⟩
  case cxlMem =>
    exact fun hpa k hblock hgoes => ⟨execHostCxlMemRead_block hblock hgoes, fun bytes a haddr =>
      ⟨execHostCxlMemWrite_unowned hblock hgoes haddr, fun i u => execHostCxlMemWrite_owned hblock hgoes haddr⟩⟩

end Sys2Proof.Proofs

/-! PROOF. Power, boot, reset, management, temperature and errors of the platform (13 R420 R421, 14 R434 R437 R441, 15 R450 to R454). -/

namespace Sys2Proof.Proofs

open Sys2Proof.Machine Sys2Proof.Laws Sys2Proof.Safety

/-! Power and boot (15 R450 to R452; logs 51, 126). -/

section

variable {s : State} (hup : (s.dev.dies.toList.any fun d => d.up) = true) (hready : s.dev.ready = false)
include hup hready

/-- READY is set where every die brought up has trained its bridge edges, over memory that is zero. -/
theorem execDeviceReady_trained (htrained : ∀ d ∈ (trainBridges s).dev.dies.toList, d.up = true → d.bridged = true) :
    let u := (trainBridges s).zeroBlocks 0 (hbmTop / 64)
    execDeviceReady s = .next { u with dev := { u.dev with ready := true } } := by
  have hnone : ((trainBridges s).dev.dies.toList.any fun d => d.up && !d.bridged) = false := by
    rw [List.any_eq_false]
    intro d hd
    cases hdup : d.up with
    | false => simp
    | true => simp [htrained d hd hdup]
  simp only [execDeviceReady, hready, hup, hnone, Bool.not_true, Bool.or_self, Bool.false_eq_true, if_false]

theorem execDeviceReady_untrained (hwaits : ∃ d ∈ (trainBridges s).dev.dies.toList, d.up = true ∧ d.bridged = false) :
    execDeviceReady s = .next (trainBridges s) := by
  obtain ⟨d, hd, hdup, hbridged⟩ := hwaits
  have hsome : ((trainBridges s).dev.dies.toList.any fun d => d.up && !d.bridged) = true :=
    List.any_eq_true.mpr ⟨d, hd, by simp [hdup, hbridged]⟩
  simp only [execDeviceReady, hready, hup, hsome, Bool.not_true, Bool.or_self, Bool.false_eq_true, if_false, if_true]

end

/-- An update is tried first, and otherwise the slot that ran before (15 R452; log 51). -/
theorem bootOrder_eq (e : Die) : (e.pending = true → e.bootOrder = [1 - e.slot, e.slot]) ∧
    (e.pending = false → e.bootOrder = [e.slot, 1 - e.slot]) :=
  ⟨fun hpending => if_pos hpending, fun hsame => if_neg (Bool.eq_false_iff.mp hsame)⟩

/-! Management messages (15 R453). -/

section

variable {die : Nat} {s : State} (bytes : List Byte)

/-- Firmware that runs is told of a message and answers it. -/
theorem mgmtAnswer_runs (hruns : s.firmwareRuns die = true) :
    let u := (s.fwEvent die 2).send (.management (Config.managementReply (s.fwEvent die 2).free bytes))
    mgmtAnswer die bytes s = { u with free := u.free + 1 } := by
  simp only [mgmtAnswer, hruns, Bool.not_true, Bool.false_eq_true, if_false]
  rfl

theorem mgmtAnswer_dead (hdead : s.firmwareRuns die = false) : mgmtAnswer die bytes s = s := by
  simp only [mgmtAnswer, hdead, Bool.not_false, if_true]

end

/-! Uncorrected errors (14 R441). -/

theorem execUeRegister_strand {s : State} (hwork : isFirmware s.core.id = false) (hstrand : s.core.holdsStrand = true)
    (hrecord : s.core.record.isEmpty = false) :
    execUeRegister s = .next (faultStrand Cause.ueRegister (rollback s).core.r.pc false false true (rollback s)) := by
  simp only [execUeRegister, hwork, hstrand, hrecord, Bool.not_false, Bool.and_self, Bool.false_eq_true, if_false, if_true]

theorem execUeRegister_idle {s : State} (hwork : isFirmware s.core.id = false) (hidle : s.core.holdsStrand = false) :
    execUeRegister s = .next (report s none (dieOf s.core.id) Cause.ueRegister 1 (unitId s.core.id 0) false 0 0) := by
  simp only [execUeRegister, hwork, hidle, Bool.false_and, Bool.false_eq_true, if_false]

/-- Settles O41: each event is the branch that power, READY, the firmware's state and the core select. The severities are log 86, the order of
the slots and the firmware's boot log 51, the training of the bridges log 126. -/
theorem platformEvents : Obligations.PlatformEvents := by
  unfold Obligations.PlatformEvents
  intro die bytes s
  refine ⟨?boots, ?ready, rfl, ?resets, bootOrder_eq, ?wakes, ?runs, ?dead, ?unattested, ?attests, ?trips, rfl, fun _ => rfl, ?firmware,
    execUeRegister_strand, execUeRegister_idle⟩
  case boots => exact fun hdown => if_neg (Bool.eq_false_iff.mp hdown)
  case ready => exact fun hready hup => ⟨execDeviceReady_trained hup hready, execDeviceReady_untrained hup hready⟩
  case resets => exact fun hpower => if_neg (by simp [hpower])
  case wakes => exact fun hwait hevent => if_pos ⟨hwait, hevent⟩
  case runs =>
    exact fun hruns => ⟨congrArg _ (mgmtAnswer_runs bytes hruns), congrArg _ (mgmtAnswer_runs bytes hruns),
      fun image => if_neg (by simp [hruns])⟩
  case dead =>
    exact fun hdead => ⟨congrArg _ (mgmtAnswer_dead bytes hdead), congrArg _ (mgmtAnswer_dead bytes hdead),
      fun image => if_pos (by simp [hdead])⟩
  case unattested => exact fun hdead => if_pos (by simp [hdead])
  case attests => exact fun hruns => if_neg (by simp [hruns])
  case trips => exact fun hcold => if_neg (Bool.eq_false_iff.mp hcold)
  case firmware => exact fun hfirmware => if_pos hfirmware

end Sys2Proof.Proofs

/-! PROOF. Link ports (15 R448 R449, 11 R344). -/

namespace Sys2Proof.Proofs

open Sys2Proof.Machine Sys2Proof.Laws Sys2Proof.Safety

/-! Fields of bytes put together from parts (00 R9). -/

theorem takeBytes_append (m r : List Byte) : takeBytes m.length (m ++ r) = m := by
  induction m with
  | nil => rfl
  | cons b m ih => rw [List.length_cons, List.cons_append, takeBytes, ih]

/-- The field that stands after `l` and before `r`. -/
theorem field_toBytes {l r : List Byte} {o n v : Nat} (ho : l.length = o) : field (l ++ (toBytes n v ++ r)) o n = v % 256 ^ n := by
  subst ho
  have hslice := takeBytes_append (toBytes n v) r
  rw [length_toBytes] at hslice
  rw [field, slice, List.drop_left, hslice, ofBytes_toBytes]

theorem length_padTo {α : Type} (n : Nat) (d : α) (l : List α) : (padTo n d l).length = n := by
  rw [padTo, List.length_take, List.length_append, List.length_replicate]
  omega

/-- Padding keeps a list that fits. -/
theorem take_padTo {α : Type} {n : Nat} (d : α) {l : List α} (hfits : l.length ≤ n) : (padTo n d l).take l.length = l := by
  rw [padTo, List.take_take, Nat.min_eq_left hfits, List.take_left]

/-! The CRC of a flit is a number of 32 bits (15 R448). -/

theorem crc32Bit_lt {c : Nat} (hc : c < 2 ^ 32) : crc32Bit c < 2 ^ 32 := by
  have hhalf : c / 2 < 2 ^ 32 := by omega
  unfold crc32Bit
  split
  · exact Nat.xor_lt_two_pow hhalf (by norm_num)
  · exact hhalf

theorem crc32Byte_lt {c : Nat} (b : Byte) (hc : c < 2 ^ 32) : crc32Byte c b < 2 ^ 32 := by
  have hb : b.toNat < 2 ^ 32 := by have := b.isLt; omega
  exact crc32Bit_lt (crc32Bit_lt (crc32Bit_lt (crc32Bit_lt (crc32Bit_lt (crc32Bit_lt (crc32Bit_lt (crc32Bit_lt
    (Nat.xor_lt_two_pow hc hb))))))))

theorem crc32_lt (bs : List Byte) : crc32 bs < 2 ^ 32 := by
  have hfold : ∀ c, c < 2 ^ 32 → bs.foldl crc32Byte c < 2 ^ 32 := by
    induction bs with
    | nil => exact fun c hc => hc
    | cons b bs ih => exact fun c hc => ih _ (crc32Byte_lt b hc)
  exact Nat.xor_lt_two_pow (hfold _ (by norm_num)) (by norm_num)

/-! The layout of a flit (15 R448). -/

/-- A flit but for its CRC. -/
def flitBody (type : Nat) (seq : Fin 4096) (cred : Nat) (payload : List Byte) : List Byte :=
  toBytes 2 (seq.val + type * 4096) ++ (toBytes 1 cred ++ (toBytes 1 0 ++ padTo 248 0 payload))

section

variable {type cred : Nat} {seq : Fin 4096} {payload : List Byte}

theorem flit_eq_body : flit type seq cred payload =
    flitBody type seq cred payload ++ toBytes 4 (crc32 (flitBody type seq cred payload)) := by
  simp [flit, flitBody, toBytes]

theorem length_flitBody : (flitBody type seq cred payload).length = 252 := by
  simp [flitBody, length_toBytes, length_padTo]

theorem length_flit : (flit type seq cred payload).length = 256 := by
  rw [flit_eq_body, List.length_append, length_flitBody, length_toBytes]

/-- SEQ and TYPE stand in bytes 0 and 1. -/
theorem field_flit_seqType (htype : type < 4) : field (flit type seq cred payload) 0 2 = seq.val + type * 4096 := by
  have hseq := seq.isLt
  have hhead : ([] : List Byte).length = 0 := rfl
  rw [flit_eq_body, flitBody, List.append_assoc]
  exact (field_toBytes hhead).trans (Nat.mod_eq_of_lt (by omega))

theorem flitSeq_flit (htype : type < 4) : flitSeq (flit type seq cred payload) = seq := by
  have hseq := seq.isLt
  refine Fin.ext ?_
  rw [flitSeq, field_flit_seqType htype, Fin.val_ofNat]
  omega

theorem flitType_flit (htype : type < 4) : flitType (flit type seq cred payload) = type := by
  have hseq := seq.isLt
  rw [flitType, field_flit_seqType htype]
  omega

theorem flitCred_flit (hcred : cred < 256) : flitCred (flit type seq cred payload) = cred := by
  rw [flitCred, flit_eq_body, flitBody, List.append_assoc, List.append_assoc]
  exact (field_toBytes (length_toBytes _ _)).trans (Nat.mod_eq_of_lt (by omega))

/-- Byte 3 is reserved. -/
theorem field_flit_reserved : field (flit type seq cred payload) 3 1 = 0 := by
  have hhead : (toBytes 2 (seq.val + type * 4096) ++ toBytes 1 cred).length = 3 := by simp [length_toBytes]
  rw [flit_eq_body, flitBody, ← List.append_assoc, List.append_assoc, List.append_assoc]
  exact field_toBytes hhead

theorem field_flit_crc : field (flit type seq cred payload) 252 4 = crc32 ((flit type seq cred payload).take 252) := by
  have hbody : (flit type seq cred payload).take 252 = flitBody type seq cred payload := by
    rw [flit_eq_body]
    exact List.take_left' length_flitBody
  rw [hbody, flit_eq_body, ← List.append_nil (toBytes 4 _)]
  exact (field_toBytes length_flitBody).trans (Nat.mod_eq_of_lt (crc32_lt _))

theorem payload_flit (hfits : payload.length ≤ 248) : ((flit type seq cred payload).drop 4).take payload.length = payload := by
  have hlong : payload.length ≤ (padTo 248 (0 : Byte) payload).length := by rwa [length_padTo]
  have hpayload : (flit type seq cred payload).drop 4 =
      padTo 248 0 payload ++ toBytes 4 (crc32 (flitBody type seq cred payload)) := by
    rw [flit_eq_body]
    rfl
  rw [hpayload, List.take_append_of_le_length hlong, take_padTo 0 hfits]

theorem flitGood_flit (htype : type < 4) : flitGood (flit type seq cred payload) = true := by
  simp only [flitGood, length_flit, flitType_flit htype, field_flit_reserved, field_flit_crc, htype, beq_self_eq_true, decide_true,
    Bool.and_self]

end

/-! Retries and acknowledgements (15 R448; log 74, log 75). -/

/-- The flits from a number on are sent again, up to eight times; the next request takes the port down. -/
theorem execLinkRetryRequest_kept {port : Fin 18} {seq : Fin 4096} {s : State} (hup : (s.port port.val).state = 2)
    (hkept : ((s.port port.val).replay.any fun f => flitSeq f == seq) = true) :
    let p := s.port port.val
    let n := sget p.retries 0 seq.val + 1
    execLinkRetryRequest port seq s = .next
      (if n ≤ 8 then
        let u := s.modPort port.val fun p => { p with retries := sset p.retries 0 seq.val n }
        { u with dev := { u.dev with out := u.dev.out ++ [.flits port.val (p.replay.dropWhile fun f => flitSeq f != seq)] } }
      else portDown port.val s) := by
  simp only [execLinkRetryRequest, hup, hkept, ne_eq, not_true_eq_false, Bool.not_true, Bool.false_eq_true, or_self, if_false,
    ← Nat.not_le, ite_not]

/-- An acknowledgement covers the flits up to the first one of its number. -/
theorem acked_of_replay {p : Port} {seq : Fin 4096} {old new : List (List Byte)} {x : List Byte} (hreplay : p.replay = old ++ x :: new)
    (hold : (old.any fun f => flitSeq f == seq) = false) (hx : flitSeq x = seq) : p.acked seq = old ++ [x] := by
  have hall : ∀ f ∈ old, (flitSeq f != seq) = true := by simpa using hold
  have hcovered : ((old ++ x :: new).takeWhile fun f => flitSeq f != seq) = old := by
    rw [List.takeWhile_append_of_pos hall, List.takeWhile_cons_of_neg (by simp [hx]), List.append_nil]
  have hany : ((old ++ x :: new).any fun f => flitSeq f == seq) = true := by simp [hx]
  rw [Port.acked, hreplay, if_pos hany, hcovered, List.take_append, List.take_of_length_le (Nat.le_succ _)]
  simp

/-- Settles O35: the fields of a flit by its layout, and each event of a port by its state. How acknowledgements group, and the credits at UP,
are log 74, the count of retries log 75. -/
theorem linkEvents : Obligations.LinkEvents := by
  unfold Obligations.LinkEvents
  intro port seq f a s p
  refine ⟨?fields, ?error, execLinkRetryRequest_kept, ?acknowledges, fun old new x => acked_of_replay, ?badFlit, ?starts, ?trains⟩
  case fields =>
    exact fun type cred htype hcred hfits =>
      ⟨length_flit, flitSeq_flit htype, flitType_flit htype, flitCred_flit hcred, payload_flit hfits, flitGood_flit htype⟩
  case error => exact fun hup => congrArg _ (if_pos hup)
  case acknowledges => exact fun hup => if_neg (not_not.mpr hup)
  case badFlit =>
    exact fun hup => ⟨fun hbad => congrArg _ (if_pos ⟨hup, hbad⟩), fun hgood => congrArg _ (if_neg (by simp [hgood]))⟩
  case starts =>
    exact fun hdown => ⟨fun hruns => congrArg _ (if_pos ⟨hdown, hruns⟩), fun hdead => congrArg _ (if_neg (by simp [hdead]))⟩
  case trains => exact fun htraining => ⟨congrArg _ (if_pos htraining), congrArg _ (if_pos htraining)⟩

end Sys2Proof.Proofs

/-! PROOF. What the A slot's instructions deliver (05 R164 to R176, 07 R222 R238). -/

namespace Sys2Proof.Proofs

open Sys2Proof.Machine Sys2Proof.Laws Sys2Proof.Safety

/-! The values of the model's words in numbers (05 R164 R165 R169). -/

theorem sshiftRight_eq_ofInt (x : Word) (k : Nat) : x.sshiftRight k = BitVec.ofInt 64 (x.toInt / 2 ^ k) := by
  rw [BitVec.sshiftRight, Int.shiftRight_eq_div_pow, Nat.cast_pow, Nat.cast_ofNat]

theorem shiftLeft_eq_ofNat (x : Word) (k : Nat) : x <<< k = BitVec.ofNat 64 (x.toNat * 2 ^ k) := by
  exact BitVec.eq_of_toNat_eq (by simp [Nat.shiftLeft_eq])

theorem ushiftRight_eq_ofNat (x : Word) (k : Nat) : x >>> k = BitVec.ofNat 64 (x.toNat / 2 ^ k) := by
  have hlt : x.toNat / 2 ^ k < 2 ^ 64 := (Nat.div_le_self _ _).trans_lt x.isLt
  exact BitVec.eq_of_toNat_eq (by rw [BitVec.toNat_ushiftRight, Nat.shiftRight_eq_div_pow, BitVec.toNat_ofNat, Nat.mod_eq_of_lt hlt])

theorem bits_zero (x : Word) (n : Nat) : bits x 0 n = x.toNat % 2 ^ n := by
  rw [bits, pow_zero, Nat.div_one]

theorem bitAt_eq_getLsbD (x : Word) (k : Nat) : bitAt x k = x.getLsbD k := by
  rw [BitVec.getLsbD, Nat.testBit_eq_decide_div_mod_eq]
  rfl

theorem bne_eq_decide (x y : Word) : (x != y) = decide (x ≠ y) := by
  rw [bne, beq_eq_decide, decide_not]

theorem ult_imm (x : Word) (n : Fin 1024) : x.ult (BitVec.ofNat 64 n.val) = decide (x.toNat < n.val) := by
  rw [BitVec.ult_eq_decide, BitVec.toNat_ofNat, Nat.mod_eq_of_lt (n.isLt.trans (by decide))]

theorem absV_eq (x : Word) : absV x = if x.toInt < 0 then -x else x := by
  rw [absV, zero_sub]

/-! What each shape of the A slot delivers in a slot that passes its checks. -/

/-- DIVZERO for a divisor of 0. -/
def divzero (t : State) (b : Fin 64) : List LogEvent :=
  if t.x b = 0 then [⟨Ev.divzero, t.core.iss.slot, 0, t.core.iss.pc⟩] else []

/-- What a slot that passes its checks answers when it delivers one result. -/
def delivered (i : Instr) (s : State) (r : Option Nat × Write × List LogEvent) : Ends :=
  .next ((staleReads s i).result r.1 r.2.1 r.2.2)

section
variable {i : Instr} {s : State} (hpass : slotPasses i s = true)
include hpass

/-- A slot whose effect on the state after its reads is one result delivers it. -/
theorem slot_delivered {body : State → Ends} {e : Ends} {r : Option Nat × Write × List LogEvent} (he : e = slotOp i s body)
    (h : body (staleReads s i) = .next ((staleReads s i).result r.1 r.2.1 r.2.2)) : e = delivered i s r :=
  he.trans ((slotOp_passes hpass body).trans h)

theorem alu2_delivered {e : Ends} {lat d a b f v} (he : e = alu2 lat i d a b f s)
    (hv : f ((staleReads s i).x a) ((staleReads s i).x b) = v) : e = delivered i s (some lat, xWrite (staleReads s i) d v, []) :=
  slot_delivered hpass he (hv ▸ rfl)

theorem alu1_delivered {e : Ends} {lat d a f v} (he : e = alu1 lat i d a f s) (hv : f ((staleReads s i).x a) = v) :
    e = delivered i s (some lat, xWrite (staleReads s i) d v, []) :=
  slot_delivered hpass he (hv ▸ rfl)

theorem compare_delivered {e : Ends} {d a b f v} (he : e = compare i d a b f s)
    (hv : f ((staleReads s i).x a) ((staleReads s i).x b) = v) : e = delivered i s (some 1, .p d v, []) :=
  slot_delivered hpass he (hv ▸ rfl)

theorem compareImm_delivered {e : Ends} {d a f v} (he : e = compareImm i d a f s) (hv : f ((staleReads s i).x a) = v) :
    e = delivered i s (some 1, .p d v, []) :=
  slot_delivered hpass he (hv ▸ rfl)

theorem divide_delivered {e : Ends} {d a b f v} (he : e = divide i d a b f s)
    (hv : f ((staleReads s i).x a) ((staleReads s i).x b) = v) :
    e = delivered i s (none, .x d v, divzero (staleReads s i) b) :=
  slot_delivered hpass he (hv ▸ rfl)

end

/-- An instruction of the table of scalar results delivers what the table says. -/
theorem exec_scalarResult {i : Instr} {s : State} (hpass : slotPasses i s = true) :
    ∀ r ∈ scalarResult i (staleReads s i), exec i s = delivered i s r := by
  rintro r hr
  cases i with
  | add | sub | mul | mulhn | andOp | orOp | xorOp | andn | rol | minOp | maxOp | minn | maxn | bfx | cvtaCl =>
    cases hr
    exact alu2_delivered hpass (by unfold exec; rfl) (by exact rfl)
  | clz | ctz | popc | sext | addi | andi | ori | xori | muli | lihi | lihiPair | cvtaOff | cvtaOwn =>
    cases hr
    exact alu1_delivered hpass (by unfold exec; rfl) (by exact rfl)
  | mulh =>
    cases hr
    exact alu2_delivered hpass (by unfold exec; rfl) (by rw [mulhV, Nat.cast_pow, Nat.cast_ofNat])
  | sll =>
    cases hr
    exact alu2_delivered hpass (by unfold exec; rfl) (shiftLeft_eq_ofNat _ _)
  | srl =>
    cases hr
    exact alu2_delivered hpass (by unfold exec; rfl) (ushiftRight_eq_ofNat _ _)
  | sra =>
    cases hr
    exact alu2_delivered hpass (by unfold exec; rfl) (sshiftRight_eq_ofInt _ _)
  | slli =>
    cases hr
    exact alu1_delivered hpass (by unfold exec; rfl) (shiftLeft_eq_ofNat _ _)
  | srli =>
    cases hr
    exact alu1_delivered hpass (by unfold exec; rfl) (ushiftRight_eq_ofNat _ _)
  | srai =>
    cases hr
    exact alu1_delivered hpass (by unfold exec; rfl) (sshiftRight_eq_ofInt _ _)
  | absOp =>
    cases hr
    exact alu1_delivered hpass (by unfold exec; rfl) (absV_eq _)
  | zext =>
    cases hr
    exact alu1_delivered hpass (by unfold exec; rfl) (congrArg _ (bits_zero _ _))
  | div | divn | rem | remn =>
    cases hr
    exact divide_delivered hpass (by unfold exec; rfl) (by exact rfl)
  | bfi | sel | limm | limmPair | pcadd | mfs | btmovFromBt | ecnt | rdwin | txstat =>
    cases hr
    exact slot_delivered hpass (by unfold exec; rfl) (by exact rfl)
  | _ => cases hr

/-- Settles O1: the bodies of the A slot deliver the values of the table. -/
theorem scalarResults : Obligations.ScalarResults := by
  unfold Obligations.ScalarResults
  exact fun i s l w es hpass h => exec_scalarResult hpass (l, w, es) h

/-- An instruction of the table of predicate results delivers what the table says. -/
theorem exec_predResult {i : Instr} {s : State} (hpass : slotPasses i s = true) :
    ∀ r ∈ predResult i (staleReads s i), exec i s = delivered i s (some 1, .p r.1 r.2, []) := by
  rintro r hr
  cases i with
  | pand | por | pxor | pandn =>
    cases hr
    exact slot_delivered hpass (by unfold exec; rfl : _ = plogic ..) (by exact rfl)
  | cmpeq =>
    cases hr
    exact compare_delivered hpass (by unfold exec; rfl) (by exact beq_eq_decide _ _)
  | cmpne =>
    cases hr
    exact compare_delivered hpass (by unfold exec; rfl) (bne_eq_decide _ _)
  | cmplt =>
    cases hr
    exact compare_delivered hpass (by unfold exec; rfl) (by exact BitVec.slt_eq_decide)
  | cmple =>
    cases hr
    exact compare_delivered hpass (by unfold exec; rfl) (by exact BitVec.sle_eq_decide)
  | cmpltn =>
    cases hr
    exact compare_delivered hpass (by unfold exec; rfl) (by exact BitVec.ult_eq_decide)
  | cmplen =>
    cases hr
    exact compare_delivered hpass (by unfold exec; rfl) (by exact BitVec.ule_eq_decide)
  | cmpeqi =>
    cases hr
    exact compareImm_delivered hpass (by unfold exec; rfl) (by exact beq_eq_decide _ _)
  | cmplti =>
    cases hr
    exact compareImm_delivered hpass (by unfold exec; rfl) (by exact BitVec.slt_eq_decide)
  | cmpltni =>
    cases hr
    exact compareImm_delivered hpass (by unfold exec; rfl) (by exact ult_imm _ _)
  | tstbit =>
    cases hr
    exact compareImm_delivered hpass (by unfold exec; rfl) (by exact bitAt_eq_getLsbD _ _)
  | isap =>
    cases hr
    exact compareImm_delivered hpass (by unfold exec; rfl) (by exact beq_eq_decide _ _)
  | _ => cases hr

/-- Settles O2: compares and predicate operations deliver the truth values of the table. -/
theorem predicateResults : Obligations.PredicateResults := by
  unfold Obligations.PredicateResults
  exact fun i s d v hpass h => exec_predResult hpass (d, v) h

/-- Settles O3: each instruction's body on the state after its reads is its write. -/
theorem registerWrites : Obligations.RegisterWrites := by
  unfold Obligations.RegisterWrites
  intro i s w hpass h
  change exec i s = delivered i s (some 1, w, [])
  cases i with
  | mts | shw | agw | xpw | btmovToBt | btset | segset =>
    cases h
    exact slot_delivered hpass (by unfold exec; rfl) (by exact rfl)
  | mzero | mgate | mdrowsy | minval =>
    cases h
    exact slot_delivered hpass (by unfold exec; rfl : _ = manage ..) (by exact rfl)
  | _ => cases h

/-! Division (05 R165). -/

end Sys2Proof.Proofs

/-! PROOF. Division, and the read of the error register (05 R165 R174). -/

namespace Sys2Proof.Proofs

open Sys2Proof.Machine Sys2Proof.Laws Sys2Proof.Safety

/-! Fields of a word (00 R9). -/

theorem getLsbD_setBits (w : Word) (v : Nat) {lo n j : Nat} (hj : j < 64) :
    (setBits w lo n v).getLsbD j = if lo ≤ j ∧ j < lo + n then v.testBit (j - lo) else w.getLsbD j := by
  have hsum : w.toNat % 2 ^ lo + v % 2 ^ n * 2 ^ lo + w.toNat / 2 ^ (lo + n) * 2 ^ (lo + n) =
      2 ^ lo * (2 ^ n * (w.toNat / 2 ^ (lo + n)) + v % 2 ^ n) + w.toNat % 2 ^ lo := by rw [pow_add]; ring
  rw [setBits, hsum, BitVec.getLsbD_ofNat, decide_eq_true hj, Bool.true_and,
    Nat.testBit_two_pow_mul_add _ (Nat.mod_lt _ (Nat.two_pow_pos lo))]
  by_cases hlo : j < lo
  · rw [if_pos hlo, if_neg (by omega), Nat.testBit_mod_two_pow, decide_eq_true hlo, Bool.true_and, BitVec.testBit_toNat]
  · rw [if_neg hlo, Nat.testBit_two_pow_mul_add _ (Nat.mod_lt _ (Nat.two_pow_pos n))]
    by_cases hn : j - lo < n
    · rw [if_pos hn, if_pos (by omega), Nat.testBit_mod_two_pow, decide_eq_true hn, Bool.true_and]
    · rw [if_neg hn, if_neg (by omega), Nat.testBit_div_two_pow, BitVec.testBit_toNat]
      congr 1
      omega

/-- A field that was set reads as it was set. -/
theorem bits_setBits_same (w : Word) (v : Nat) {lo n : Nat} (h : lo + n ≤ 64) : bits (setBits w lo n v) lo n = v % 2 ^ n := by
  refine Nat.eq_of_testBit_eq fun j => ?_
  rw [testBit_bits, Nat.testBit_mod_two_pow]
  by_cases hj : j < n
  · rw [getLsbD_setBits _ _ (by omega), if_pos (by omega), Nat.add_sub_cancel_left]
  · rw [decide_eq_false hj, Bool.false_and, Bool.false_and]

/-- A field apart from the one that was set keeps its value. -/
theorem bits_setBits_apart (w : Word) (v : Nat) {lo n l k : Nat} (h : l + k ≤ 64) (hap : l + k ≤ lo ∨ lo + n ≤ l) :
    bits (setBits w lo n v) l k = bits w l k := by
  refine Nat.eq_of_testBit_eq fun j => ?_
  rw [testBit_bits, testBit_bits]
  by_cases hj : j < k
  · rw [getLsbD_setBits _ _ (by omega), if_neg (by omega)]
  · rw [decide_eq_false hj, Bool.false_and, Bool.false_and]

/-! Quotients and remainders of words (05 R165). -/

/-- The quotient fits in 64 bits, but for the lowest number by -1. -/
theorem ofInt_tdiv {n m : Word} (h : ¬(n = 0x8000000000000000 ∧ m = BitVec.allOnes 64)) :
    BitVec.ofInt 64 (n.toInt.tdiv m.toInt) = n.sdiv m := by
  have hne : n ≠ BitVec.intMin 64 ∨ m ≠ -1#64 := by
    rw [BitVec.neg_one_eq_allOnes]
    exact not_and_or.mp h
  rw [← BitVec.toInt_sdiv_of_ne_or_ne n m hne, BitVec.ofInt_toInt]

theorem ofInt_tmod (n m : Word) : BitVec.ofInt 64 (n.toInt.tmod m.toInt) = n.srem m := by
  rw [← BitVec.toInt_srem, BitVec.ofInt_toInt]

theorem ofNat_div (n m : Word) : BitVec.ofNat 64 (n.toNat / m.toNat) = n / m := BitVec.udiv_def.symm

theorem ofNat_mod (n m : Word) : BitVec.ofNat 64 (n.toNat % m.toNat) = n % m := by
  rw [← BitVec.toNat_umod, BitVec.ofNat_toNat, BitVec.setWidth_eq]

theorem tmod_nonpos {n : Int} (m : Int) (h : n ≤ 0) : n.tmod m ≤ 0 := by
  have := Int.tmod_nonneg m (Int.neg_nonneg_of_nonpos h)
  rwa [Int.neg_tmod, Int.neg_nonneg] at this

/-- What 05 R165 asks of a signed quotient and remainder: the quotient is truncated toward zero, and the remainder has the sign of the
dividend. -/
structure Truncated (n m q r : Int) : Prop where
  sum : q * m + r = n
  small : r.natAbs < m.natAbs
  nonneg : 0 ≤ n → 0 ≤ r
  nonpos : n ≤ 0 → r ≤ 0
  toward : q.natAbs * m.natAbs ≤ n.natAbs

theorem truncated_tdiv (n : Int) {m : Int} (hm : m ≠ 0) : Truncated n m (n.tdiv m) (n.tmod m) where
  sum := Int.tdiv_mul_add_tmod n m
  small := by
    rw [Int.natAbs_tmod]
    exact Nat.mod_lt _ (Int.natAbs_pos.mpr hm)
  nonneg := Int.tmod_nonneg m
  nonpos := tmod_nonpos m
  toward := by
    rw [Int.natAbs_tdiv]
    exact Nat.div_mul_le_self _ _

/-! What the four instructions deliver. -/

section
variable {g : Fin 8} {d a b : Fin 64} {s : State}

theorem exec_div (hpass : slotPasses (.div g d a b) s = true) : exec (.div g d a b) s =
    .next ((staleReads s (.div g d a b)).result none (.x d (divV ((staleReads s (.div g d a b)).x a) ((staleReads s (.div g d a b)).x b)))
      (divzero (staleReads s (.div g d a b)) b)) :=
  slotOp_passes hpass fun t => .next (t.result none (.x d (divV (t.x a) (t.x b))) (divzero t b))

theorem exec_divn (hpass : slotPasses (.divn g d a b) s = true) : exec (.divn g d a b) s =
    .next ((staleReads s (.divn g d a b)).result none (.x d (divnV ((staleReads s (.divn g d a b)).x a) ((staleReads s (.divn g d a b)).x b)))
      (divzero (staleReads s (.divn g d a b)) b)) :=
  slotOp_passes hpass fun t => .next (t.result none (.x d (divnV (t.x a) (t.x b))) (divzero t b))

theorem exec_rem (hpass : slotPasses (.rem g d a b) s = true) : exec (.rem g d a b) s =
    .next ((staleReads s (.rem g d a b)).result none (.x d (remV ((staleReads s (.rem g d a b)).x a) ((staleReads s (.rem g d a b)).x b)))
      (divzero (staleReads s (.rem g d a b)) b)) :=
  slotOp_passes hpass fun t => .next (t.result none (.x d (remV (t.x a) (t.x b))) (divzero t b))

theorem exec_remn (hpass : slotPasses (.remn g d a b) s = true) : exec (.remn g d a b) s =
    .next ((staleReads s (.remn g d a b)).result none (.x d (remnV ((staleReads s (.remn g d a b)).x a) ((staleReads s (.remn g d a b)).x b)))
      (divzero (staleReads s (.remn g d a b)) b)) :=
  slotOp_passes hpass fun t => .next (t.result none (.x d (remnV (t.x a) (t.x b))) (divzero t b))

end

/-- Settles O58: the division's value, by zero, by the one quotient that does not fit, and by all others. -/
theorem divisionAndRemainder : Obligations.DivisionAndRemainder := by
  unfold Obligations.DivisionAndRemainder
  intro g d a b i s hpass t gives zero n m lowest
  have hzero : m = 0 → divzero t b = zero := fun h => if_pos h
  have hnone : m ≠ 0 → divzero t b = [] := fun h => if_neg h
  have hdiv : i = .div g d a b → gives (divV n m) (divzero t b) := by rintro rfl; exact exec_div hpass
  have hdivn : i = .divn g d a b → gives (divnV n m) (divzero t b) := by rintro rfl; exact exec_divn hpass
  have hrem : i = .rem g d a b → gives (remV n m) (divzero t b) := by rintro rfl; exact exec_rem hpass
  have hremn : i = .remn g d a b → gives (remnV n m) (divzero t b) := by rintro rfl; exact exec_remn hpass
  clear_value m n
  refine ⟨?byZero, ?remainderByZero, ?lowestQuotient, ?lowestRemainder, ?signed, ?unsigned⟩
  case byZero =>
    rintro hi hm
    rw [← hzero hm]
    rcases hi with hi | hi
    · exact (if_pos hm : divV n m = _) ▸ hdiv hi
    · exact (if_pos hm : divnV n m = _) ▸ hdivn hi
  case remainderByZero =>
    rintro hi hm
    rw [← hzero hm]
    rcases hi with hi | hi
    · exact (if_pos hm : remV n m = _) ▸ hrem hi
    · exact (if_pos hm : remnV n m = _) ▸ hremn hi
  case lowestQuotient =>
    rintro hi rfl rfl
    have hv : divV lowest (BitVec.allOnes 64) = lowest := by decide
    simpa only [hv, hnone (by decide)] using hdiv hi
  case lowestRemainder =>
    rintro hi rfl rfl
    have hv : remV lowest (BitVec.allOnes 64) = 0 := by decide
    simpa only [hv, hnone (by decide)] using hrem hi
  case signed =>
    intro hm hfits
    have hm' : m.toInt ≠ 0 := fun h => hm (BitVec.toInt_inj.mp h)
    obtain ⟨hsum, hsmall, hnonneg, hnonpos, htoward⟩ := truncated_tdiv n.toInt hm'
    have hne : n ≠ BitVec.intMin 64 ∨ m ≠ -1#64 := by
      rw [BitVec.neg_one_eq_allOnes]
      exact not_and_or.mp hfits
    have hq : (n.sdiv m).toInt = n.toInt.tdiv m.toInt := BitVec.toInt_sdiv_of_ne_or_ne n m hne
    have hr : (n.srem m).toInt = n.toInt.tmod m.toInt := BitVec.toInt_srem n m
    refine ⟨n.sdiv m, n.srem m, ?_, ?_, ?_, ?_, ?_, fun hi => ?_, fun hi => ?_⟩
    · rw [hq, hr]; exact hsum
    · rw [hr]; exact hsmall
    · rw [hr]; exact hnonneg
    · rw [hr]; exact hnonpos
    · rw [hq]; exact htoward
    · rw [← hnone hm, ← ofInt_tdiv hfits]
      exact (if_neg hm : divV n m = _) ▸ hdiv hi
    · rw [← hnone hm, ← ofInt_tmod]
      exact (if_neg hm : remV n m = _) ▸ hrem hi
  case unsigned =>
    intro hm
    have hpos : 0 < m.toNat := Nat.pos_of_ne_zero fun h => hm (BitVec.eq_of_toNat_eq h)
    refine ⟨n / m, n % m, ?_, ?_, fun hi => ?_, fun hi => ?_⟩
    · rw [BitVec.toNat_udiv, BitVec.toNat_umod]
      exact Nat.div_add_mod' _ _
    · rw [BitVec.toNat_umod]
      exact Nat.mod_lt _ hpos
    · rw [← hnone hm, ← ofNat_div]
      exact (if_neg hm : divnV n m = _) ▸ hdivn hi
    · rw [← hnone hm, ← ofNat_mod]
      exact (if_neg hm : remnV n m = _) ▸ hremn hi

/-! CHKERR (05 R174). -/

/-- A syllable of CHKERR's opcode has no other fields than its destination and the clear bit. -/
theorem decodeA_chkerr {g d f : Nat} (hd : d < 64) (hf : f < 65536) :
    decodeA (g * 2 ^ 29 + 0x47 * 2 ^ 22 + d * 2 ^ 16 + f) =
      if f < 2 then .ok (.chkerr (Fin.ofNat 8 g) (Fin.ofNat 64 d) (Fin.ofNat 2 f)) else .error .bundleReserved := by
  have hw : g * 2 ^ 29 + 0x47 * 2 ^ 22 + d * 2 ^ 16 + f = packA g 71 d (f / 1024) (f % 1024) := by unfold packA; omega
  rw [hw, decodeA_pack (by decide) (by decide) hd (by omega) (by omega)]
  change need _ (.chkerr _ _ _) = _
  by_cases hlt : f < 2
  · rw [if_pos hlt, need_eq_ok rfl (by simp; omega)]
    congr 2
    exact Fin.ext (by simp only [Fin.ofNat]; omega)
  · rw [if_neg hlt, need, if_neg (by simp; omega), reserved]

/-- The clear takes CIR[3:0] and COUNT, and leaves the other bits as they are. -/
theorem cleared_cir (w : Word) : let c := setBits (setBits w 0 4 0) 16 16 0
    (∀ k, 4 ≤ k → k < 16 ∨ 32 ≤ k → c.getLsbD k = w.getLsbD k) ∧ bits c 0 4 = 0 ∧ bits c 16 16 = 0 := by
  refine ⟨fun k h4 hk => ?_, ?_, bits_setBits_same _ _ (by decide)⟩
  · by_cases h : k < 64
    · rw [getLsbD_setBits _ _ h, if_neg (by omega), getLsbD_setBits _ _ h, if_neg (by omega)]
    · rw [BitVec.getLsbD_of_ge _ _ (not_lt.mp h), BitVec.getLsbD_of_ge _ _ (not_lt.mp h)]
  · exact (bits_setBits_apart _ _ (by decide) (by decide)).trans (bits_setBits_same _ _ (by decide))

/-- Settles O59: the encoding by its fields, and the read from O21's equation. -/
theorem errorRead : Obligations.ErrorRead := by
  unfold Obligations.ErrorRead
  refine ⟨fun g d c => by simp [encode], fun g d f _ => decodeA_chkerr, ?_⟩
  intro g d c s hpass t
  obtain ⟨_, hread, _⟩ := coreReads g d 0 s
  obtain ⟨hkeep, hlow, hcount⟩ := cleared_cir t.core.cir
  by_cases hc : c = 1
  · refine ⟨setBits (setBits t.core.cir 0 4 0) 16 16 0, hkeep, fun _ => ⟨hlow, hcount⟩, fun h => absurd (h.symm.trans hc) (by decide), ?_⟩
    exact (hread c hpass).trans (by rw [if_pos hc])
  · refine ⟨t.core.cir, fun _ _ _ => rfl, fun h => absurd h hc, fun _ => rfl, ?_⟩
    exact (hread c hpass).trans (by rw [if_neg hc])

end Sys2Proof.Proofs

/-! PROOF. Waits, what acts after its bundle, privileged instructions, and the loops a transfer leaves (05 R156 R177 R180 R183 to R186). -/

namespace Sys2Proof.Proofs

open Sys2Proof.Machine Sys2Proof.Laws Sys2Proof.Safety

/-! Waits (05 R186). -/

theorem staleReads_win (s : State) (i : Instr) : (staleReads s i).core.win = s.core.win := by
  obtain ⟨es, h⟩ := staleReads_eq s i
  rw [h]

/-- WAIT.MEM whose load gives its bytes goes on or stalls by the word. -/
theorem execWaitMem_of_meets {g : Fin 8} {a b : Fin 64} {s u : State} {bs : List Byte} (hpass : slotPasses (.waitMem g a b) s = true)
    (hmeets : loadMeets ((staleReads s (.waitMem g a b)).x a) (loadPieces none 4 [((staleReads s (.waitMem g a b)).x a, 4)])
      (staleReads s (.waitMem g a b)) = some (bs, u)) :
    execWaitMem g a b s = if waitMet (BitVec.ofNat 32 (ofBytes bs)) ((u.x b).setWidth 32) then .next u
      else stallOut { u with core := { u.core with win := s.core.win } } := by
  rw [execWaitMem, slotOp_passes hpass]
  exact (loadOut_of_meets hmeets _).trans (by rw [staleReads_win])

theorem enginesDone_iff (s : State) (mask : Nat) : enginesDone s mask = true ↔
    ∀ q, q < 5 → mask / 2 ^ q % 2 = 1 → ∀ c ∈ s.core.eng.queue q, isEtrel c.instr = true := by
  simp [enginesDone, or_iff_not_imp_left]

/-- Settles O19: WAIT.MEM by its load, WAIT.ENG by the commands of its queues. -/
theorem waits : Obligations.Waits := by
  unfold Obligations.Waits
  intro g a b mask s u bs
  refine ⟨?mem, ?eng⟩
  case mem =>
    intro hpass t hmeets gap
    refine ⟨fun hgap => ?_, fun hgap => ?_⟩
    · exact (execWaitMem_of_meets hpass hmeets).trans (if_pos (decide_eq_true hgap))
    · exact (execWaitMem_of_meets hpass hmeets).trans (if_neg fun h => not_le.mpr hgap (of_decide_eq_true h))
  case eng =>
    intro hpass
    have hexec : exec (.waitEng g mask) s = if enginesDone s mask.val then .next s else stallOut s :=
      slotOp_passes hpass fun s => if enginesDone s mask.val then .next s else stallOut s
    refine ⟨fun hall => hexec.trans (if_pos ((enginesDone_iff s mask.val).mpr hall)), ?_⟩
    rintro ⟨q, hq, hmask, c, hc, hcmd⟩
    refine hexec.trans (if_neg fun h => ?_)
    exact absurd ((enginesDone_iff s mask.val).mp h q hq hmask c hc) (by simp [hcmd])

/-! After the bundle (05 R156 R183). -/

theorem staleReads_closing (s : State) (i : Instr) : (staleReads s i).core.closing = s.core.closing := by
  obtain ⟨es, h⟩ := staleReads_eq s i
  rw [h]

/-- What an instruction that acts after its bundle finds there: the bundle of `t` has ended on its core, the window closes to `u`, and
what the instruction waits for holds. -/
structure EndsIn (t u : State) (ready : State → Bool) : Prop where
  opening : t.core.closing = false
  stays : (bundleEnd t).1.core.iss.gone = false
  closes : closeWindow (drain (bundleEnd t).1) = .done u
  ready : ready u = true

theorem postOp_of_endsIn {i : Instr} {ready : State → Bool} {effect : State → State} {t u : State} (h : EndsIn t u ready) :
    postOp i ready effect t = .next (effect { u with core := { u.core with post := none } }) := by
  obtain ⟨hopen, hstays, hcloses, hready⟩ := h
  simp only [postOp, hopen, hstays, hcloses, hready, Bool.false_eq_true, if_false, if_true]

theorem stopOp_of_endsIn {i : Instr} {effect : State → State} {t u : State} (hstop : enginesAtStop t = true)
    (h : EndsIn t u fun _ => true) : stopOp i effect t = .next (effect { u with core := { u.core with post := none } }) := by
  rw [stopOp, if_neg (by simp [hstop]), postOp_of_endsIn h]

theorem keepArg_of_open {t : State} {a : Fin 64} (h : t.core.closing = false) :
    t.keepArg a = { t with core := { t.core with postArg := t.x a } } := if_neg (by simp [h])

section
variable {g : Fin 8} {a : Fin 64} {s u : State} {ready : State → Bool} {act : State → State}

/-- The state that the effect of such an instruction finds: the instruction no longer waits. -/
def released (u : State) : State := { u with core := { u.core with post := none } }

theorem rft_of_endsIn {i : Instr} (hpass : slotPasses i s = true)
    (hact : afterBundle (.rftResume 0) (staleReads s i) = some (ready, act)) (hends : EndsIn (staleReads s i) u ready) :
    rft i s = .next (act (released u)) := by
  rw [rft, slotOp_passes hpass]
  generalize staleReads s i = t at hact hends ⊢
  dsimp only [afterBundle, kept] at hact ⊢
  by_cases hd : bits t.core.sup.tstatus 4 3 = 0
  · rw [if_pos hd] at hact
    obtain ⟨haligned, hact⟩ := Option.ite_none_right_eq_some.mp hact
    cases hact
    rw [if_neg (by simp [haligned]), if_pos hd]
    exact postOp_of_endsIn hends
  · rw [if_neg hd] at hact
    obtain ⟨hstop, hact⟩ := Option.ite_none_right_eq_some.mp hact
    cases hact
    rw [if_neg (by simp [hd]), if_neg hd]
    exact stopOp_of_endsIn hstop hends

theorem execExitOp_of_endsIn (hpass : slotPasses (.exitOp g) s = true)
    (hact : afterBundle (.exitOp g) (staleReads s (.exitOp g)) = some (ready, act))
    (hends : EndsIn (kept (.exitOp g) (staleReads s (.exitOp g))) u ready) : execExitOp g s = .next (act (released u)) := by
  rw [execExitOp, slotOp_passes hpass]
  generalize staleReads s (.exitOp g) = t at hact hends ⊢
  obtain ⟨hdone, hact⟩ := Option.ite_none_right_eq_some.mp hact
  cases hact
  rw [if_neg (by simp [hdone])]
  exact postOp_of_endsIn hends

theorem execFork_of_endsIn {disp : Fin 4294967296} (hpass : slotPasses (.fork g a disp) s = true)
    (hact : afterBundle (.fork g a disp) (staleReads s (.fork g a disp)) = some (ready, act))
    (hopen : (staleReads s (.fork g a disp)).core.closing = false)
    (hends : EndsIn (kept (.fork g a disp) (staleReads s (.fork g a disp))) u ready) :
    execFork g a disp s = .next (act (released u)) := by
  rw [execFork, slotOp_passes hpass]
  generalize staleReads s (.fork g a disp) = t at hact hopen hends ⊢
  obtain ⟨hslot, hact⟩ := Option.ite_none_right_eq_some.mp hact
  cases hact
  rw [if_neg (by simp [Option.ne_none_iff_isSome.mpr hslot]), keepArg_of_open hopen]
  exact postOp_of_endsIn hends

theorem execCtxsave_of_endsIn (hpass : slotPasses (.ctxsave g a) s = true)
    (hact : afterBundle (.ctxsave g a) (staleReads s (.ctxsave g a)) = some (ready, act))
    (hopen : (staleReads s (.ctxsave g a)).core.closing = false)
    (hends : EndsIn (kept (.ctxsave g a) (staleReads s (.ctxsave g a))) u ready) : execCtxsave g a s = .next (act (released u)) := by
  rw [execCtxsave, slotOp_passes hpass]
  generalize staleReads s (.ctxsave g a) = t at hact hopen hends ⊢
  obtain ⟨haligned, hact⟩ := Option.ite_none_right_eq_some.mp hact
  obtain ⟨hstop, hact⟩ := Option.ite_none_right_eq_some.mp hact
  cases hact
  dsimp only
  rw [keepArg_of_open hopen, if_neg (by simp [haligned])]
  exact stopOp_of_endsIn hstop hends

theorem execCtxload_of_endsIn (hpass : slotPasses (.ctxload g a) s = true)
    (hact : afterBundle (.ctxload g a) (staleReads s (.ctxload g a)) = some (ready, act))
    (hopen : (staleReads s (.ctxload g a)).core.closing = false)
    (hends : EndsIn (kept (.ctxload g a) (staleReads s (.ctxload g a))) u ready) : execCtxload g a s = .next (act (released u)) := by
  rw [execCtxload, slotOp_passes hpass]
  generalize staleReads s (.ctxload g a) = t at hact hopen hends ⊢
  obtain ⟨⟨haligned, hdone, hframe⟩, hact⟩ := Option.ite_none_right_eq_some.mp hact
  cases hact
  dsimp only [kept] at hdone hframe hends ⊢
  rw [keepArg_of_open hopen, if_neg (by simp [haligned]), if_neg (by simp [hdone, hframe])]
  exact postOp_of_endsIn hends

end

/-- Settles O18: each instruction through `postOp` or `stopOp`, on its operand as it was kept. -/
theorem afterTheBundle : Obligations.AfterTheBundle := by
  unfold Obligations.AfterTheBundle
  intro i s u ready act hpass hopen e hact hstays hcloses hready
  have hopen' : (staleReads s i).core.closing = false := (staleReads_closing s i).trans hopen
  have hends (hkept : (kept i (staleReads s i)).core.closing = false) : EndsIn (kept i (staleReads s i)) u ready :=
    ⟨hkept, hstays, hcloses, hready⟩
  cases i with
  | yield g =>
    obtain ⟨hstop, hact⟩ := Option.ite_none_right_eq_some.mp hact
    cases hact
    exact (slotOp_passes hpass _).trans (stopOp_of_endsIn hstop (hends hopen'))
  | suspend g =>
    obtain ⟨hstop, hact⟩ := Option.ite_none_right_eq_some.mp hact
    cases hact
    exact (slotOp_passes hpass _).trans (stopOp_of_endsIn hstop (hends hopen'))
  | trapOp | svc | idle =>
    cases hact
    exact (slotOp_passes hpass _).trans (postOp_of_endsIn (hends hopen'))
  | exitOp => exact execExitOp_of_endsIn hpass hact (hends hopen')
  | rftResume | rftYield | rftSuspend | rftFault | rftHold => exact rft_of_endsIn hpass hact (hends hopen')
  | fork => exact execFork_of_endsIn hpass hact hopen' (hends hopen')
  | ctxsave => exact execCtxsave_of_endsIn hpass hact hopen' (hends hopen')
  | ctxload => exact execCtxload_of_endsIn hpass hact hopen' (hends hopen')
  | _ => cases hact

/-! Privileged instructions that act at once (05 R177, 04 R122, 14 R435 R439). -/

/-- Settles O20: each instruction's body on the state after its reads, with the checks that its entry names passed. -/
theorem privilegedEffects : Obligations.PrivilegedEffects := by
  unfold Obligations.PrivilegedEffects
  intro i s g a b hpass t
  have hbody : ∀ body, slotOp i s body = body t := slotOp_passes hpass
  clear_value t
  refine ⟨?page, ?all, ?wbinv, ?inv, ?wbpage, ?hackset, ?dirtyclr, ?quarantine, ?pswap⟩
  case page =>
    rintro sc rfl
    exact hbody fun s => shoot sc.val (some (s.x a).toNat) s
  case all =>
    rintro sc rfl
    exact hbody fun s => shoot sc.val none s
  case wbinv =>
    rintro rfl
    exact hbody fun s => .next s.releaseL1
  case inv =>
    rintro rfl
    exact hbody fun s => .next (discardL1 s)
  case wbpage =>
    rintro l u rfl hplace page
    rw [show exec (.cinvWbpage g a) s = execCinvWbpage g a s from rfl, execCinvWbpage, hbody, hplace]
  case hackset =>
    rintro v c rfl hcfg hrange hsite hinside
    rw [show exec (.hackset g a v) s = execHackset g a v s from rfl, execHackset, hbody, hcfg]
    exact if_neg (by simp [hrange, hsite, hinside])
  case dirtyclr =>
    rintro c rfl hcfg hbound harea
    rw [show exec (.dirtyclr g a b) s = execDirtyclr g a b s from rfl, execDirtyclr, hbody, hcfg]
    exact (if_neg (not_lt.mpr hbound)).trans (if_neg harea)
  case quarantine =>
    rintro rfl hrange hsite hunit
    rw [show exec (.quarantine g a) s = execQuarantine g a s from rfl, execQuarantine, hbody]
    exact (if_neg (by simp [hrange])).trans (if_neg (by simp [hsite, hunit]))
  case pswap =>
    rintro pa pb ca cb rfl ha hb hca hcb hpartners hresident hready
    rw [show exec (.pswap g a b) s = execPswap g a b s from rfl, execPswap, hbody]
    have hlt : (t.x a).toNat < 8 ∧ (t.x b).toNat < 8 := ⟨ha ▸ pa.isLt, hb ▸ pb.isLt⟩
    refine (dif_pos hlt).trans ?_
    simp only [ha, hb, hca, hcb]
    rw [if_pos (by simp [hpartners, hresident, hready])]

/-! The loops that a taken transfer leaves (05 R180). -/

/-- A loop's range holds an address. -/
def loopHolds (r : StrandRegs) (t : Word) (k : Nat) : Prop := (loopBounds r k).1 ≤ t ∧ t ≤ (loopBounds r k).2

theorem mem_activeLoops_lt {lact : Word} {k : Nat} (h : k ∈ activeLoops lact) : k < 4 := by
  unfold activeLoops at h
  split at h
  · cases h
  · obtain ⟨i, _, rfl⟩ := List.mem_map.mp h
    exact Nat.mod_lt _ (by decide)

theorem activeLoops_length_le (lact : Word) : (activeLoops lact).length ≤ 4 := by
  unfold activeLoops
  split
  · exact Nat.zero_le 4
  · rw [List.length_map, List.length_range]
    exact Nat.succ_le_of_lt (Nat.mod_lt _ (by decide))

/-- LACT lists up to three different loops as it was given them. -/
theorem activeLoops_lactOf {ks : List Nat} (hlen : ks.length ≤ 3) (hlt : ∀ k ∈ ks, k < 4) (hnodup : ks.Nodup) :
    activeLoops (lactOf ks) = ks := by
  have hsmall : ∀ a b c : Fin 4, activeLoops (lactOf [a.val]) = [a.val] ∧
      (a ≠ b → activeLoops (lactOf [a.val, b.val]) = [a.val, b.val]) ∧
      (a ≠ b → a ≠ c → b ≠ c → activeLoops (lactOf [a.val, b.val, c.val]) = [a.val, b.val, c.val]) := by decide
  match ks, hlen with
  | [], _ => decide
  | [a], _ => exact (hsmall ⟨a, hlt a (by simp)⟩ 0 0).1
  | [a, b], _ =>
    refine (hsmall ⟨a, hlt a (by simp)⟩ ⟨b, hlt b (by simp)⟩ 0).2.1 fun e => ?_
    exact (show ¬a = b by simpa using hnodup) (Fin.ext_iff.mp e)
  | [a, b, c], _ =>
    have hne : (a ≠ b ∧ a ≠ c) ∧ b ≠ c := by simpa using hnodup
    exact (hsmall ⟨a, hlt a (by simp)⟩ ⟨b, hlt b (by simp)⟩ ⟨c, hlt c (by simp)⟩).2.2 (fun e => hne.1.1 (Fin.ext_iff.mp e))
      (fun e => hne.1.2 (Fin.ext_iff.mp e)) fun e => hne.2 (Fin.ext_iff.mp e)

/-- A transfer changes nothing but LACT. -/
theorem leaveLoops_regs (t : Word) (s : State) : (leaveLoops t s).core.r =
    { s.core.r with sr := { s.core.r.sr with lact := (leaveLoops t s).core.r.sr.lact } } := by
  unfold leaveLoops
  simp only [modSr_core]
  split <;> rfl

/-- The last entry of a list that a test picks, with its place. -/
theorem getLast?_filter_zipIdx {α : Type} (p : α → Bool) (ks : List α) :
    (∃ x, (ks.zipIdx.filter fun x => p x.1).getLast? = some x ∧ ks[x.2]? = some x.1 ∧ p x.1 = true ∧
      ∀ (j : Nat) m, x.2 < j → ks[j]? = some m → p m = false) ∨
    ((ks.zipIdx.filter fun x => p x.1).getLast? = none ∧ ∀ (j : Nat) m, ks[j]? = some m → p m = false) := by
  induction ks using List.reverseRecOn with
  | nil => exact .inr ⟨rfl, fun _ _ h => nomatch h⟩
  | append_singleton ks k ih =>
    have hat : ∀ {j : Nat} {m}, (ks ++ [k])[j]? = some m → ks[j]? = some m ∨ (j = ks.length ∧ m = k) := by
      intro j m h
      rcases Nat.lt_or_ge j ks.length with hj | hj
      · exact .inl ((List.getElem?_append_left hj).symm.trans h)
      · rw [List.getElem?_append_right hj] at h
        obtain ⟨h0, hm⟩ := List.getElem?_singleton.symm.trans h |> Option.ite_none_right_eq_some.mp
        exact .inr ⟨by omega, (Option.some.inj hm).symm⟩
    rw [List.zipIdx_append, List.filter_append]
    by_cases hk : p k = true
    · refine .inl ⟨(k, ks.length), by simp [hk], by simp, hk, fun j m hj h => ?_⟩
      rcases hat h with h | ⟨hj', _⟩
      · exact absurd (List.getElem?_eq_some_iff.mp h).1 (by omega)
      · exact absurd hj' (Nat.ne_of_gt hj)
    · have hk' : p k = false := by simpa using hk
      simp only [List.zipIdx_singleton, List.filter_cons, hk', List.filter_nil, List.append_nil, Bool.false_eq_true, if_false]
      rcases ih with ⟨x, hx, hkx, hp, hrest⟩ | ⟨hnone, hrest⟩
      · refine .inl ⟨x, hx, ?_, hp, fun j m hj h => ?_⟩
        · rw [List.getElem?_append_left (List.getElem?_eq_some_iff.mp hkx).1, hkx]
        · rcases hat h with h | ⟨_, rfl⟩
          · exact hrest j m hj h
          · exact hk'
      · refine .inr ⟨hnone, fun j m h => ?_⟩
        rcases hat h with h | ⟨_, rfl⟩
        · exact hrest j m h
        · exact hk'

/-- The loops that stay active are those outside the outermost one whose range does not hold the target. -/
theorem activeLoops_leaveLoops (t : Word) (s : State) (hnodup : (activeLoops s.core.r.sr.lact).Nodup) :
    ∃ n, activeLoops (leaveLoops t s).core.r.sr.lact = (activeLoops s.core.r.sr.lact).drop n ∧
      ∀ i, i < (activeLoops s.core.r.sr.lact).length → (n ≤ i ↔
        ∀ j m, i ≤ j → (activeLoops s.core.r.sr.lact)[j]? = some m → loopHolds s.core.r.sr t m) := by
  have hout : ∀ k, (decide (t < (loopBounds s.core.r.sr k).1) || decide ((loopBounds s.core.r.sr k).2 < t)) = false ↔
      loopHolds s.core.r.sr t k := by
    intro k
    simp [loopHolds]
  unfold leaveLoops
  simp only [modSr_core]
  rcases getLast?_filter_zipIdx (fun k => decide (t < (loopBounds s.core.r.sr k).1) || decide ((loopBounds s.core.r.sr k).2 < t))
    (activeLoops s.core.r.sr.lact) with ⟨x, hx, hkx, hp, hrest⟩ | ⟨hnone, hrest⟩
  · have hlt := (List.getElem?_eq_some_iff.mp hkx).1
    have hlen := activeLoops_length_le s.core.r.sr.lact
    refine ⟨x.2 + 1, ?_, fun i hi => ⟨fun hn j m hj hm => (hout m).mp (hrest j m (by omega) hm), fun hall => ?_⟩⟩
    · rw [hx]
      exact activeLoops_lactOf (by rw [List.length_drop]; omega) (fun k hk => mem_activeLoops_lt (List.mem_of_mem_drop hk))
        (hnodup.sublist (List.drop_sublist _ _))
    · by_contra hn
      exact absurd ((hout x.1).mpr (hall x.2 x.1 (by omega) hkx)) (by rw [hp]; decide)
  · refine ⟨0, by rw [hnone]; rfl, fun i hi => ⟨fun _ j m _ hm => (hout m).mp (hrest j m hm), fun _ => Nat.zero_le i⟩⟩

theorem mem_drop_iff_of_nodup {ks : List Nat} (hnodup : ks.Nodup) {i k n : Nat} (hi : ks[i]? = some k) : k ∈ ks.drop n ↔ n ≤ i := by
  have hlt := (List.getElem?_eq_some_iff.mp hi).1
  rw [List.mem_iff_getElem?]
  constructor
  · rintro ⟨j, hj⟩
    rw [List.getElem?_drop] at hj
    have := (List.getElem?_inj hlt hnodup).mp (hi.trans hj.symm)
    omega
  · intro hn
    exact ⟨i - n, by rw [List.getElem?_drop, Nat.add_sub_cancel' hn, hi]⟩

/-- Settles O60: the loops that stay active are those outside the outermost loop that is left. -/
theorem loopsLeft : Obligations.LoopsLeft := by
  unfold Obligations.LoopsLeft
  refine ⟨fun s t htarget => ?_, ?_⟩
  · unfold nextPc
    rw [htarget]
    exact ⟨rfl, _, rfl, fun hsettle => by rw [hsettle]; rfl⟩
  · rintro s t ks rfl hnodup holds after
    obtain ⟨n, hdrop, hstay⟩ := activeLoops_leaveLoops t s hnodup
    refine ⟨⟨n, hdrop⟩, fun i k hi => ?_, leaveLoops_regs t s⟩
    have hlt := (List.getElem?_eq_some_iff.mp hi).1
    have hmem : k ∈ after ↔ n ≤ i := by rw [show after = _ from hdrop, mem_drop_iff_of_nodup hnodup hi]
    exact hmem.trans (hstay i hlt)

end Sys2Proof.Proofs

/-! PROOF. Precise traps and the return from them (05 R152 R154, 14 R424 R425). -/

namespace Sys2Proof.Proofs

open Sys2Proof.Machine Sys2Proof.Laws

/-! What a discarded window gives back (05 R152). -/

/-- `u` differs from `s` in credits, rings and the device, if at all. -/
def Released (s u : State) : Prop := ∃ credits rings dev,
  u = { s with core := { s.core with credits := credits, rings := rings }, dev := dev }

namespace Released

theorem refl (s : State) : Released s s := ⟨_, _, _, rfl⟩

theorem trans {s t u : State} (h : Released s t) (h' : Released t u) : Released s u := by
  obtain ⟨_, _, _, rfl⟩ := h
  obtain ⟨_, _, _, rfl⟩ := h'
  exact ⟨_, _, _, rfl⟩

theorem modPipe (s : State) (p pipe : Nat) (f : Pipeline → Pipeline) : Released s (s.modPipe p pipe f) := by
  unfold State.modPipe
  split
  · exact refl s
  · exact ⟨_, _, _, rfl⟩

theorem unlessReplay {s t : State} (h : Released s t) : Released s (if s.core.replay.isSome then s else t) := ite_both (refl s) h

theorem releaseHeld (x : Held) (s : State) : Released s (releaseHeld x s) := by
  unfold Machine.releaseHeld
  cases x with
  | push | claim => exact unlessReplay (modPipe s ..)
  | send | receive => exact unlessReplay ⟨_, _, _, rfl⟩
  | _ => exact refl s

theorem releaseAll (xs : List Held) (s : State) : Released s (xs.foldr Machine.releaseHeld s) := by
  induction xs with
  | nil => exact refl s
  | cons x xs ih => exact ih.trans (releaseHeld x _)

end Released

/-- `u` differs from `s` in the engines, the log's registers, the supervisor's and the device, if at all. -/
def Restored (s u : State) : Prop := ∃ eng log sup dev,
  u = { s with core := { s.core with eng := eng, log := log, sup := sup }, dev := dev }

namespace Restored

theorem refl (s : State) : Restored s s := ⟨_, _, _, _, rfl⟩

theorem trans {s t u : State} (h : Restored s t) (h' : Restored t u) : Restored s u := by
  obtain ⟨_, _, _, _, rfl⟩ := h
  obtain ⟨_, _, _, _, rfl⟩ := h'
  exact ⟨_, _, _, _, rfl⟩

theorem modEng (s : State) (f : Engines → Engines) : Restored s (s.modEng f) := ⟨_, _, _, _, rfl⟩
theorem modLog (s : State) (f : LogRegs → LogRegs) : Restored s (s.modLog f) := ⟨_, _, _, _, rfl⟩
theorem modSup (s : State) (f : SupRegs → SupRegs) : Restored s (s.modSup f) := ⟨_, _, _, _, rfl⟩
theorem modDie (s : State) (d : Nat) (f : Die → Die) : Restored s (s.modDie d f) := ⟨_, _, _, _, rfl⟩

theorem ite {s t u : State} {c : Prop} [Decidable c] (h : c → Restored s t) (h' : ¬c → Restored s u) :
    Restored s (if c then t else u) := by
  by_cases hc : c
  · rw [if_pos hc]
    exact h hc
  · rw [if_neg hc]
    exact h' hc

/-- A write of a state register of the engines or of the log above LOGTAIL. -/
theorem writeEngine {n : Nat} (hn : 0x210 ≤ n) (v : Word) (s : State) : Restored s (writeEngine n v s) := by
  have eng : ∀ f, Restored s (s.modEng f) := modEng s
  have log : ∀ f, Restored s (s.modLog f) := modLog s
  have same := refl s
  unfold Machine.writeEngine
  refine ite (fun _ => ite (fun _ => eng _) fun _ => same) fun _ => ?_
  iterate 3 refine ite (fun h => absurd h (by omega)) fun _ => ?_
  iterate 4 refine ite (fun _ => ite (fun _ => log _) fun _ => same) fun _ => ?_
  iterate 3 refine ite (fun _ => eng _) fun _ => ?_
  iterate 4 refine ite (fun _ => ite (fun _ => eng _) fun _ => same) fun _ => ?_
  exact same

/-- A write of a supervisor or service register below those that answer a service call, but for HACKM. -/
theorem writeSystem {n : Nat} (hn : n < 0x394) (h0 : n ≠ 0x380) (h1 : n ≠ 0x381) (v : Word) (s : State) :
    Restored s (writeSystem n v s) := by
  have sup : ∀ f, Restored s (s.modSup f) := modSup s
  have die : ∀ d f, Restored s (s.modDie d f) := modDie s
  have same := refl s
  unfold Machine.writeSystem
  iterate 2 refine ite (fun _ => sup _) fun _ => ?_
  iterate 4 refine ite (fun _ => ite (fun _ => sup _) fun _ => same) fun _ => ?_
  iterate 5 refine ite (fun _ => sup _) fun _ => ?_
  refine ite (fun h => absurd h h0) fun _ => ite (fun h => absurd h h1) fun _ => ?_
  iterate 7 refine ite (fun _ => die _ _) fun _ => ?_
  exact ite (fun h => absurd h (by omega)) fun _ => same

theorem restoreState (n : Nat) (v : Word) (s : State) : Restored s (restoreState n v s) := by
  unfold Machine.restoreState
  split_ifs with _ _ _ _ _ _ _ hengine _ hsystem
  · exact modEng s _
  · exact modLog s _
  · exact modLog s _
  · exact modLog s _
  · exact modEng s _
  · exact modEng s _
  · exact modEng s _
  · exact writeEngine hengine.1 v s
  · exact modDie s _ _
  · obtain ⟨_, hlt, h0, h1⟩ := hsystem
    exact writeSystem hlt h0 h1 v s
  · exact refl s

theorem restoreAll (xs : List (Nat × Word)) (s : State) : Restored s (xs.foldl (fun s x => Machine.restoreState x.1 x.2 s) s) := by
  induction xs generalizing s with
  | nil => exact refl s
  | cons x xs ih => exact (restoreState x.1 x.2 s).trans (ih _)

end Restored

theorem undoWindow_eq (s : State) : ∃ eng log sup wake dev,
    undoWindow s = { s with core := { s.core with eng := eng, log := log, sup := sup, wake := wake }, dev := dev } ∧
      (s.core.win.undo = [] → sup = { s.core.sup with trootNext := none }) := by
  obtain ⟨eng, log, sup, dev, h⟩ := Restored.restoreAll s.core.win.undo s
  refine ⟨eng, { log with nextBase := none, nextSize := none, nextMode := none }, { sup with trootNext := none },
    s.core.wake.filter fun w => !s.core.win.wakes.contains w.1, dev, ?_, fun hundo => ?_⟩
  · unfold undoWindow
    rw [h]
    rfl
  · rw [hundo] at h
    have hsup : s.core.sup = sup := congrArg (fun u : State => u.core.sup) h
    rw [hsup]

/-- What a rollback leaves: the boundary's registers, an empty window, and of the core all that no window holds. A window that wrote no
state register leaves the supervisor's as they were, but for a TROOT that waits. -/
structure RolledBack (s v : State) : Prop where
  regs : v.core.r = s.core.bnd
  land : v.core.land = []
  win : v.core.win = emptyWindow
  sup : s.core.win.undo = [] → v.core.sup = { s.core.sup with trootNext := none }
  mode : v.core.mode = s.core.mode
  wdcnt : v.core.wdcnt = s.core.wdcnt
  hack : v.core.hack = s.core.hack
  eqcnt : v.core.eqcnt = s.core.eqcnt
  cir : v.core.cir = s.core.cir
  tlb : v.core.tlb = s.core.tlb
  mem : v.mem = s.mem
  tags : v.tags = s.tags

theorem rollback_rolledBack (s : State) : RolledBack s (rollback s) := by
  obtain ⟨_, _, _, hreleased⟩ := Released.releaseAll s.core.win.held s
  obtain ⟨_, _, _, _, _, hundone, hsup⟩ := undoWindow_eq (discardUncommitted (s.core.win.held.foldr releaseHeld s))
  unfold rollback
  dsimp only
  rw [hundone]
  rw [hreleased] at hsup ⊢
  exact ⟨rfl, rfl, rfl, hsup, rfl, rfl, rfl, rfl, rfl, rfl, rfl, rfl⟩

/-! Entering the handler and returning (14 R424 R425). -/

/-- A precise trap outside a transaction, with no handler busy, enters the handler at the boundary (05 R154, 14 R424). -/
theorem takeTrap_enters {cause : BitVec 8} {slot : Nat} {addr arg : Word} {s : State} (htx : s.core.openTx = none)
    (hmode : (rollback s).core.mode ≠ .service) (hbusy : (rollback s).core.mode = .supervisor → (rollback s).core.tbusy = false) :
    takeTrap cause slot addr arg s =
      enterTrap cause (rollback s).core.r.pc s.core.iss.pc slot (rollback s).core.r.sr.win addr arg (rollback s) := by
  unfold takeTrap deliverTrap
  rw [htx]
  dsimp only
  rw [if_neg hmode, if_neg fun h => by simp [hbusy h.1] at h]

/-- TSTATUS as a trap leaves it: TBUSY, the mode in PMODE, all else as before. -/
theorem trapped_tstatus (w : Word) (m : Mode) : let t := setBits (setBits w 1 2 m.code) 0 1 1
    bits t 0 1 = 1 ∧ bits t 1 2 = m.code ∧ bits t 3 61 = bits w 3 61 := by
  refine ⟨bits_setBits_same _ _ (by decide), ?_, ?_⟩
  · rw [bits_setBits_apart _ _ (by decide) (by decide), bits_setBits_same _ _ (by decide)]
    cases m <;> rfl
  · rw [bits_setBits_apart _ _ (by decide) (by decide), bits_setBits_apart _ _ (by decide) (by decide)]

/-- TSTATUS as RFT leaves it: TBUSY and TDISP clear, PMODE and the single-step bit as before. -/
theorem returned_tstatus (w : Word) : let t := setBits (setBits w 0 1 0) 4 3 0
    bits t 0 1 = 0 ∧ bits t 4 3 = 0 ∧ bits t 1 3 = bits w 1 3 := by
  refine ⟨?_, bits_setBits_same _ _ (by decide), ?_⟩
  · exact (bits_setBits_apart _ _ (by decide) (by decide)).trans (bits_setBits_same _ _ (by decide))
  · rw [bits_setBits_apart _ _ (by decide) (by decide), bits_setBits_apart _ _ (by decide) (by decide)]

/-- `u` differs from `s` in the engines, if at all. -/
def EnginesMoved (s u : State) : Prop := ∃ eng, u = { s with core := { s.core with eng := eng } }

namespace EnginesMoved

theorem refl (s : State) : EnginesMoved s s := ⟨_, rfl⟩

theorem trans {s t u : State} (h : EnginesMoved s t) (h' : EnginesMoved t u) : EnginesMoved s u := by
  obtain ⟨_, rfl⟩ := h
  obtain ⟨_, rfl⟩ := h'
  exact ⟨_, rfl⟩

theorem modEng (s : State) (f : Engines → Engines) : EnginesMoved s (s.modEng f) := ⟨_, rfl⟩

theorem foldl {α : Type} {f : State → α → State} (hf : ∀ s x, EnginesMoved s (f s x)) (xs : List α) (s : State) :
    EnginesMoved s (xs.foldl f s) := by
  induction xs generalizing s with
  | nil => exact refl s
  | cons x xs ih => exact (hf s x).trans (ih _)

/-- Commands that are issued again change nothing but the engines. -/
theorem reissue (cs : List (Nat × Cmd)) (s : State) : EnginesMoved s (reissue cs s) := by
  refine foldl (fun s c => ?_) cs s
  dsimp only
  split
  · exact (modEng s _).trans (modEng _ _)
  · exact (modEng s _).trans (modEng _ _)

end EnginesMoved

/-- The strand as RFT puts it back, its saved commands not yet issued again. -/
def returned (s : State) : State :=
  let c := s.core
  let r := { c.r.withLoops c.sup.tloop with pc := c.sup.tpc }
  let again := fun (q : Nat) (d : Cmd) => if d.started && !d.running && !d.faulted && s.progState q == 2 then { d with resume := true } else d
  { s with core := { c with
    mode := Mode.ofCode (bits c.sup.tstatus 1 2), r := r, bnd := r,
    sup := { c.sup with tstatus := setBits (setBits c.sup.tstatus 0 1 0) 4 3 0 },
    group := 0, written := [], iss := { c.iss with gone := true },
    eng := { c.eng with saved := [], queues := c.eng.queues.mapFinIdx fun q l _ => l.map (again q) } } }

theorem resumeStrand_moves (s : State) : EnginesMoved (returned s) (resumeStrand s) := EnginesMoved.reissue _ (returned s)

/-- Settles O57: a trap through what its rollback leaves, RFT through the registers that it takes from the supervisor's. -/
theorem trapEntryAndReturn : Obligations.TrapEntryAndReturn := by
  unfold Obligations.TrapEntryAndReturn
  refine ⟨?entry, ?exit⟩
  case entry =>
    intro cause slot addr arg s b v t htx hmode hbusy
    obtain ⟨hregs, hland, hwin, hsup, hm, hwdcnt, hhack, heqcnt, hcir, htlb, hmem, htags⟩ := rollback_rolledBack s
    have ht : t = _ := takeTrap_enters htx (hm.trans_ne hmode) fun h => hbusy (hm.symm.trans h)
    obtain ⟨hb, hp, hrest⟩ := trapped_tstatus v.core.sup.tstatus v.core.mode
    rw [ht]
    refine ⟨hregs, hsup, ?_, rfl, rfl, ?_, hb, ?_, hrest, hland, hwin, hwdcnt, hhack, heqcnt, hcir, htlb, hmem, htags⟩
    · simp only [enterTrap, hregs]
      rfl
    · simp only [enterTrap, hregs]
      rfl
    · exact hp.trans (congrArg Mode.code hm)
  case exit =>
    intro s l t
    obtain ⟨hbusy, hdisp, hrest⟩ := returned_tstatus s.core.sup.tstatus
    obtain ⟨eng, ht⟩ : EnginesMoved (returned s) t := resumeStrand_moves s
    rw [ht]
    refine ⟨rfl, rfl, rfl, fun k => ⟨?_, ?_, ?_⟩, rfl, hbusy, hdisp, hrest, rfl, rfl, rfl, rfl, rfl, rfl, rfl⟩ <;>
      exact Vector.getElem_ofFn k.isLt

end Sys2Proof.Proofs

/-! PROOF. Register writes that are steps, and the trace sample (05 R149, 12 R353 R354 R377, 14 R423 R434). -/

namespace Sys2Proof.Proofs

open Sys2Proof.Machine Sys2Proof.Laws

/-! The cores by number. -/

/-- A listed value reads back at its key and nowhere else, whatever the order of the map. -/
theorem sget_sset_of_ne {α : Type} [DecidableEq α] (m : SMap α) {d v : α} (d' : α) (k j : Nat) (hv : v ≠ d) :
    sget (sset m d k v) d' j = if j = k then v else sget m d' j := by
  induction m with
  | nil =>
    simp only [sset, if_neg hv, sget]
    exact ite_congr (propext eq_comm) (fun _ => rfl) fun _ => rfl
  | cons e m ih =>
    simp only [sset, if_neg hv]
    by_cases hlt : k < e.1
    · rw [if_pos hlt, sget]
      exact ite_congr (propext eq_comm) (fun _ => rfl) fun _ => rfl
    · rw [if_neg hlt]
      by_cases heq : k = e.1
      · rw [if_pos heq]
        simp only [sget, ← heq]
        by_cases hj : j = k
        · rw [if_pos hj.symm, if_pos hj]
        · rw [if_neg (Ne.symm hj), if_neg hj, if_neg (Ne.symm hj)]
      · rw [if_neg heq]
        simp only [sget, ih]
        by_cases hj : e.1 = j
        · rw [if_pos hj, if_pos hj, if_neg fun h => heq (h.symm.trans hj.symm)]
        · rw [if_neg hj, if_neg hj]

/-- A change that keeps the core's number and leaves no core as after reset is seen at that number only. -/
theorem coreAt_modCoreAt (s : State) (k n : Nat) {f : Core → Core} (hid : ∀ c, (f c).id = c.id) (hlive : ∀ c, f c ≠ resetCore k) :
    (s.modCoreAt k f).coreAt n = if n = k then f (s.coreAt k) else s.coreAt n := by
  unfold State.modCoreAt State.setCoreAt
  by_cases hk : k = s.core.id
  · subst hk
    by_cases hn : n = s.core.id <;> simp [State.coreAt, hid, hn]
  · rw [if_neg hk]
    by_cases hn : n = s.core.id
    · rw [if_neg fun h => hk (h.symm.trans hn)]
      simp [State.coreAt, hn]
    · simp only [State.coreAt, if_neg hn, sget_sset_of_ne s.others _ _ _ (hlive _)]

@[simp] theorem modCoreAt_dev (s : State) (k : Nat) (f : Core → Core) : (s.modCoreAt k f).dev = s.dev := by
  unfold State.modCoreAt State.setCoreAt
  split <;> rfl

@[simp] theorem modCoreAt_mem (s : State) (k : Nat) (f : Core → Core) : (s.modCoreAt k f).mem = s.mem := by
  unfold State.modCoreAt State.setCoreAt
  split <;> rfl

theorem modCoreAt_id (s : State) (k : Nat) {f : Core → Core} (hid : ∀ c, (f c).id = c.id) : (s.modCoreAt k f).core.id = s.core.id := by
  unfold State.modCoreAt State.setCoreAt
  by_cases hk : k = s.core.id
  · simp [hk, hid]
  · rw [if_neg hk]

/-- A die of the package reads as it was changed. -/
theorem die_modDie (s : State) {d : Nat} (f : Die → Die) (hd : d < 4) : (s.modDie d f).die d = f (s.die d) := by
  simp [State.die, State.modDie, List.getD_eq_getElem?_getD, hd]

theorem coreAt_modDie (s : State) (d n : Nat) (f : Die → Die) : (s.modDie d f).coreAt n = s.coreAt n := rfl

/-! The service registers (14 R434). -/

/-- A core whose request was answered with `v`. -/
def answered (v : Word) (c : Core) : Core :=
  { c with svc := none, r := { c.r with x := vset c.r.x 1 v, xv := setBit c.r.xv 1 true },
           bnd := { c.bnd with x := vset c.bnd.x 1 v, xv := setBit c.bnd.xv 1 true } }

theorem answered_xv (v : Word) (c : Core) : (answered v c).r.xv.getLsbD 1 = true :=
  (getLsbD_setBit _ 1 true (by decide)).trans (if_pos rfl)

theorem answered_bnd_xv (v : Word) (c : Core) : (answered v c).bnd.xv.getLsbD 1 = true :=
  (getLsbD_setBit _ 1 true (by decide)).trans (if_pos rfl)

/-- No core is as after reset once its request was answered: reset leaves x1 invalid. -/
theorem answered_ne_reset (v : Word) (c : Core) (k : Nat) : answered v c ≠ resetCore k := fun h => by
  have hreset : (resetCore k).r.xv.getLsbD 1 = false := by
    simp only [resetCore]
    decide
  exact Bool.false_ne_true (hreset.symm.trans (h ▸ answered_xv v c))

theorem writeSvcres_none {v : Word} {s : State} (h : (s.die (dieOf s.core.id)).svcSite = none) : writeSvcres v s = s := by
  unfold writeSvcres
  dsimp only
  rw [h]

theorem writeSvcres_some {v : Word} {s : State} {b : Nat} (h : (s.die (dieOf s.core.id)).svcSite = some b) :
    writeSvcres v s =
      let t := s.modCoreAt (coreOfSite (dieOf s.core.id) b) (answered v)
      t.modDie (dieOf s.core.id) fun e => { e with svcSite := t.nextSvc (dieOf s.core.id) } := by
  unfold writeSvcres
  dsimp only
  rw [h]
  rfl

theorem dieOf_lt (c : Nat) : dieOf c < 4 := Nat.mod_lt _ (by decide)

/-- A service request is answered: what the writes of SVCRES leave at the answered site, at the others and of the site presented. -/
theorem writeSvcres_answers {v : Word} {s : State} {b : Nat} (h : (s.die (dieOf s.core.id)).svcSite = some b) :
    let d := dieOf s.core.id
    let t := writeSvcres v s
    t.coreAt (coreOfSite d b) = answered v (s.coreAt (coreOfSite d b)) ∧ (∀ n, n ≠ coreOfSite d b → t.coreAt n = s.coreAt n) ∧
      (t.die d).svcSite = (List.range 72).find? (fun b => (t.coreAt (coreOfSite d b)).svc.isSome) ∧ t.mem = s.mem := by
  intro d t
  have ht : t = _ := writeSvcres_some h
  have hat := fun n => coreAt_modCoreAt s (coreOfSite d b) n (f := answered v) (fun _ => rfl) fun c => answered_ne_reset v c _
  rw [ht]
  refine ⟨(hat _).trans (if_pos rfl), fun n hn => (hat n).trans (if_neg hn), ?_, modCoreAt_mem ..⟩
  rw [die_modDie _ _ (dieOf_lt _)]
  rfl

/-- HACKM over a list of sites: HACK is set at the cores listed, and nothing else changes. -/
theorem foldl_hack (site : Nat → Nat) (is : List Nat) (s : State) :
    let t := is.foldl (fun s i => s.modCoreAt (coreOfSite (dieOf s.core.id) (site i)) fun c => { c with hack := true }) s
    t.mem = s.mem ∧ t.dev = s.dev ∧ ∀ n, t.coreAt n = { s.coreAt n with
      hack := (s.coreAt n).hack || is.any fun i => n == coreOfSite (dieOf s.core.id) (site i) } := by
  induction is generalizing s with
  | nil => exact ⟨rfl, rfl, fun n => by simp⟩
  | cons i is ih =>
    intro t
    let k := coreOfSite (dieOf s.core.id) (site i)
    obtain ⟨hmem, hdev, hcore⟩ := ih (s.modCoreAt k fun c => { c with hack := true })
    have hid : (s.modCoreAt k fun c => { c with hack := true }).core.id = s.core.id := modCoreAt_id s k fun _ => rfl
    refine ⟨hmem.trans (modCoreAt_mem ..), hdev.trans (modCoreAt_dev ..), fun n => ?_⟩
    have hlive (c : Core) : { c with hack := true } ≠ resetCore k := fun h => Bool.false_ne_true (congrArg Core.hack h).symm
    refine (hcore n).trans ?_
    rw [coreAt_modCoreAt s k n (f := fun c => { c with hack := true }) (fun _ => rfl) hlive, hid, List.any_cons]
    by_cases hn : n = k
    · subst hn
      simp [k]
    · have hother : (n == coreOfSite (dieOf s.core.id) (site i)) = false := beq_eq_false_iff_ne.mpr hn
      simp only [if_neg hn, hother, Bool.false_or]

theorem writeHackm_sets (k : Fin 2) (v : Word) (s : State) :
    let t := writeHackm k v s
    t.mem = s.mem ∧ t.dev = s.dev ∧ ∀ n, t.coreAt n = { s.coreAt n with
      hack := (s.coreAt n).hack || (List.range (if k = 0 then 64 else 8)).any fun i =>
        v.getLsbD i && n == coreOfSite (dieOf s.core.id) (64 * k.val + i) } := by
  intro t
  obtain ⟨hmem, hdev, hcore⟩ := foldl_hack (fun i => 64 * k.val + i) ((List.range (if k.val = 0 then 64 else 8)).filter fun i => bitAt v i) s
  refine ⟨hmem, hdev, fun n => (hcore n).trans ?_⟩
  simp only [List.any_filter, bitAt_eq_getLsbD, Fin.val_eq_zero_iff]

/-! The log's registers (12 R353 R354). -/

/-- `u` differs from `s` in LOGTAIL, HORIZON and the device, if at all. -/
def Dropped (s u : State) : Prop := ∃ tail horizon dev,
  u = { s with core := { s.core with log := { s.core.log with tail := tail, horizon := horizon } }, dev := dev }

namespace Dropped

theorem refl (s : State) : Dropped s s := ⟨_, _, _, rfl⟩

theorem trans {s t u : State} (h : Dropped s t) (h' : Dropped t u) : Dropped s u := by
  obtain ⟨_, _, _, rfl⟩ := h
  obtain ⟨_, _, _, rfl⟩ := h'
  exact ⟨_, _, _, rfl⟩

theorem noteEdge (s : State) (pc : Word) (quiet : Bool) : Dropped s (s.noteEdge pc quiet) := ⟨_, _, _, rfl⟩

theorem modLog (s : State) (tail horizon : LogRegs → Word) :
    Dropped s (s.modLog fun l => { l with tail := tail l, horizon := horizon l }) := ⟨_, _, _, rfl⟩

theorem dropEntry (s : State) : Dropped s s.dropEntry := by
  unfold State.dropEntry
  dsimp only
  refine trans ?_ (modLog _ (fun _ => _) (fun _ => _))
  exact ite_both (noteEdge s _ _) (ite_both (noteEdge s _ _) (refl s))

theorem dropTo (v fuel : Nat) (s : State) : Dropped s (dropTo v fuel s) := by
  induction fuel generalizing s with
  | zero => exact refl s
  | succ fuel ih => exact ite_both (refl s) ((dropEntry s).trans (ih _))

end Dropped

/-- LOGTAIL at the start of an entry is written, and STALLED is cleared. -/
theorem writeLogtail_of_start {v : Word} {s : State} (hmode : s.core.mode ≠ .strand)
    (hstart : logStart s v.toNat (s.core.log.cur.toNat / 16 + 1) s.core.log.tail.toNat = true) :
    let t := writeLogtail v s
    bits t.core.log.mode 6 1 = 0 ∧ t.mem = s.mem ∧ t.tags = s.tags ∧ t.core = { s.core with log := { s.core.log with
      tail := v, horizon := t.core.log.horizon, mode := setBits s.core.log.mode 6 1 0, fullPosted := false } } := by
  intro t
  obtain ⟨tail, horizon, dev, h⟩ := Dropped.dropTo v.toNat (s.core.log.cur.toNat / 16 + 1) s
  have ht : t = _ := (if_neg hmode).trans (if_pos hstart)
  rw [ht, h]
  exact ⟨bits_setBits_same _ _ (by decide), rfl, rfl, rfl⟩

/-- TROOT keeps bits 55 to 13 of the word written. -/
theorem kept_troot (v : Word) : let r := BitVec.ofNat 64 (bits v 13 43 * 2 ^ 13)
    bits r 13 43 = bits v 13 43 ∧ bits r 0 13 = 0 ∧ bits r 56 8 = 0 := by
  intro r
  have hlt : bits v 13 43 < 2 ^ 43 := Nat.mod_lt _ (by decide)
  have hr : r.toNat = bits v 13 43 * 2 ^ 13 := by
    rw [BitVec.toNat_ofNat]
    omega
  generalize bits v 13 43 = n at hlt hr ⊢
  simp only [bits, hr]
  omega

/-! The trace sample (12 R377). -/

theorem traceWrite_full {b : List Byte} {s : State}
    (h : (bits s.core.log.trctl 32 32 + 2 ^ 32 - bits s.core.log.trcons 0 32) % 2 ^ 32 = 2 ^ bits s.core.log.trctl 8 5) : traceWrite b s = s :=
  if_pos h

theorem traceRecord_open {kind : Nat} {pc last : Word} {s : State} (h : s.core.win.bundles ≠ 0) : traceRecord kind pc last s =
    s.modWin fun w => { w with held := w.held ++ [.trace (traceBytes kind pc last s)] } := if_neg h

theorem traceRecord_closed {kind : Nat} {pc last : Word} {s : State} (h : s.core.win.bundles = 0) : traceRecord kind pc last s =
    traceWrite (traceBytes kind pc last s) s := if_pos h

/-- Settles O42: one clause for each register, through what its write does. -/
theorem registerEvents : Obligations.RegisterEvents := by
  unfold Obligations.RegisterEvents
  intro v k s die l
  refine ⟨fun hmode => ⟨fun h => ?idle, fun b h => ?answer, ?hackm⟩, fun hmode => ?barred, rfl, fun hmode => ?strand,
    fun hmode => ?log, ?trace⟩
  case idle => exact (if_pos hmode).trans (congrArg _ (writeSvcres_none h))
  case answer =>
    obtain ⟨hsite, hothers, hnext, hmem⟩ := writeSvcres_answers (v := v) h
    refine ⟨writeSvcres v s, if_pos hmode, ?_, hothers, hnext, hmem⟩
    rw [hsite]
    exact ⟨rfl, (get_vset _ 1 v 1).trans (if_pos rfl), answered_xv v _, (get_vset _ 1 v 1).trans (if_pos rfl), answered_bnd_xv v _⟩
  case hackm => exact ⟨writeHackm k v s, if_pos hmode, writeHackm_sets k v s⟩
  case barred => exact ⟨if_neg hmode, if_neg hmode⟩
  case strand => exact ⟨congrArg _ (if_pos hmode), congrArg _ (if_pos hmode), if_pos hmode⟩
  case log =>
    refine ⟨⟨setBits v 0 12 0, ?_, ?_, ?_⟩, fun hlo hhi => ⟨BitVec.ofNat 64 (bits v 0 6), ?_, ?_⟩, fun hout => ?_, fun h => ?_, fun h => ?_,
      ⟨BitVec.ofNat 64 (bits v 13 43 * 2 ^ 13), ?_⟩⟩
    · exact bits_setBits_same v 0 (by decide)
    · exact bits_setBits_apart v 0 (by decide) (by decide)
    · exact congrArg _ ((if_neg hmode).trans (if_pos rfl))
    · rw [BitVec.toNat_ofNat]
      omega
    · exact congrArg _ ((if_neg hmode).trans ((if_neg (by decide)).trans (if_pos ⟨hlo, hhi⟩)))
    · exact congrArg _ ((if_neg hmode).trans ((if_neg (by decide)).trans (if_neg (by omega))))
    · exact congrArg _ ((if_neg hmode).trans (if_neg (ne_true_of_eq_false h)))
    · exact ⟨writeLogtail v s, rfl, writeLogtail_of_start hmode h⟩
    · obtain ⟨hkept, hlow, hhigh⟩ := kept_troot v
      exact ⟨hkept, hlow, hhigh, if_neg hmode⟩
  case trace =>
    intro period n prod u
    refine ⟨fun h => if_pos h, ?_⟩
    intro b hperiod hrun hdue
    have hacts : exec .traceSample s = .next (traceRecord 2 s.core.r.pc (BitVec.ofNat 64 s.clock) u) :=
      if_neg fun h => by
        obtain h | h | h := h
        · exact hperiod.ne' h
        · exact h hrun
        · exact absurd (show s.core.beat - s.core.samples < period from h) (by omega)
    rw [hacts]
    refine ⟨fun hopen => ?_, fun hclosed hfull => ?_, fun hclosed hroom => ?_⟩
    · rw [traceRecord_open (s := u) hopen]
      rfl
    · rw [traceRecord_closed (s := u) hclosed, traceWrite_full (s := u) hfull]
    · rw [traceRecord_closed (s := u) hclosed]
      exact congrArg _ (if_neg hroom)

end Sys2Proof.Proofs

/-! PROOF. Every outcome is a next state: the shapes that meanings are built from, and the instructions of the slots
(02 R42, 14 R424). -/

namespace Sys2Proof.Proofs

open Sys2Proof.Machine Sys2Proof.Laws Sys2Proof.Safety

/-- The outcome is a next state. -/
def Goes (e : Ends) : Prop := ∃ u, e = .next u

namespace Goes

theorem next (s : State) : Goes (.next s) := ⟨s, rfl⟩

theorem ite {c : Prop} [Decidable c] {x y : Ends} (hx : Goes x) (hy : Goes y) : Goes (if c then x else y) := ite_both hx hy

theorem slot {i : Instr} {s : State} {body : State → Ends} (h : ∀ t, Goes (body t)) : Goes (slotOp i s body) := slotOp_next h

theorem out {α : Type} {kind : AKind} {a : Act α} {f : α → State → Ends} (h : ∀ v t, Goes (f v t)) : Goes (a.out kind f) := actOut_next h

theorem post (i : Instr) (ready : State → Bool) (effect : State → State) (s : State) : Goes (postOp i ready effect s) := postOp_next ..

theorem stop (i : Instr) (effect : State → State) (s : State) : Goes (stopOp i effect s) := stopOp_next ..

theorem input {sub : Nat} {s : State} {live : State → Ends} {given : List Byte → State → Ends} (hlive : ∀ t, Goes (live t))
    (hgiven : ∀ d t, Goes (given d t)) : Goes (withInput sub s live given) := by
  unfold withInput
  cases s.input sub with
  | live => exact hlive s
  | given d => exact hgiven d _
  | diverged => exact next _

theorem load {va : Word} {a : State → Act (List Byte)} {s : State} {f : List Byte → State → Ends} (h : ∀ bs t, Goes (f bs t)) :
    Goes (loadOut va a s f) := by
  unfold loadOut
  refine ite ?_ (ite (input (fun _ => out fun _ _ => h _ _) fun _ _ => h _ _) (out h))
  cases txGiven s with
  | some bs => exact out fun _ _ => h _ _
  | none => exact out fun _ _ => h _ _

theorem tile {b : Fin 64} {disp : Fin 4096} {s : State} {f : Fin 64 → Tile → Ends} (h : ∀ i t, Goes (f i t)) : Goes (withTile b disp s f) := by
  unfold withTile
  dsimp only
  split
  · exact h _ _
  · exact next _

/-! The shapes of the A slot (05 R164 to R171). -/

theorem alu2 {lat i d a b f s} : Goes (alu2 lat i d a b f s) := slot fun _ => next _
theorem alu1 {lat i d a f s} : Goes (alu1 lat i d a f s) := slot fun _ => next _
theorem divide {i d a b f s} : Goes (divide i d a b f s) := slot fun _ => next _
theorem compare {i d a b f s} : Goes (compare i d a b f s) := slot fun _ => next _
theorem compareImm {i d a f s} : Goes (compareImm i d a f s) := slot fun _ => next _
theorem plogic {i d a b f s} : Goes (plogic i d a b f s) := slot fun _ => next _

/-! Loads, stores and atomics (06 R188 to R200). -/

theorem loadScalar {i n ext d b disp s} : Goes (loadScalar i n ext d b disp s) := by
  refine slot fun t => ?_
  dsimp only
  split
  · exact ite (next _) (load fun _ _ => next _)
  · exact load fun _ _ => next _

theorem ldtag {g d b disp s} : Goes (execLdtag g d b disp s) := by
  refine slot fun t => ?_
  dsimp only
  split
  · exact ite (next _) (load fun _ _ => next _)
  · exact load fun _ _ => next _

theorem storeScalar {i n d b disp s} : Goes (storeScalar i n d b disp s) := slot fun _ => out fun _ _ => next _

theorem sttag {g d b disp s} : Goes (execSttag g d b disp s) := by
  refine slot fun t => out fun l u => ?_
  cases l <;> exact next _

theorem loadLine {base m ps s} : Goes (loadLine base m ps s) := load fun _ _ => next _

theorem storeLine {base m ps s} : Goes (storeLine base m ps s) := out fun _ _ => next _

theorem atomic {i n d b disp f s} : Goes (atomic i n d b disp f s) := by
  refine slot fun t => ite (next _) (out fun l u => ?_)
  dsimp only
  split
  · exact next _
  · refine ite (next _) ?_
    split
    · exact next _
    · refine ite (next _) ?_
      split <;> exact next _

theorem atomic64 {i d b disp f s} : Goes (atomic64 i d b disp f s) := by
  unfold Machine.atomic64
  exact atomic

/-! Fences, barriers, queues, rings, tiles and transactions (06 R201 to R215, 12 R382). -/

theorem promote {g sc b disp s} : Goes (execPromote g sc b disp s) := by
  refine slot fun t => ite (next _) ?_
  split
  · exact next _
  · exact out fun _ _ => next _
  · exact next _

theorem prefetch {g l2 b disp s} : Goes (execPrefetch g l2 b disp s) := by
  refine slot fun t => ?_
  dsimp only
  split
  · refine ite (next _) ?_
    split <;> exact next _
  · exact next _

theorem cflush {i kind b disp s} : Goes (cflush i kind b disp s) := by
  refine slot fun t => out fun ls u => ?_
  cases ls <;> exact next _

theorem barinit {g d b disp s} : Goes (execBarinit g d b disp s) := slot fun _ => ite (next _) (next _)

theorem bararr {g d b disp s} : Goes (execBararr g d b disp s) :=
  slot fun _ => ite (next _) (input (fun _ => ite (next _) (next _)) fun _ _ => next _)

theorem barwait {g d b disp s} : Goes (execBarwait g d b disp s) := slot fun _ => ite (next _) (ite (next _) (next _))

theorem qpush {g q b s} : Goes (execQpush g q b s) := by
  refine slot fun t => ?_
  split
  · exact next _
  · refine out fun r u => ite (next _) (ite (next _) ?_)
    split <;> exact next _

theorem pop {i block d q b s} : Goes (pop i block d q b s) := by
  refine slot fun t => ?_
  split
  · exact next _
  · dsimp only
    split
    · exact next _
    · refine input (fun u => ?_) fun _ _ => ite (next _) (out fun _ _ => next _)
      split
      · exact out fun _ _ => next _
      · exact ite (next _) (ite (next _) (ite (next _) (next _)))

theorem rsend {g d k b s} : Goes (execRsend g d k b s) := by
  refine slot fun t => ?_
  dsimp only
  split
  · exact next _
  · refine ite (next _) ?_
    split
    · exact next _
    · exact ite (next _) (out fun _ _ => ite (next _) (ite (next _) (next _)))

theorem rrecv {g d k b s} : Goes (execRrecv g d k b s) := by
  refine slot fun t => ?_
  dsimp only
  split
  · exact next _
  · split
    · exact next _
    · exact input (fun _ => ite (next _) (out fun _ _ => next _)) fun _ _ => out fun _ _ => next _

theorem ttdef {g d b disp s} : Goes (execTtdef g d b disp s) := slot fun _ => tile fun _ _ => ite (next _) (ite (next _) (next _))

theorem releaseTile {i b disp s} : Goes (releaseTile i b disp s) := by
  refine slot fun t => tile fun k v => ?_
  cases releaseFault v <;> exact next _

theorem ttsetReady {g b disp s} : Goes (execTtsetReady g b disp s) := slot fun _ => tile fun _ _ => ite (next _) (ite (next _) (next _))

theorem ttstat {g d b disp s} : Goes (execTtstat g d b disp s) := slot fun _ => tile fun _ _ => next _

theorem txbegin {g k sc s} : Goes (execTxbegin g k sc s) := slot fun _ => ite (next _) (next _)

theorem txend {g s} : Goes (execTxend g s) := by
  refine slot fun t => ?_
  cases t.core.tx with
  | none => exact next _
  | some => exact ite (next _) (next _)

theorem txabort {g c s} : Goes (execTxabort g c s) := slot fun _ => ite (next _) (next _)

/-! Transfers and what acts after the bundle (05 R178 to R186). -/

theorem transfer {w settle s} : Goes (transfer w settle s) := ite (next _) (next _)

theorem callTo {w s} : Goes (callTo w s) := ite (next _) (next _)

theorem tree {shape t1 t2 t3 t4 l1 l2 l3 l4 l5 s} : Goes (execTree shape t1 t2 t3 t4 l1 l2 l3 l4 l5 s) :=
  slot fun _ => ite (next _) (ite (next _) (ite (next _) (ite (next _) transfer)))

theorem loopOp {g n k len s} : Goes (execLoopOp g n k len s) :=
  slot fun _ => ite (next _) (ite (next _) (ite transfer (next _)))

theorem fork {g a disp s} : Goes (execFork g a disp s) := slot fun _ => ite (next _) (post ..)

theorem exitOp {g s} : Goes (execExitOp g s) := slot fun _ => ite (next _) (post ..)

theorem rft {i s} : Goes (rft i s) := slot fun _ => ite (next _) (ite (post ..) (stop ..))

theorem waitMem {g a b s} : Goes (execWaitMem g a b s) := slot fun _ => load fun _ _ => ite (next _) (next _)

theorem waitEng {g mask s} : Goes (execWaitEng g mask s) := slot fun _ => ite (next _) (next _)

/-! Privileged instructions (05 R177, 14 R424 R435). -/

theorem cinvWbpage {g a s} : Goes (execCinvWbpage g a s) := by
  refine slot fun t => ?_
  split <;> exact next _

theorem ctxsave {g a s} : Goes (execCtxsave g a s) := slot fun _ => ite (next _) (stop ..)

theorem ctxload {g a s} : Goes (execCtxload g a s) := slot fun _ => ite (next _) (ite (next _) (post ..))

theorem pswap {g a b s} : Goes (execPswap g a b s) := by
  refine slot fun t => ?_
  dsimp only
  split
  · split
    · exact ite (next _) (next _)
    · exact next _
  · exact next _

theorem quarantine {g a s} : Goes (execQuarantine g a s) := slot fun _ => ite (next _) (ite (next _) (next _))

theorem hackset {g a v s} : Goes (execHackset g a v s) := slot fun _ => ite (next _) (next _)

theorem dirtyclr {g a b s} : Goes (execDirtyclr g a b s) := by
  refine slot fun t => ?_
  dsimp only
  split
  · exact next _
  · exact ite (next _) (ite (next _) (next _))

theorem rdpw {g d a sz k s} : Goes (execRdpw g d a sz k s) := slot fun _ => ite (next _) (next _)

theorem rdtime {g d s} : Goes (execRdtime g d s) := slot fun _ => input (fun _ => next _) fun _ _ => next _

/-! The V slot (07 R228 to R238). -/

theorem vresult {lat d act vs es s} : Goes (vresult lat d act vs es s) := by
  unfold Machine.vresult
  dsimp only
  cases d with
  | line | mask => exact next _
  | port => exact out fun _ _ => next _
  | _ => exact next _

theorem dresult {lat d v es s} : Goes (dresult lat d v es s) := by
  unfold Machine.dresult
  cases d <;> exact next _

theorem lanes1 {lat i ty d a f s} : Goes (lanes1 lat i ty d a f s) := slot fun _ => out fun _ _ => vresult

theorem lanes2 {lat i ty d a b f s} : Goes (lanes2 lat i ty d a b f s) := slot fun _ => out fun _ _ => out fun _ _ => vresult

theorem lanes3 {lat i ty d a b f s} : Goes (lanes3 lat i ty d a b f s) := slot fun _ => out fun _ _ => out fun _ _ => vresult

theorem across {lat i d a f s} : Goes (across lat i d a f s) := slot fun _ => out fun _ _ => vresult

theorem permute {lat i d a b f s} : Goes (permute lat i d a b f s) := slot fun _ => out fun _ _ => out fun _ _ => vresult

theorem manage {i m f s} : Goes (manage i m f s) := slot fun _ => next _

theorem mmr {g m a b sz s} : Goes (execMmr g m a b sz s) := slot fun _ => out fun _ _ => out fun _ _ => next _

theorem mwake {g m s} : Goes (execMwake g m s) := by
  refine slot fun t => ?_
  cases (t.core.r.m.get m).power <;> exact next _

theorem bscale {g d a b sz s} : Goes (execBscale g d a b sz s) := slot fun _ => out fun _ _ => ite dresult vresult

theorem vsel {g d a b s} : Goes (execVsel g d a b s) := slot fun _ => out fun _ _ => out fun _ _ => vresult

theorem viota {g d a b s} : Goes (execViota g d a b s) := slot fun _ => out fun _ _ => out fun _ _ => vresult

theorem vred {g d a f s} : Goes (execVred g d a f s) := slot fun _ => out fun _ _ => ite dresult vresult

theorem vscan {g d a f sz s} : Goes (execVscan g d a f sz s) := slot fun _ => out fun _ _ => vresult

theorem maskResult {lat d v s} : Goes (maskResult lat d v s) := by
  unfold Machine.maskResult
  cases d <;> exact next _

theorem vmask {g d a b sz s} : Goes (execVmask g d a b sz s) := by
  refine slot fun t => ?_
  split
  · exact maskResult
  · exact maskResult
  · exact dresult
  · exact out fun _ _ => vresult
  · exact out fun _ _ => vresult

theorem vpopc {g d a s} : Goes (execVpopc g d a s) := slot fun _ => ite dresult (out fun _ _ => vresult)

theorem vext {g d a b sz s} : Goes (execVext g d a b sz s) := slot fun _ => out fun _ _ => out fun _ _ => dresult

/-! The E slot (02 R60, 12 R381). -/

theorem engineOp {i s} (h : engineCode i < 7) : Goes (exec i s) := by
  rw [exec_engineOp i s h]
  exact slot fun _ => ite (next _) (next _)

end Goes

end Sys2Proof.Proofs

/-! PROOF. Every outcome is a next state: the engines' units and the messages of an exchange (08, 09, 10, 11). -/

namespace Sys2Proof.Proofs

open Sys2Proof.Machine Sys2Proof.Laws Sys2Proof.Safety

namespace Goes

/-! The shapes of a unit. -/

theorem eng {α : Type} {a : Act α} {q : Nat} {c : Cmd} {kind : AKind} {f : α → State → EngEnds} (h : ∀ v t, Goes (f v t)) :
    Goes (a.eng q c kind f) := by
  cases a with
  | ok v t => exact h v t
  | _ => exact next _

theorem signal {α : Type} {a : Act α} {c : Cmd} {kind : AKind} {f : α → State → EngEnds} (h : ∀ v t, Goes (f v t)) :
    Goes (a.signal c kind f) := by
  cases a with
  | ok v t => exact h v t
  | _ => exact next _

theorem commitShown {q c ag ws extra shown adv s} : Goes (commitShown q c ag ws extra shown adv s) := by
  unfold Machine.commitShown
  split
  · exact next _
  · dsimp only
    split
    · split <;> exact next _
    · refine ite (next _) ?_
      split <;> exact next _

theorem commitWith {q c ag ws extra adv s} : Goes (commitWith q c ag ws extra adv s) := commitShown

theorem commitUnit {q c ag ws adv s} : Goes (commitUnit q c ag ws adv s) := commitShown

theorem atCore {k : Nat} {f : State → EngEnds} {s : State} (h : ∀ t, Goes (f t)) : Goes (atCore k f s) := by
  obtain ⟨u, hu⟩ := h (s.focus k)
  exact ⟨_, atCore_of_next hu⟩

theorem onFabric {m : Message} {s : State} {f : State → EngEnds} (h : ∀ t, Goes (f t)) : Goes (onFabric m s f) := by
  refine ite (next _) ?_
  cases arrive m s with
  | none => exact next _
  | some t => exact h t

/-! The copy engine (11 R318 to R330). -/

theorem finishChunk {c ag o s} : Goes (finishChunk c ag o s) := commitUnit

theorem runChunk {c ag far ue srcs dsts build s} : Goes (runChunk c ag far ue srcs dsts build s) := by
  refine eng fun ls t => eng fun ds u => ?_
  dsimp only
  split
  · exact next _
  · exact finishChunk

theorem moveChunk {c b ue es xs s} : Goes (moveChunk c b ue es xs s) := runChunk

theorem indexedChunk {c b ue scatter k s} : Goes (indexedChunk c b ue scatter k s) := eng fun _ _ => moveChunk

theorem planeChunk {c b ue k s} : Goes (planeChunk c b ue k s) := runChunk

theorem unplaneChunk {c b ue k s} : Goes (unplaneChunk c b ue k s) := by
  refine eng fun tops t => ?_
  dsimp only
  split
  · exact next _
  · exact runChunk

theorem pageinChunk {c b ue k s} : Goes (pageinChunk c b ue k s) := eng fun _ _ => eng fun _ _ => ite (next _) runChunk

theorem extractChunk {c b ue k s} : Goes (extractChunk c b ue k s) := eng fun _ _ => eng fun _ _ => finishChunk

theorem applyChunk {c b ue k s} : Goes (applyChunk c b ue k s) := by
  refine eng fun es t => eng fun rs u => ?_
  split
  · exact next _
  · exact next _
  · exact finishChunk

theorem putLeaf {ag at_ va e s f} : Goes (putLeaf ag at_ va e s f) := by
  unfold Machine.putLeaf
  split <;> exact next _

theorem migratePage {ue s} : Goes (migratePage ue s) := by
  unfold Machine.migratePage
  split
  · exact next _
  · split
    · refine ite (next _) ?_
      split
      · exact eng fun _ _ => ite (next _) (ite (next _) putLeaf)
      · exact commitShown
      · exact ite putLeaf (next _)
      · exact putLeaf
      · exact next _
    · exact next _

theorem copyChunk {ue s} : Goes (execCopyChunk ue s) := by
  unfold execCopyChunk
  split
  · exact next _
  · dsimp only
    split
    · exact moveChunk
    · exact moveChunk
    · exact moveChunk
    · exact indexedChunk
    · exact indexedChunk
    · exact ite planeChunk unplaneChunk
    · exact ite planeChunk unplaneChunk
    · exact pageinChunk
    · exact ite extractChunk applyChunk
    · exact migratePage
    · exact next _

/-! Phases and the matrix engine (08 R239 to R295). -/

theorem fetchPhase {q pair t0 t1 bit unit s} : Goes (fetchPhase q pair t0 t1 bit unit s) := ite (next _) (next _)

theorem completePhase {q c ph ue rd s} : Goes (completePhase q c ph ue rd s) := by
  refine eng fun m t => ?_
  split <;> exact next _

theorem gemmFetch {c s} : Goes (gemmFetch c s) := ite fetchPhase (ite fetchPhase (next _))

theorem gemmStep {c pa pb s} : Goes (gemmStep c pa pb s) := eng fun _ _ => next _

theorem gemmNext {c s} : Goes (gemmNext c s) := by
  refine ite (next _) ?_
  split
  · exact gemmStep
  · exact next _

theorem retireElems {c ag es adv s} : Goes (retireElems c ag es adv s) := eng fun _ _ => commitUnit

theorem gemmRetire {c s} : Goes (gemmRetire c s) := ite (next _) (ite retireElems (ite retireElems (next _)))

theorem attnFetch {c s} : Goes (attnFetch c s) := by
  refine ite (next _) (ite (eng fun _ _ => next _) (ite fetchPhase ?_))
  split
  · refine ite (ite (eng fun p t => ?_) fetchPhase) ?_
    · cases p
      · exact fetchPhase
      · exact next _
    · split
      · exact fetchPhase
      · exact next _
  · exact fetchPhase
  · exact next _

theorem mattnKeyTileVisit {s} : Goes (execMattnKeyTileVisit s) := by
  unfold execMattnKeyTileVisit
  split
  · exact next _
  · refine ite (next _) (ite (next _) ?_)
    split
    · exact next _
    · split <;> exact next _

theorem attnRetire {c s} : Goes (attnRetire c s) := ite (next _) (ite retireElems (ite retireElems (next _)))

theorem matrixTileStep {ue s} : Goes (execMatrixTileStep ue s) := by
  unfold execMatrixTileStep
  split
  · exact next _
  · split
    · exact next _
    · exact next _
    · exact ite gemmNext (next _)

theorem matrixRetirement {s} : Goes (execMatrixRetirement s) := by
  unfold execMatrixRetirement
  split
  · exact next _
  · exact ite gemmRetire attnRetire

/-! The vector macros (10). -/

theorem vmacroFetch {s} : Goes (vmacroFetch s) := by
  unfold Machine.vmacroFetch
  split
  · exact next _
  · exact ite (next _) (ite (next _) fetchPhase)

theorem vmacroWrite {c es adv s} : Goes (vmacroWrite c es adv s) := eng fun _ _ => commitUnit

theorem vsortRunSegment {ue s} : Goes (execVsortRunSegment ue s) := by
  unfold execVsortRunSegment
  split
  · exact next _
  · refine ite (next _) ?_
    split
    · exact next _
    · exact next _
    · exact eng fun _ _ => ite (next _) vmacroWrite

theorem rowOperation {ue s} : Goes (execRowOperation ue s) := by
  unfold execRowOperation
  split
  · exact next _
  · refine ite (next _) ?_
    split
    · exact next _
    · exact next _
    · exact vmacroWrite

/-! The scout (09). -/

theorem scoutFetch {c s} : Goes (scoutFetch c s) := by
  refine ite (next _) (ite (eng fun _ _ => next _) (ite (next _) (ite fetchPhase ?_)))
  split
  · exact next _
  · exact ite (next _) (ite (eng fun _ _ => ite (next _) fetchPhase) fetchPhase)

theorem scoutWrite {c es adv s} : Goes (scoutWrite c es adv s) := eng fun _ _ => commitUnit

theorem storeRows {c b p s} : Goes (storeRows c b p s) := scoutWrite

theorem scoutSweep1Tile {ue s} : Goes (execScoutSweep1Tile ue s) := by
  unfold execScoutSweep1Tile
  split
  · exact next _
  · refine ite (next _) (ite (next _) ?_)
    split
    · exact next _
    · exact next _
    · refine ite storeRows ?_
      split
      · exact ite (next _) scoutWrite
      · split
        · exact scoutWrite
        · exact next _

theorem scoutSweep2 {ue s} : Goes (execScoutSweep2 ue s) := by
  unfold execScoutSweep2
  split
  · exact next _
  · exact ite (next _) (ite (next _) (eng fun _ _ => eng fun _ _ => scoutWrite))

theorem scoreTile {c b p ph s} : Goes (scoreTile c b p ph s) := scoutWrite

theorem sscoreTile {ue s} : Goes (execSscoreTile ue s) := by
  unfold execSscoreTile
  split
  · exact next _
  · refine ite (next _) ?_
    split
    · exact next _
    · refine ite ?_ (ite (next _) scoreTile)
      split
      · exact scoreTile
      · exact next _

theorem maskRow {s} : Goes (execMaskRow s) := by
  unfold execMaskRow
  split
  · exact next _
  · dsimp only
    split
    · exact scoutWrite
    · exact eng fun _ _ => eng fun _ _ => scoutWrite
    · exact next _

/-! The exchange engine (11 R331 to R344). -/

theorem sendStaged {c b ue m s} : Goes (sendStaged c b ue m s) := commitWith

theorem commitAct {c b k a chunk o s} : Goes (commitAct c b k a chunk o s) := by
  refine eng fun ds t => ?_
  dsimp only
  split
  · exact eng fun _ _ => commitUnit
  · exact commitUnit
  · exact next _

theorem exchangeStep {ue s} : Goes (execExchangeStep ue s) := by
  unfold execExchangeStep
  split
  · exact next _
  · dsimp only
    split
    · exact sendStaged
    · refine eng fun ls t => ?_
      split
      · exact next _
      · exact commitAct
    · split
      · split <;> exact next _
      · exact next _

theorem startMsg {m s} : Goes (execStartMsg m s) := by
  refine onFabric fun t => ?_
  split
  · exact next _
  · exact atCore fun _ => next _

theorem takeData {m s} : Goes (takeData m s) := by
  unfold Machine.takeData
  split
  · exact next _
  · refine ite (next _) (ite (next _) (ite (next _) (ite (next _) ?_)))
    split <;> exact next _

theorem dataMsg {m s} : Goes (execDataMsg m s) := by
  refine onFabric fun t => ?_
  split
  · exact atCore fun _ => takeData
  · exact atCore fun _ => next _
  · exact next _

theorem ackMsg {m s} : Goes (execAckMsg m s) := by
  refine onFabric fun t => ?_
  dsimp only
  split
  · exact next _
  · exact atCore fun _ => next _

theorem pausedMsg {m s} : Goes (execPausedMsg m s) := by
  refine onFabric fun t => ?_
  split
  · exact next _
  · exact atCore fun _ => next _

/-! Commands, their phases and signals (01 R24 to R30, 08 R239). -/

theorem commandStart {q s} : Goes (execCommandStart q s) := by
  unfold execCommandStart
  split
  · exact next _
  · refine ite (next _) (ite (next _) ?_)
    split
    · exact next _
    · refine ite (next _) (ite (next _) ?_)
      split <;> exact next _

theorem commandComplete {q s} : Goes (execCommandComplete q s) := by
  unfold execCommandComplete
  split
  · exact next _
  · exact ite (next _) (next _)

theorem engineStop {q s} : Goes (execEngineStop q s) := ite (next _) (next _)

theorem etrelAtHead {q s} : Goes (execEtrelAtHead q s) := by
  unfold execEtrelAtHead
  split
  · exact next _
  · split
    · exact ite (next _) (ite (next _) (ite (next _) (next _)))
    · exact next _

theorem qfenceRelease {k s} : Goes (execQfenceRelease k s) := by
  unfold execQfenceRelease
  split
  · exact next _
  · exact ite (next _) (next _)

theorem performSignal {c ag va v l irr s} : Goes (performSignal c ag va v l irr s) := by
  have hwrite : ∀ t : State, Goes (match performRun ag none l.key (b8 v) (if ag.scope = 0 then t else t.releaseL1) with
      | (false, u) => .next u
      | (true, u) => .next (removeSignal c (if l.far then u.countFar (dieOf ag.core) ag.part va 1 else u))) := fun t => by
    split <;> exact next _
  refine ite (hwrite s) (ite (next _) (ite (hwrite s) ?_))
  split
  · exact next _
  · split
    · exact hwrite _
    all_goals exact next _

theorem esignalPerform {k s} : Goes (execEsignalPerform k s) := by
  unfold execEsignalPerform
  split
  · exact next _
  · split
    · exact next _
    · exact ite (next _) (ite (next _) (signal fun _ _ => ite (next _) (signal fun _ _ => ite (next _) (ite (next _) performSignal))))

theorem phaseFetch {q s} : Goes (execPhaseFetch q s) := by
  unfold execPhaseFetch
  split
  · exact next _
  · split
    · exact ite gemmFetch attnFetch
    · exact scoutFetch
    · exact vmacroFetch
    · exact next _

theorem phaseFetchDone {q ue s} : Goes (execPhaseFetchDone q ue s) := by
  unfold execPhaseFetchDone
  split
  · split
    · exact completePhase
    · exact ite (next _) completePhase
    · exact ite completePhase (next _)
    · exact next _
  · exact next _

end Goes

end Sys2Proof.Proofs

/-! PROOF. Every outcome is a next state: the fabric, the fetcher, the dispatcher, the host's and the device's events, and with them every
instruction and every step (02 R42, 05 R151, 13, 14). -/

namespace Sys2Proof.Proofs

open Sys2Proof.Machine Sys2Proof.Laws Sys2Proof.Safety

namespace Goes

/-! The core's own events (02 R46, 05 R149 R182, 12 R382). -/

theorem forcedQuiescentPoint {s} : Goes (execForcedQuiescentPoint s) := by
  unfold execForcedQuiescentPoint
  split <;> exact next _

theorem loopEndStep {s} : Goes (execLoopEndStep s) := by
  refine ite (next _) ?_
  split <;> exact next _

theorem waitConversion {s} : Goes (execWaitConversion s) := by
  refine ite (next _) ?_
  split <;> exact next _

theorem txAbort {r s} : Goes (execTxAbort r s) := by
  unfold execTxAbort
  split <;> exact next _

theorem tlbShootdownComplete {s} : Goes (execTlbShootdownComplete s) := ite (next _) (next _)

theorem writeBlockRetry {s} : Goes (execWriteBlockRetry s) := ite (next _) (next _)

theorem dirtyRingResume {s} : Goes (execDirtyRingResume s) := by
  unfold execDirtyRingResume
  dsimp only
  split
  · exact next _
  · split
    · exact next _
    · exact ite (next _) writeBlockRetry

theorem svcresWrite {v s} : Goes (execSvcresWrite v s) := ite (next _) (next _)

theorem hackmWrite {k v s} : Goes (execHackmWrite k v s) := ite (next _) (next _)

theorem trootWrite {v s} : Goes (execTrootWrite v s) := ite (next _) (next _)

theorem traceSample {s} : Goes (execTraceSample s) := ite (next _) (next _)

theorem ueRegister {s} : Goes (execUeRegister s) := ite (next _) (ite (next _) (next _))

theorem fwEventWake {s} : Goes (execFwEventWake s) := ite (next _) (next _)

/-! Links, faults and the rings of a partition (10 R448, 13 R390, 14 R440). -/

theorem linkRetryRequest {port seq s} : Goes (execLinkRetryRequest port seq s) := ite (next _) (next _)

theorem linkAcknowledgement {port seq s} : Goes (execLinkAcknowledgement port seq s) := ite (next _) (next _)

theorem configAreaWalkRetry {part area s} : Goes (execConfigAreaWalkRetry part area s) := by
  unfold execConfigAreaWalkRetry
  split
  · exact next _
  · exact ite (next _) (next _)

theorem tierNotify {die idx s} : Goes (execTierNotify die idx s) := by
  unfold execTierNotify
  split
  · exact next _
  · exact ite (next _) (ite (next _) (next _))

theorem faultReplyPoll {w s} : Goes (execFaultReplyPoll w s) := by
  unfold execFaultReplyPoll
  split
  · exact next _
  · split
    · exact next _
    · exact ite (next _) (ite (next _) (next _))

theorem tfringPostRetry {w s} : Goes (execTfringPostRetry w s) := by
  unfold execTfringPostRetry
  split
  · exact next _
  · split
    · exact next _
    · exact next _
    · exact next _
    · split <;> exact next _

/-! Packets and pipelines (13 R389 to R419). -/

theorem startOf {p k ty s f} : Goes (startOf p k ty s f) := by
  unfold Machine.startOf
  dsimp only
  split <;> exact next _

theorem packetLine0Poll {part k s} : Goes (execPacketLine0Poll part k s) := by
  unfold execPacketLine0Poll
  dsimp only
  split
  · exact next _
  · exact ite (next _) (ite (next _) (ite (next _) (next _)))

theorem waitvSatisfied {part k s} : Goes (execWaitvSatisfied part k s) := by
  unfold execWaitvSatisfied
  split
  · exact next _
  · split
    · exact next _
    · exact ite (next _) (next _)

theorem ibSpinWatchdog {part k s} : Goes (execIbSpinWatchdog part k s) := by
  unfold execIbSpinWatchdog
  split
  · exact next _
  · exact ite (next _) (next _)

theorem packetFence {part k s} : Goes (execPacketFence part k s) := by
  obtain ⟨u, hu⟩ := startOf (p := part) (k := k) (ty := 6) (s := s) (f := fun _ _ s => startHead part k s)
  unfold execPacketFence
  rw [hu]
  exact next _

theorem ckpt {part k s} : Goes (execCkpt part k s) := by
  unfold execCkpt
  split
  · exact next _
  · exact startOf

theorem pswitchActivate {part pipe s} : Goes (execPswitchActivate part pipe s) := by
  unfold execPswitchActivate
  split
  · exact next _
  · split
    · exact next _
    · exact ite (next _) (next _)

theorem blockedReevaluation {part pipe s} : Goes (execBlockedReevaluation part pipe s) := by
  unfold execBlockedReevaluation
  split <;> exact next _

theorem suspendedPoll {part pipe s} : Goes (execSuspendedPoll part pipe s) := by
  unfold execSuspendedPoll
  split <;> exact next _

theorem launchComplete {part pipe s} : Goes (execLaunchComplete part pipe s) := by
  unfold execLaunchComplete
  split
  · exact next _
  · exact ite (next _) (next _)

/-! The host, the device and its partitions (14 R434 to R454). -/

theorem db {part k v s} : Goes (execDb part k v s) := by
  refine ite (next _) ?_
  dsimp only
  split <;> exact next _

theorem dbgdb {part v s} : Goes (execDbgdb part v s) := ite (next _) (next _)

theorem hreq {part n v s} : Goes (execHreq part n v s) := by
  refine ite (next _) ?_
  split
  · exact next _
  · exact ite (next _) (ite (next _) (ite (next _) (next _)))

theorem deviceRegisterWrite (off v s) : Goes (execDeviceRegisterWrite off v s) := by
  unfold execDeviceRegisterWrite
  cases off <;> exact next _

theorem partitionConfiguration {s} : Goes (execPartitionConfiguration s) := by
  refine ite (next _) ?_
  dsimp only
  split
  · exact next _
  · exact ite (next _) (ite (next _) (ite (next _) (next _)))

theorem granuleZeroingComplete {gran s} : Goes (execGranuleZeroingComplete gran s) := by
  unfold execGranuleZeroingComplete
  split
  · exact next _
  · refine ite (next _) (ite (next _) ?_)
    dsimp only
    split <;> exact next _

theorem pswapScratchpadRestore {s} : Goes (execPswapScratchpadRestore s) := by
  unfold execPswapScratchpadRestore
  split
  · exact next _
  · split <;> exact next _

theorem hostCxlMemRead {hpa s} : Goes (execHostCxlMemRead hpa s) := by
  unfold execHostCxlMemRead
  split <;> exact next _

theorem hostCxlMemWrite {hpa bytes s} : Goes (execHostCxlMemWrite hpa bytes s) := by
  unfold execHostCxlMemWrite
  split
  · refine ite (next _) ?_
    dsimp only
    split
    · exact next _
    · split <;> exact next _
  · exact next _

theorem hostSnoop {hpa bytes s} : Goes (execHostSnoop hpa bytes s) := ite (next _) (next _)

theorem powerGoodBoot {s} : Goes (execPowerGoodBoot s) := ite (next _) (next _)

theorem deviceReady {s} : Goes (execDeviceReady s) := ite (next _) (ite (next _) (next _))

theorem deviceReset {s} : Goes (execDeviceReset s) := ite (next _) (next _)

theorem pldmFirmwareUpdate {die image s} : Goes (execPldmFirmwareUpdate die image s) := ite (next _) (next _)

theorem attestationRequest {nonce s} : Goes (execAttestationRequest nonce s) := ite (next _) (next _)

theorem thermalTrip {die s} : Goes (execThermalTrip die s) := ite (next _) (next _)

/-- An operation of the debug queue (12 R368). -/
theorem dbgOp {p op f s} : Goes (dbgOp p op f s) := by
  unfold Machine.dbgOp
  split
  · exact next _
  · refine ite (next _) (ite (next _) ?_)
    split <;> exact next _

/-- Every instruction of a slot answers a next state: each is its shape, or the checks around its own effect. -/
theorem slotted {i : Instr} (h : isEvent i = false) (s : State) : Goes (exec i s) := by
  cases i with
  | nop | bfi | sel | limm | limmPair | pcadd | mfs | mts | shw | btmovToBt | btmovFromBt | btset | agw | xpw | chkerr | segset | ecnt
    | rdwin | tlbinvPage | tlbinvAll | cinvWbinv | cinvInv | fenceOp | txstat =>
    unfold Machine.exec
    exact slot fun _ => next _
  | add | sub | mul | mulh | mulhn | andOp | orOp | xorOp | andn | sll | srl | sra | rol | minOp | maxOp | minn | maxn | bfx | cvtaCl =>
    unfold Machine.exec
    exact alu2
  | div | divn | rem | remn =>
    unfold Machine.exec
    exact divide
  | absOp | clz | ctz | popc | sext | zext | addi | andi | ori | xori | slli | srli | srai | muli | lihi | lihiPair | cvtaOff | cvtaOwn =>
    unfold Machine.exec
    exact alu1
  | cmpeq | cmpne | cmplt | cmple | cmpltn | cmplen =>
    unfold Machine.exec
    exact compare
  | cmpeqi | cmplti | cmpltni | tstbit | isap =>
    unfold Machine.exec
    exact compareImm
  | pand | por | pxor | pandn =>
    unfold Machine.exec
    exact plogic
  | rdpw => exact rdpw
  | rdtime => exact rdtime
  | cinvWbpage => exact cinvWbpage
  | ctxsave => exact ctxsave
  | ctxload => exact ctxload
  | pswap => exact pswap
  | quarantine => exact quarantine
  | svc | trapOp | idle =>
    unfold Machine.exec
    exact slot fun _ => post ..
  | hackset => exact hackset
  | dirtyclr => exact dirtyclr
  | tree => exact tree
  | br | bri | ret =>
    unfold Machine.exec
    exact slot fun _ => transfer
  | call | calli =>
    unfold Machine.exec
    exact slot fun _ => callTo
  | loopOp => exact loopOp
  | yield | suspend =>
    unfold Machine.exec
    exact slot fun _ => stop ..
  | fork => exact fork
  | exitOp => exact exitOp
  | waitMem => exact waitMem
  | waitEng => exact waitEng
  | rftResume | rftYield | rftSuspend | rftFault | rftHold =>
    unfold Machine.exec
    exact rft
  | ldB | ldH | ldW | ldD | ldnB | ldnH | ldnW =>
    unfold Machine.exec
    exact loadScalar
  | ldtag => exact ldtag
  | stB | stH | stW | stD =>
    unfold Machine.exec
    exact storeScalar
  | sttag => exact sttag
  | ldv =>
    unfold Machine.exec
    exact slot fun _ => load fun _ _ => next _
  | ldvs | ldg =>
    unfold Machine.exec
    exact slot fun _ => loadLine
  | stv | stvs | stg =>
    unfold Machine.exec
    exact slot fun _ => storeLine
  | ldx =>
    unfold Machine.exec
    exact slot fun _ => ite (next _) (load fun _ _ => next _)
  | aadd | aand | aor | axor | amin | amax | aminn | amaxn | axchg =>
    unfold Machine.exec
    exact atomic64
  | acas | afadd =>
    unfold Machine.exec
    exact atomic
  | promote => exact promote
  | prefetch => exact prefetch
  | cflushWb | cflushInv | cflushMem =>
    unfold Machine.exec
    exact cflush
  | barinit => exact barinit
  | bararr => exact bararr
  | barwait => exact barwait
  | qpush => exact qpush
  | qpop | qtry =>
    unfold Machine.exec
    exact pop
  | rsend => exact rsend
  | rrecv => exact rrecv
  | ttdef => exact ttdef
  | ttsetReady => exact ttsetReady
  | ttsetEmpty | ttrel =>
    unfold Machine.exec
    exact releaseTile
  | ttstat => exact ttstat
  | txbegin => exact txbegin
  | txend => exact txend
  | txabort => exact txabort
  | fabs | fneg | fexp2 | frint | iabs | cvt | vmov | frcp | frsq | flog2 =>
    unfold Machine.exec
    exact lanes1
  | fcpys | fcmpeq | fcmplt | fcmple | fcmpun | hadd | hmul | hmax | qnt | dqnt | fadd | fsub | fmul | fmax | fmin | iadd | isub | imul
    | imulh | imax | imin | imaxn | iminn | iand | ior | ixor | ishl | ishr | isra | icmpeq | icmplt | icmpltn =>
    unfold Machine.exec
    exact lanes2
  | ffma | ffms | hfma | imad =>
    unfold Machine.exec
    exact lanes3
  | plpack | plunpk =>
    unfold Machine.exec
    exact across
  | vbcast | vshuf | vrot =>
    unfold Machine.exec
    exact permute
  | mzero | mgate | mdrowsy | minval =>
    unfold Machine.exec
    exact manage
  | mmr => exact mmr
  | mwake => exact mwake
  | bscale => exact bscale
  | vsel => exact vsel
  | viota => exact viota
  | vred => exact vred
  | vscan => exact vscan
  | vmask => exact vmask
  | vpopc => exact vpopc
  | vext => exact vext
  | mgemm | mgemms | mconv | mattn | scout | swin | smask | sscore | ccopy | cgather | cscatter | cfill | ctrans | cplane | cflat | cpagein
    | cmigrate | ctags | vsort | vsoftmax | vnorm | vreduce | allred | allgath | redscat | xbcast | alltoall | xsend | xrecv | logflush
    | qfence | etrel | ecancel | esignal | esignalAdd | logmark => exact engineOp (of_decide_eq_true rfl)
  | _ => exact nomatch (show true = false from h)

/-- Every event answers a next state. -/
theorem event {i : Instr} (h : isEvent i = true) (s : State) : Goes (exec i s) := by
  cases i with
  | resultLanding | interlockedResultArrival | windowClose | watchdog | timer | waitSatisfied | exchangeTimeout | linkUe
    | linkTrainingStart | linkTrainingComplete | linkTrainingTimeout | dispatchDecision | remontoireRefill | cfgreq | feliWrite
    | logRingWrite | logtailWrite | ceRate | mctpControlMessage | pldmMonitoring | drowsyWakeComplete | flitCrcError
    | thermalTripResume | mainPowerRemoved => exact next _
  | forcedQuiescentPoint => exact forcedQuiescentPoint
  | loopEndStep => exact loopEndStep
  | waitConversion => exact waitConversion
  | commandStart => exact commandStart
  | commandComplete => exact commandComplete
  | engineStop => exact engineStop
  | etrelAtHead => exact etrelAtHead
  | qfenceRelease => exact qfenceRelease
  | esignalPerform => exact esignalPerform
  | copyChunk => exact copyChunk
  | cmigratePage => exact migratePage
  | phaseFetch => exact phaseFetch
  | phaseFetchDone => exact phaseFetchDone
  | matrixTileStep => exact matrixTileStep
  | matrixRetirement => exact matrixRetirement
  | mattnKeyTileVisit => exact mattnKeyTileVisit
  | scoutSweep1Tile => exact scoutSweep1Tile
  | scoutSweep2 => exact scoutSweep2
  | sscoreTile => exact sscoreTile
  | maskRow => exact maskRow
  | vsortRunSegment => exact vsortRunSegment
  | rowOperation => exact rowOperation
  | exchangeStep => exact exchangeStep
  | startMsg => exact startMsg
  | dataMsg => exact dataMsg
  | ackMsg => exact ackMsg
  | pausedMsg => exact pausedMsg
  | linkRetryRequest => exact linkRetryRequest
  | linkAcknowledgement => exact linkAcknowledgement
  | faultReplyPoll => exact faultReplyPoll
  | tfringPostRetry => exact tfringPostRetry
  | tlbShootdownComplete => exact tlbShootdownComplete
  | writeBlockRetry => exact writeBlockRetry
  | tierNotify => exact tierNotify
  | dirtyRingResume => exact dirtyRingResume
  | configAreaWalkRetry => exact configAreaWalkRetry
  | blockedReevaluation => exact blockedReevaluation
  | suspendedPoll => exact suspendedPoll
  | packetLine0Poll =>
    unfold Machine.exec
    exact packetLine0Poll
  | packetNop | launch | waitv | signalPacket | ibcall | ibjump | capstart | capstop | zeroPacket | pswitch =>
    unfold Machine.exec
    exact startOf
  | launchComplete => exact launchComplete
  | waitvSatisfied => exact waitvSatisfied
  | ibSpinWatchdog => exact ibSpinWatchdog
  | packetFence => exact packetFence
  | ckpt => exact ckpt
  | pswitchActivate => exact pswitchActivate
  | db => exact db
  | dbgdb => exact dbgdb
  | hreq => exact hreq
  | deviceRegisterWrite off v => exact deviceRegisterWrite off v s
  | partitionConfiguration => exact partitionConfiguration
  | pswapScratchpadRestore => exact pswapScratchpadRestore
  | hostCxlMemRead => exact hostCxlMemRead
  | hostCxlMemWrite => exact hostCxlMemWrite
  | hostSnoop => exact hostSnoop
  | fwEventWake => exact fwEventWake
  | svcresWrite => exact svcresWrite
  | hackmWrite => exact hackmWrite
  | trootWrite => exact trootWrite
  | traceSample => exact traceSample
  | txAbort => exact txAbort
  | dbgStop | dbgRstep | dbgRunback | dbgReplay | dbgRead | dbgWrite | dbgResume =>
    unfold Machine.exec
    exact dbgOp
  | thermalTrip => exact thermalTrip
  | powerGoodBoot => exact powerGoodBoot
  | deviceReady => exact deviceReady
  | pldmFirmwareUpdate => exact pldmFirmwareUpdate
  | attestationRequest => exact attestationRequest
  | ueRegister => exact ueRegister
  | granuleZeroingComplete => exact granuleZeroingComplete
  | deviceReset => exact deviceReset
  | _ => exact nomatch (show false = true from h)

theorem exec (i : Instr) (s : State) : Goes (Machine.exec i s) := by
  by_cases h : isEvent i = true
  · exact event h s
  · exact slotted (Bool.eq_false_of_not_eq_true h) s

/-! A bundle, a turn and a step (02 R73 R76; log 5). -/

theorem actAll (xs : List (Fin 8 × Instr)) (s : State) : Goes (actAll xs s) := by
  induction xs generalizing s with
  | nil => exact next s
  | cons x xs ih =>
    obtain ⟨t, ht⟩ := exec x.2 (atSlot x.1 s)
    rw [Machine.actAll, ht]
    exact ih _

theorem complete {s b serial} : Goes (complete s b serial) := by
  obtain ⟨t, ht⟩ := actAll (inOrder s b).1 s
  unfold Machine.complete
  dsimp only
  rw [ht]
  dsimp only
  split
  · exact exec _ _
  · exact next _

/-- No slot stops the step. -/
theorem firstStop_waits {s : State} {b : Sound} {x : State ⊕ Ends} (h : firstStop s b = some x) : ∃ t, x = .inl t := by
  obtain ⟨y, -, hy⟩ := List.exists_of_findSome?_eq_some h
  obtain ⟨t, ht⟩ := exec y.2 (atSlot y.1 s)
  unfold meet at hy
  rw [ht] at hy
  dsimp only at hy
  split_ifs at hy
  cases hy
  exact ⟨t, rfl⟩

theorem issueSound {s b} : Goes (issueSound s b) := by
  refine ite (next _) ?_
  split
  · exact next _
  · split
    · exact next _
    · next h =>
      obtain ⟨t, ht⟩ := firstStop_waits h
      cases ht
    · exact complete

theorem endIssue {e : Ends} (h : Goes e) : Goes (endIssue e) := by
  obtain ⟨t, rfl⟩ := h
  exact next _

theorem issueBundle {s} : Goes (issueBundle s) := by
  unfold Machine.issueBundle
  dsimp only
  split
  · exact next _
  · split
    · exact next _
    · exact ite (next _) (ite (next _) (endIssue issueSound))

theorem issueCore {s} : Goes (issueCore s) := by
  refine ite (next _) (ite (next _) (ite (ite (next _) (ite (next _) (next _))) (ite (next _) (ite (ite (next _) (ite (next _) ?_))
    (ite (next _) (ite (next _) ?_))))))
  · split
    · exact exec _ _
    · exact next _
  · split
    · exact next _
    · exact issueBundle

theorem ownTurn {s} : Goes (ownTurn s) := by
  refine ite issueCore (ite issueCore ?_)
  split <;> exact next _

end Goes

/-- The turn of `s` ends in a next state, with an agenda of turns that `s` had, and memory and metadata in canonical form where they were. -/
def Turned (s : State) (e : Ends) : Prop := ∃ t, e = .next t ∧ t.agenda ⊆ s.agenda ∧
  (Memory.wf s.mem = true → Memory.wf t.mem = true) ∧ (swf 0 s.tags = true → swf 0 t.tags = true)

theorem endTurn_turned {s : State} {rest : List Turn} {e : Ends} (hrest : rest ⊆ s.agenda) (he : Goes e) : Turned s (endTurn s rest e) := by
  obtain ⟨u, rfl⟩ := he
  obtain ⟨t, ht, hagenda⟩ : ∃ t, endTurn s rest (.next u) = .next t ∧ t.agenda ⊆ s.agenda := by
    unfold endTurn
    dsimp only
    split
    · exact ⟨_, rfl, hrest⟩
    · exact ⟨_, rfl, List.append_subset.mpr ⟨hrest, List.take_subset ..⟩⟩
  obtain ⟨hmem, htags⟩ := endTurn_wf ht
  exact ⟨t, ht, hagenda, fun _ => hmem, fun _ => htags⟩

theorem takeTurn_turned {s : State} (h : agendaOk s) : Turned s (takeTurn s) := by
  unfold takeTurn
  split
  · exact endTurn_turned (List.nil_subset _) Goes.ownTurn
  · next c r hs =>
    have hsite : isSite c = true := h (.issue c) (hs ▸ List.mem_cons_self ..)
    have hrest : r ⊆ s.agenda := hs ▸ List.subset_cons_self ..
    rw [if_pos hsite]
    exact endTurn_turned hrest Goes.issueCore
  · next c i r hs =>
    have hsite : isSite c = true := h (.event c i) (hs ▸ List.mem_cons_self ..)
    have hrest : r ⊆ s.agenda := hs ▸ List.subset_cons_self ..
    rw [if_neg (by simp [hsite])]
    by_cases hi : isEvent i = true
    · rw [if_pos hi]
      exact endTurn_turned hrest (Goes.exec ..)
    · rw [if_neg hi]
      exact ⟨_, rfl, hrest, id, id⟩

/-- Settles O48: no instruction answers anything but a next state, so a turn stops only at a core that is no site of the package. -/
theorem stepsNeverStop : Obligations.StepsNeverStop := by
  unfold Obligations.StepsNeverStop
  refine ⟨Goes.exec, fun s h => ?_⟩
  obtain ⟨t, ht, hagenda, hmem, htags⟩ := takeTurn_turned h
  exact ⟨t, ht, fun turn hturn => h turn (hagenda hturn), hmem, htags⟩

end Sys2Proof.Proofs
